-- ==== Sys2Proof/Word.lean ====
section
/-! DEFINITION. The words the 2840 handles: octets of a frame, the seconds count and the other
32-bit counters, card numbers, and the shape of a table held sparsely by row. -/

namespace Sys2Proof

/-- An octet of a frame, or a set of up to eight members carried in one octet (R162). -/
abbrev Octet := BitVec 8

/-- A value of the seconds count (R165), of the join counter (R93) or of the Journal's sequence
counter (R85): 32 bits, wrapping. -/
abbrev Word32 := BitVec 32

/-- A card number: the series in the high octet, the serial in the low two (00_scope.md, Card
numbers). -/
abbrev CardNumber := BitVec 24

/-- A table by row number. A row that is not listed holds the value the table's rows have after a
cold reset. -/
abbrev Table (α : Type) := List (Nat × α)

end Sys2Proof
end

