-- ==== Sys2Proof/Config.lean ====
section
/-! DEFINITION. What the manual leaves open: each is a constant without a body, so nothing can be proved
of it but what holds for every value of its type. The values (log entry 14), all but `freeReserved`, are
met only after a parity fault has spoiled a row and the row has been used without being loaded afresh
(R15: its configuration may be wrong); that one only where a law of the device is broken. An estimate
lies within 0 to 10000 whatever becomes of it (R37), and so does each value that becomes one. -/

namespace Sys2Proof

/-- R23 divides by D − Z and relies on R5 for D > Z: the measured fill where D does not exceed Z, by
D, Z and the clamped distance. -/
opaque Config.freeMeasuredFill : Nat → Nat → Nat → Fin 10001

/-- R27 divides by V and relies on R5 for V > 0: the increment where V is 0, by w. -/
opaque Config.freeIncrement : Nat → Nat

/-- R26 relies on k ≤ 16 for an estimate within 0–10000: the estimate where e + t lies outside, by k,
e and m. -/
opaque Config.freeFilterEstimate : Nat → Nat → Nat → Fin 10001

/-- R36 relies on R5 for a residue within 0–2000: the estimate after a lift where the residue lies above
10000, by the residue. -/
opaque Config.freeResidueEstimate : Nat → Fin 10001

/-- R178 carries the value of an ARITHMETIC notice in two octets: the value carried for an increment
above 65535, by the increment. -/
opaque Config.freeEventValue : Nat → Fin 65536

/-- R54's available units are carried in two octets: those carried for a faulty row's available units
below −32768, by the available units. -/
opaque Config.freeAvailable : Int → Fin 65536

/-- R48 does not say what a release leaves when the reserved units are below the deposit's units:
the reserved units then, by both. -/
opaque Config.freeReserved : Nat → Nat → Nat

end Sys2Proof
end

