-- ==== Sys2Proof/Syntax.lean ====
section
/-! DEFINITION. The names and row records of the spec's tables, the characters of the two kinds of
line, and the commands: one constructor of `Instr` for each row of spec/opcode_table.json. The row
records stand here because a parity upset names the contents a row is found with. -/

namespace Sys2Proof.Machine

/-- One of the two station bus segments. -/
inductive Seg where
  | a | b
deriving DecidableEq, Repr

/-! ### Row records -/

/-- The six states of a station (Stations and the Poll Cycle, The Station Entry). -/
inductive StationState where
  | absent | unconfigured | configuring | inService | silent | cutOff
deriving DecidableEq, Repr

/-- What an ANNOUNCE carries (R149). -/
structure Announcement where
  model : Octet
  count : Octet
deriving DecidableEq, Repr

/-- A Station Entry (Stations and the Poll Cycle, The Station Entry). -/
structure Station where
  loaded : Bool
  count : Nat
  sampleInterval : Nat
  deadline : Nat
  state : StationState
  misses : Nat
  attempts : Nat
  /-- configure awaiting -/
  awaiting : Bool
  lastAnnounce : Option Announcement
  /-- CHECK, FRAMING, OVERRUN, MISMATCH, CONFIG FAIL in bits 0 to 4 -/
  errors : Octet
  lateAnswers : Nat
  discarded : Nat
deriving DecidableEq, Repr

/-- The configuration part of a Container Entry (Containers and Streams, The Container Entry). -/
structure ContainerConfig where
  stream : Nat
  /-- V, litres -/
  capacity : Nat
  /-- D, millimetres -/
  depth : Nat
  /-- Z, millimetres -/
  deadZone : Nat
  /-- w, litres -/
  hatchVolume : Nat
  /-- u, units -/
  unitCost : Nat
  zone : Nat
  /-- Tw -/
  warn : Nat
  /-- Tf -/
  full : Nat
  /-- Hy -/
  hysteresis : Nat
  /-- k, sixteenths -/
  gain : Nat
  /-- S -/
  spikeLimit : Nat
  /-- qmin -/
  qualityMin : Nat
  /-- ρ -/
  residue : Nat
  grantUnknown : Bool
  /-- REJECT, RANGE, SUSPECT, JUMP, SATURATED in bits 0 to 4 -/
  reportMask : Octet
deriving DecidableEq, Repr

/-- Service states, in the order of the Container Entry's table. -/
inductive ServiceState where
  | inService | lifting | stalled | outOfService
deriving DecidableEq, Repr

/-- Fill states (R30). -/
inductive FillState where
  | none | normal | warn | full
deriving DecidableEq, Repr

/-- The direction of a held spike (R25). -/
inductive SpikeDir where
  | up | down
deriving DecidableEq, Repr

/-- The stage of the lift timer (R113). -/
inductive LiftStage where
  | none | first | second
deriving DecidableEq, Repr

/-- A Container Entry (Containers and Streams, The Container Entry). -/
structure Container where
  loaded : Bool
  cfg : ContainerConfig
  service : ServiceState
  estimate : Option Nat
  /-- the suspect record: count 1 with its direction, or count 0 -/
  suspect : Option SpikeDir
  fill : FillState
  /-- the pending deposit reference; the deposit is the one the list holds for the row (R73) -/
  hasPending : Bool
  /-- the Ticket Ring slot of the ticket that holds the container as a PLANNED stop -/
  assignment : Option Nat
  joinSeq : Word32
  /-- REJECT, RANGE, SUSPECT, JUMP, SATURATED, UNPLANNED LIFT in bits 0 to 5 -/
  flags : Octet
  /-- deposits since last lift -/
  deposits : Nat
  /-- rejected samples -/
  rejected : Nat
  /-- the expiry second of a running lift timer -/
  liftTimer : Option Word32
  liftStage : LiftStage
deriving DecidableEq, Repr

/-- A Stream Entry (Containers and Streams, The Stream Entry). -/
structure StreamEntry where
  loaded : Bool
  charged : Bool
deriving DecidableEq, Repr

/-- A Series Map entry (Cards and Card Series). -/
structure SeriesEntry where
  valid : Bool
  barred : Bool
  onlineOnly : Bool
  base : Nat
  span : Nat
deriving DecidableEq, Repr

/-- The Visitor Window (R40). -/
structure VisitorWindow where
  base : Nat
  span : Nat
  onlineOnly : Bool
deriving DecidableEq, Repr

/-- Card Row states (R45). -/
inductive CardState where
  | empty | active | blocked | lost
deriving DecidableEq, Repr

/-- A Card Row (Cards and Card Series, The Card Row). -/
structure CardRow where
  state : CardState
  streamRights : Octet
  zoneRights : Octet
  balance : Int
  /-- the overdraft limit L -/
  limit : Nat
  reserved : Nat
  periodDeposits : Nat
  clamped : Bool
deriving DecidableEq, Repr

/-- The day and minute of a journal stamp and of the district clock (R84, R166). -/
structure DayMinute where
  day : Nat
  minute : Nat
deriving DecidableEq, Repr

/-- A Journal Record (R84). -/
structure JournalRecord where
  seq : Word32
  card : CardNumber
  row : Nat
  units : Nat
  /-- balance after commit -/
  balance : Int
  stamp : Option DayMinute
deriving DecidableEq, Repr

/-! ### The lines -/

/-- A character of a segment as its receiver completes it (R127): the mark bit, the eight data bits,
and whether the stop bit was at mark. -/
structure SegChar where
  mark : Bool
  data : Octet
  stopGood : Bool
deriving DecidableEq, Repr

/-- A character of the district link as its receiver completes it (R158). -/
structure LinkChar where
  data : Octet
  stopGood : Bool
deriving DecidableEq, Repr

/-- A row of Table Memory whose bits have been disturbed, with the contents it is found with: the
next read of the row fails its parity check (log entry 3). -/
inductive Upset where
  | station (addr : Nat) (found : Station)
  | container (row : Nat) (found : Container)
  | stream (code : Nat) (found : StreamEntry)
  | series (number : Nat) (found : SeriesEntry)
  | window (found : VisitorWindow)
  | card (row : Nat) (found : CardRow)
  | kind (kind : Nat) (route : Nat)
  | journal (slot : Nat) (found : JournalRecord)
deriving DecidableEq, Repr

end Sys2Proof.Machine

/-! ### The commands -/

namespace Sys2Proof

open Sys2Proof.Machine

/-- The part's steps. The management requests carry no operands of their own: each carries out the
request the Management Unit has taken from its queue (R162), and does nothing when that request is
not one of its kind (log entry 1). -/
inductive Instr where
  /-- COLD_RESET, with the LRATE strap as it is read: high or low (R158) -/
  | coldReset (lrateHigh : Bool)
  /-- SECONDS_COUNT_ADVANCE, with the rows upset while the second passed (log entry 3) -/
  | secondsCountAdvance (upsets : List Upset)
  | pendingExpiry
  /-- FIRST_LIFT_EXPIRY of the lift timer of a container row -/
  | firstLiftExpiry (row : Nat)
  /-- SECOND_LIFT_EXPIRY of the lift timer of a container row -/
  | secondLiftExpiry (row : Nat)
  | holdExpiry
  | supervisionExpiry
  | coalescingExpiry
  /-- DOWNLINK_FRAME_RECEIVED, with the characters that came in on LRX -/
  | downlinkFrameReceived (chars : List LinkChar)
  | uplinkSend
  | unknownRequest
  | loadStation
  | removeStation
  | readStation
  | clearStationErrors
  | setSegment
  | pollControlNone
  | pollControlStopNow
  | pollControlStopAfterCycle
  | pollControlStart
  | loadStreamLoad
  | loadStreamUnload
  | loadContainerLoad
  | loadContainerUnload
  | setContainerServiceOut
  | setContainerServiceIn
  | readContainer
  | clearContainerFlags
  | loadSeries
  | loadWindow
  | loadCards
  | adjustBalance
  | readCard
  | giveTicket
  | recallTicket
  | retireTicket
  | readTicket
  | readJournal
  | releaseJournal
  | loadKind
  | setUnknownRoute
  | setClock
  | setParameters
  | readStatus
  | readFaultCapture
  | restart
  /-- SEGMENT_FRAME_RECEIVED, with the characters that came in on the segment -/
  | segmentFrameReceived (seg : Seg) (chars : List SegChar)
  | replyTimeout (seg : Seg)
  | lineLow (seg : Seg)
  | segmentDown (seg : Seg)
  | busResetBreak (seg : Seg)
  | busResetBreakEnd (seg : Seg)
  | sendTurn (seg : Seg)
  | replyWindowOpen (seg : Seg)
  | emptyCycleEnd (seg : Seg)
  | breakOver (seg : Seg)
deriving DecidableEq, Repr

end Sys2Proof
end

