-- ==== Sys2Proof/Decode.lean ====
section
/-! DEFINITION. The command a word spells. No row of spec/opcode_table.json gives bits: the commands
are events at the part's lines, pins and clock, and no word spells one. What a line carries is
read by the receivers of R129 and R159, in Machine/Reception.lean and Machine/Link.lean. -/

namespace Sys2Proof

/-- No row of the table gives bits, so no word spells a command. -/
def decodeTableWord (_nbits _w : Nat) : Option Instr := none

end Sys2Proof
end

