-- ==== Sys2Proof/Machine/State.lean ====
section
/-! DEFINITION. The state of the 2840: every table, list, queue, timer and flag the manual gives it,
as plain data, and the state right after a cold reset. -/

namespace Sys2Proof.Machine

/-- No command of the 2840 stops the part: the reason type has no member. -/
inductive Fault where
deriving DecidableEq, Repr

/-- Why a command is not carried out. -/
inductive Refusal where
  /-- Raised by `exec`, for a command that has no meaning yet. It is safe: nothing is claimed. -/
  | notModelled (mnemonic : String)
deriving DecidableEq, Repr

/-- What a command answers. -/
abbrev Result (σ : Type) := Host.Outcome σ Fault Refusal

/-- A row of Table Memory: its contents, and whether its parity is wrong, so that the next read of it
fails its parity check (R15). -/
structure Row (α : Type) where
  data : α
  bad : Bool
deriving DecidableEq, Repr

/-! ### Segments -/

/-- Segment states (R134). -/
inductive SegState where
  | up | down | restoring
deriving DecidableEq, Repr

/-- The stop point of STOPPING (R145). -/
inductive StopPoint where
  | window | cycle
deriving DecidableEq, Repr

/-- The polling state (R145). -/
inductive PollState where
  | running
  | stopping (point : StopPoint)
  | stopped
deriving DecidableEq, Repr

/-- Refusal reasons of a presentation, in the order of their codes from 1 (R70). -/
inductive RefuseReason where
  | containerClosed | tableFault | unknownSeries | barred | offline | unknownCard | cardBlocked
  | cardLost | noRight | containerFull | busy | journalFull | noAllowance
deriving DecidableEq, Repr

/-- What an answer says (R70, R71). -/
inductive AnswerBody where
  | grant (units : Nat) (available : Int)
  | refuse (reason : RefuseReason)
deriving DecidableEq, Repr

/-- An answer waiting in a segment's answer queue (R72). -/
structure Answer where
  addr : Nat
  /-- the slot as the presentation gave it (R60) -/
  slot : Octet
  body : AnswerBody
deriving DecidableEq, Repr

/-- A frame of the downlink relay queue (R154). -/
structure DownRelay where
  addr : Nat
  kind : Octet
  payload : List Octet
deriving DecidableEq, Repr

/-- An open reply window (R131). -/
structure Window where
  addr : Nat
  /-- the reply timeout it was opened with, in milliseconds (R139) -/
  timeout : Nat
  /-- the timeout has run out while a frame was in progress -/
  heldOpen : Bool
  checkError : Bool
  framingError : Bool
deriving DecidableEq, Repr

/-- A segment controller (Station Bus Segments; Stations and the Poll Cycle). -/
structure Segment where
  state : SegState
  bitRate : Nat
  /-- milliseconds -/
  replyTimeout : Nat
  answers : List Answer
  relays : List DownRelay
  /-- the configure list (R148) -/
  cfgList : List Nat
  lineLow : Bool
  stray : Nat
  /-- the frame in progress, as the octets received so far; none while hunting (R129) -/
  rx : Option (List Octet)
  window : Option Window
  polling : PollState
  cycleCount : Nat
  /-- the cycle position: the address polled last, or 0 for start (R144) -/
  position : Nat
  turnDue : Bool
  /-- the address of the POLL on the line, from its sending to the opening of its window -/
  pollOut : Option Nat
  /-- the segment waits out an empty cycle (R144) -/
  emptyWait : Bool
  /-- the receive line is known to be at space -/
  atSpace : Bool
  /-- two character times of the present space have been measured (R132) -/
  lowMeasured : Bool
  /-- the bus-reset break was begun by a warm restart of an UP segment (R141) -/
  quietRestore : Bool
  /-- the frames of the send turn last begun, in the order sent (R136) -/
  sent : List (List SegChar)
deriving DecidableEq, Repr

/-! ### Pending deposits, Journal, tickets -/

/-- A pending deposit (R73). -/
structure Deposit where
  row : Nat
  cardRow : Nat
  card : CardNumber
  units : Nat
  charged : Bool
  expiry : Word32
deriving DecidableEq, Repr

/-- The Deposit Journal (R84, R85). The slot of the newest record is the one before `nextSlot`. -/
structure Journal where
  /-- the records held, oldest first -/
  records : List (Row JournalRecord)
  /-- the sequence counter -/
  counter : Word32
  nextSlot : Nat
deriving DecidableEq, Repr

/-- Ticket states (R96). -/
inductive TicketState where
  | free | opened | handed | complete
deriving DecidableEq, Repr

/-- Hand-back causes (R102, R104, R106). -/
inductive HandBackCause where
  | stops | capacity | noHold | holdExpired | recalled
deriving DecidableEq, Repr

/-- Stop statuses (R96). -/
inductive StopStatus where
  | planned | done | skipped
deriving DecidableEq, Repr

/-- A stop of a round ticket. -/
structure Stop where
  row : Nat
  volume : Nat
  status : StopStatus
  mass : Option Nat
deriving DecidableEq, Repr

/-- A slot of the Ticket Ring (Emptying Requests and Round Tickets, Round Tickets). -/
structure Ticket where
  state : TicketState
  number : Nat
  stream : Nat
  capacity : Nat
  remaining : Nat
  maxStops : Nat
  minVolume : Nat
  /-- minutes -/
  hold : Nat
  cause : Option HandBackCause
  holdStart : Option Word32
  stops : List Stop
deriving DecidableEq, Repr

/-- The Dispatch Unit's own state beside the Ticket Ring. -/
structure Dispatch where
  /-- the Emptying Request list (R92, R93) -/
  list : List Nat
  fillIndex : Nat
  dispatchIndex : Nat
  joinCounter : Word32
  missedFull : Nat
  /-- a pass has been made due in the event under way (R99) -/
  passDue : Bool
deriving DecidableEq, Repr

/-! ### Link, management, notices -/

/-- The link receiver (R159): hunting, an 0xA5 just received, or a frame in progress with its octets
from the length on. -/
inductive LinkRx where
  | hunting
  | preamble
  | frame (octets : List Octet)
deriving DecidableEq, Repr

/-- A MANAGEMENT frame in the queue: its tag and its body, request code first (R160). -/
structure Request where
  tag : Octet
  body : List Octet
deriving DecidableEq, Repr

/-- A frame of the uplink relay queue (R153). -/
structure UpRelay where
  addr : Nat
  route : Nat
  kind : Octet
  payload : List Octet
deriving DecidableEq, Repr

/-- The link counters (R164). -/
structure LinkCounters where
  received : Nat
  lengthErrors : Nat
  checkErrors : Nat
  framingErrors : Nat
  unrouted : Nat
  overflow : Nat
  uplinkDrops : Nat
  downlinkDrops : Nat
  sent : Nat
deriving DecidableEq, Repr

/-- The Link Controller. -/
structure Link where
  /-- the link rate: 115,200 bit/s when set, else 57,600 (R158) -/
  rateHigh : Bool
  rx : LinkRx
  requests : List Request
  relays : List UpRelay
  counters : LinkCounters
  /-- the expiry second of the running supervision timer (R169) -/
  supervision : Option Word32
  islanded : Bool
  islandedSince : Option Word32
  /-- the frame on LTX, none while the transmitter is idle (R161) -/
  onLine : Option (List Octet)
deriving DecidableEq, Repr

/-- Results of a request (R163). -/
inductive ResultCode where
  | accepted | unknownRequest | length | range | state | busy | ringFull
deriving DecidableEq, Repr

/-- A REPLY held for the uplink (R162, R163). -/
structure Reply where
  tag : Octet
  code : Octet
  result : ResultCode
  data : List Octet
deriving DecidableEq, Repr

/-- The district clock, while present (R166). -/
structure Clock where
  day : Nat
  minute : Nat
  second : Nat
deriving DecidableEq, Repr

/-- The parameters (R167). -/
structure Params where
  pendingExpiry : Nat
  liftLimit : Nat
  supervision : Nat
  batchCount : Nat
  coalescing : Nat
deriving DecidableEq, Repr

/-- The Management Unit's requests in hand. -/
structure Management where
  /-- the request taken from the queue and being carried out (R162) -/
  taken : Option Request
  /-- the REPLY the uplink has not yet begun to send -/
  reply : Option Reply
  /-- the unknown-kind route (R153) -/
  unknownRoute : Nat
deriving DecidableEq, Repr

/-- Notice kinds (R178). -/
inductive NoticeKind where
  | powerUp | warmStart | segmentDown | stationSilent | configFail | liftStalled | containerOut
  | lostCardUsed | tableFault | islanded
  | ticketReady | ticketComplete | containerFull | unplannedLift
  | fillWarn | fillNormal | arithmetic | overrun | lateConfirm | pendingExpired | lineLow
  | segmentRestored | stationInService | linkResumed
deriving DecidableEq, Repr

/-- A notice record (R174); its class is fixed by its kind. -/
structure Notice where
  kind : NoticeKind
  subject : Nat
  payload : List Octet
  stamp : Word32
deriving DecidableEq, Repr

/-- The Notice Unit (Notices and Fault Capture). -/
structure NoticeUnit where
  queue : List Notice
  lost : Nat
  /-- the expiry second of the running coalescing timer (R176) -/
  coalescing : Option Word32
  intervalEnded : Bool
  batchNumber : Octet
deriving DecidableEq, Repr

/-- The tables of the Fault Capture record, in the order of their codes (R179). -/
inductive FaultTable where
  | station | container | stream | series | card | kind | journal
deriving DecidableEq, Repr

/-- A fault held by the Fault Capture record (R179). -/
structure CapturedFault where
  table : FaultTable
  row : Nat
  stamp : Word32
  further : Nat
deriving DecidableEq, Repr

/-! ### The whole part -/

/-- The state of the 2840, with the queue of the commands that wait. -/
structure State where
  pending : List Instr
  /-- by station address, 1 to 64 -/
  stations : Table (Row Station)
  containers : Table (Row Container)
  streams : Table (Row StreamEntry)
  /-- by series, 0 to 254 -/
  series : Table (Row SeriesEntry)
  window : Row VisitorWindow
  cards : Table (Row CardRow)
  /-- by kind, 0x10 to 0x3F; the contents are the route -/
  kinds : Table (Row Nat)
  segA : Segment
  segB : Segment
  /-- the Pending Deposit list, oldest first (R73) -/
  deposits : List Deposit
  journal : Journal
  /-- the Ticket Ring, by slot -/
  tickets : Table Ticket
  dispatch : Dispatch
  link : Link
  mgmt : Management
  params : Params
  /-- the seconds count (R165) -/
  seconds : Word32
  clock : Option Clock
  notices : NoticeUnit
  capture : Option CapturedFault
deriving DecidableEq, Repr

/-! ### Cold reset -/

/-- A segment controller after a cold reset (R140, R157). A frame being received, a send turn due, a POLL on
the line and the wait of an empty cycle, of which the two rules say nothing, are given up (log entry 33). -/
def Segment.cold : Segment where
  state := .up
  bitRate := 19200
  replyTimeout := 25
  answers := []
  relays := []
  cfgList := []
  lineLow := false
  stray := 0
  rx := none
  window := none
  polling := .running
  cycleCount := 0
  position := 0
  turnDue := false
  pollOut := none
  emptyWait := false
  atSpace := false
  lowMeasured := false
  quietRestore := false
  sent := []

/-- The state after a cold reset that read LRATE as given (R17, R58, R83, R90, R111, R140, R157, R167,
R173, R180). Every table lists nothing: its rows hold their cold-reset values. A frame that the link
transmitter was sending and a request taken, of which R173 says nothing, are given up (log entries 20 and
33). -/
def State.cold (lrateHigh : Bool) : State where
  pending := []
  stations := []
  containers := []
  streams := []
  series := []
  window := { data := { base := 8064, span := 128, onlineOnly := true }, bad := false }
  cards := []
  kinds := []
  segA := Segment.cold
  segB := Segment.cold
  deposits := []
  journal := { records := [], counter := 0, nextSlot := 0 }
  tickets := []
  dispatch := { list := [], fillIndex := 0, dispatchIndex := 0, joinCounter := 0, missedFull := 0,
                passDue := false }
  link := { rateHigh := lrateHigh, rx := .hunting, requests := [], relays := [],
            counters := { received := 0, lengthErrors := 0, checkErrors := 0, framingErrors := 0,
                          unrouted := 0, overflow := 0, uplinkDrops := 0, downlinkDrops := 0,
                          sent := 0 },
            supervision := some 300, islanded := false, islandedSince := none, onLine := none }
  mgmt := { taken := none, reply := none, unknownRoute := 0 }
  params := { pendingExpiry := 90, liftLimit := 12, supervision := 300, batchCount := 8,
              coalescing := 10 }
  seconds := 0
  clock := none
  notices := { queue := [{ kind := .powerUp, subject := 0,
                           payload := [if lrateHigh then 1 else 0], stamp := 0 }],
               lost := 0, coalescing := some 10, intervalEnded := false, batchNumber := 0 }
  capture := none

/-- The part right after reset, with LRATE strapped low (log entry 5). -/
def State.reset : State := State.cold false

end Sys2Proof.Machine
end

