-- ==== Sys2Proof/Machine/Flags.lean ====
section
/-! DEFINITION. Saturating counts, sets carried in an octet, and the named bits of the sticky flags. -/

namespace Sys2Proof.Machine

/-- A saturating count goes up by one, stopping at its maximum (00_scope.md, Counters and flags). -/
def satInc (max n : Nat) : Nat := min (n + 1) max

/-- A 16-bit saturating count. -/
def satInc16 (n : Nat) : Nat := satInc 65535 n

/-- An 8-bit saturating count. -/
def satInc8 (n : Nat) : Nat := satInc 255 n

/-- Whether the member with the given bit is in the set (R162). -/
def setHas (x : Octet) (bit : Nat) : Bool := x.getLsbD bit

/-- The set with the member added. -/
def setAdd (x : Octet) (bit : Nat) : Octet := x ||| BitVec.ofNat 8 (2 ^ bit)

/-- The set without the members named in another. -/
def setClear (x named : Octet) : Octet := x &&& ~~~named

/-- The members with bits 0 to 4: a container's arithmetic flags, or a station's error flags. -/
def fiveMembers (x : Octet) : Octet := x &&& 0x1F

/-- The events of the Fill Unit's arithmetic (Arithmetic Flags and the Report Mask). -/
inductive ArithEvent where
  | reject | range | suspect | jump | saturated
deriving DecidableEq, Repr

/-- Its code (R178), and its bit in the sticky flags and the report mask (R162). -/
def ArithEvent.code : ArithEvent → Nat
  | .reject => 0
  | .range => 1
  | .suspect => 2
  | .jump => 3
  | .saturated => 4

/-- The bit of UNPLANNED LIFT in a container's sticky flags. -/
def unplannedLiftBit : Nat := 5

/-- A station's error flags. -/
inductive StationError where
  | check | framing | overrun | mismatch | configFail
deriving DecidableEq, Repr

/-- Its bit in the error flags. -/
def StationError.bit : StationError → Nat
  | .check => 0
  | .framing => 1
  | .overrun => 2
  | .mismatch => 3
  | .configFail => 4

/-- A station with an error flag set. -/
def Station.flag (e : Station) (x : StationError) : Station :=
  { e with errors := setAdd e.errors x.bit }

end Sys2Proof.Machine
end

