-- ==== Sys2Proof/Machine/Operands.lean ====
section
/-! DEFINITION. How values are laid out in octets: the fields of request bodies, replies and notices
with their widths and codes, the check sequence, and the frames of both kinds of line. -/

namespace Sys2Proof.Machine

/-! ### Fields -/

/-- A quantity in one octet. -/
def octet (n : Nat) : Octet := BitVec.ofNat 8 n

/-- A quantity in two octets, most significant first (00_scope.md, Octets and fields). -/
def be16 (n : Nat) : List Octet := [octet (n / 256), octet n]

/-- A signed quantity in two octets, two's complement. -/
def be16s (i : Int) : List Octet := be16 (BitVec.ofInt 16 i).toNat

/-- A 32-bit quantity in four octets. -/
def be32 (w : Word32) : List Octet :=
  [octet (w.toNat / 16777216), octet (w.toNat / 65536), octet (w.toNat / 256), octet w.toNat]

/-- A card number in three octets: series, serial high, serial low. -/
def cardOctets (c : CardNumber) : List Octet :=
  [octet (c.toNat / 65536), octet (c.toNat / 256), octet c.toNat]

/-- The quantity two octets carry. -/
def u16 (hi lo : Octet) : Nat := hi.toNat * 256 + lo.toNat

/-- The signed quantity two octets carry. -/
def s16 (hi lo : Octet) : Int := (BitVec.ofNat 16 (u16 hi lo)).toInt

/-- The 32-bit quantity four octets carry. -/
def u32 (a b c d : Octet) : Word32 :=
  BitVec.ofNat 32 (((a.toNat * 256 + b.toNat) * 256 + c.toNat) * 256 + d.toNat)

/-- The card number three octets carry. -/
def cardOf (a b c : Octet) : CardNumber :=
  BitVec.ofNat 24 ((a.toNat * 256 + b.toNat) * 256 + c.toNat)

/-- The series of a card number: its high octet. -/
def cardSeries (c : CardNumber) : Nat := c.toNat / 65536

/-- The serial of a card number: its low two octets. -/
def cardSerial (c : CardNumber) : Nat := c.toNat % 65536

/-- A yes/no is coded from 0 in the order named, yes first (R162's coding; log entry 6). -/
def yesNo (b : Bool) : Octet := if b then 0 else 1

/-- The yes/no an octet carries, none beyond the two codes (R163). -/
def parseYesNo (o : Octet) : Option Bool :=
  if o = 0 then some true else if o = 1 then some false else none

/-- A single flag as a set of one member (log entry 7). -/
def flagOctet (b : Bool) : Octet := if b then 1 else 0

/-- An optional field whose rule gives no mark: a presence octet, then the field, or as many octets of
0 (R163). -/
def optional (width : Nat) (field : Option (List Octet)) : List Octet :=
  match field with
  | some os => 1 :: os
  | none => 0 :: List.replicate width 0

/-! ### Codes -/

def StationState.code : StationState → Octet
  | .absent => 0
  | .unconfigured => 1
  | .configuring => 2
  | .inService => 3
  | .silent => 4
  | .cutOff => 5

def ServiceState.code : ServiceState → Octet
  | .inService => 0
  | .lifting => 1
  | .stalled => 2
  | .outOfService => 3

def FillState.code : FillState → Octet
  | .none => 0
  | .normal => 1
  | .warn => 2
  | .full => 3

def LiftStage.code : LiftStage → Octet
  | .none => 0
  | .first => 1
  | .second => 2

def SpikeDir.code : SpikeDir → Octet
  | .up => 0
  | .down => 1

def CardState.code : CardState → Octet
  | .empty => 0
  | .active => 1
  | .blocked => 2
  | .lost => 3

/-- The state a LOAD CARDS record's octet names (R49). -/
def parseCardState (o : Octet) : Option CardState :=
  if o = 0 then some .empty
  else if o = 1 then some .active
  else if o = 2 then some .blocked
  else if o = 3 then some .lost
  else none

/-- In the order of R134's table, where its text names them in another (log entry 31). -/
def SegState.code : SegState → Octet
  | .up => 0
  | .down => 1
  | .restoring => 2

def PollState.code : PollState → Octet
  | .running => 0
  | .stopping _ => 1
  | .stopped => 2

def StopPoint.code : StopPoint → Octet
  | .window => 0
  | .cycle => 1

/-- The stop point of a polling state, absent but in STOPPING. -/
def PollState.stopPoint : PollState → Option StopPoint
  | .stopping p => some p
  | .running => none
  | .stopped => none

/-- A segment's code: 0 for A and 1 for B (R178). -/
def segCode : Seg → Nat
  | .a => 0
  | .b => 1

/-- The segment an octet names (R138, R145). -/
def parseSeg (o : Octet) : Option Seg :=
  if o = 0 then some .a else if o = 1 then some .b else none

def TicketState.code : TicketState → Octet
  | .free => 0
  | .opened => 1
  | .handed => 2
  | .complete => 3

def HandBackCause.code : HandBackCause → Octet
  | .stops => 0
  | .capacity => 1
  | .noHold => 2
  | .holdExpired => 3
  | .recalled => 4

def StopStatus.code : StopStatus → Octet
  | .planned => 0
  | .done => 1
  | .skipped => 2

/-- R163's result codes. -/
def ResultCode.code : ResultCode → Octet
  | .accepted => 0
  | .unknownRequest => 1
  | .length => 2
  | .range => 3
  | .state => 4
  | .busy => 5
  | .ringFull => 6

/-- R70's reason codes. -/
def RefuseReason.code : RefuseReason → Octet
  | .containerClosed => 1
  | .tableFault => 2
  | .unknownSeries => 3
  | .barred => 4
  | .offline => 5
  | .unknownCard => 6
  | .cardBlocked => 7
  | .cardLost => 8
  | .noRight => 9
  | .containerFull => 10
  | .busy => 11
  | .journalFull => 12
  | .noAllowance => 13

/-- R179's table codes. -/
def FaultTable.code : FaultTable → Octet
  | .station => 0
  | .container => 1
  | .stream => 2
  | .series => 3
  | .card => 4
  | .kind => 5
  | .journal => 6

/-- R178's kind codes. -/
def NoticeKind.code : NoticeKind → Octet
  | .powerUp => 0x01
  | .warmStart => 0x02
  | .segmentDown => 0x03
  | .stationSilent => 0x04
  | .configFail => 0x05
  | .liftStalled => 0x06
  | .containerOut => 0x07
  | .lostCardUsed => 0x08
  | .tableFault => 0x09
  | .islanded => 0x0A
  | .ticketReady => 0x20
  | .ticketComplete => 0x21
  | .containerFull => 0x22
  | .unplannedLift => 0x23
  | .fillWarn => 0x40
  | .fillNormal => 0x41
  | .arithmetic => 0x42
  | .overrun => 0x43
  | .lateConfirm => 0x44
  | .pendingExpired => 0x45
  | .lineLow => 0x46
  | .segmentRestored => 0x47
  | .stationInService => 0x48
  | .linkResumed => 0x49

/-- The three classes of notice. -/
inductive NoticeClass where
  | alert | round | status
deriving DecidableEq, Repr

def NoticeClass.code : NoticeClass → Octet
  | .alert => 1
  | .round => 2
  | .status => 3

/-- The class fixed by a kind (R178). -/
def NoticeKind.cls : NoticeKind → NoticeClass
  | .powerUp | .warmStart | .segmentDown | .stationSilent | .configFail | .liftStalled
  | .containerOut | .lostCardUsed | .tableFault | .islanded => .alert
  | .ticketReady | .ticketComplete | .containerFull | .unplannedLift => .round
  | .fillWarn | .fillNormal | .arithmetic | .overrun | .lateConfirm | .pendingExpired | .lineLow
  | .segmentRestored | .stationInService | .linkResumed => .status

/-- An estimate in two octets, 0xFFFF when absent (R13, R178). -/
def estimateOctets (e : Option Nat) : List Octet := be16 (e.getD 0xFFFF)

/-- A ticket slot in one octet, 0xFF when absent (R13, R178). -/
def slotOctet (a : Option Nat) : Octet := octet (a.getD 0xFF)

/-! ### The check sequence -/

/-- One bit taken into the check register (R128, step 2). -/
def crcBit (r : BitVec 16) (bit : Bool) : BitVec 16 :=
  if r.msb != bit then (r <<< 1) ^^^ 0x1021 else r <<< 1

/-- The eight bits of an octet, least significant first. -/
def octetBits (o : Octet) : List Bool :=
  [o.getLsbD 0, o.getLsbD 1, o.getLsbD 2, o.getLsbD 3, o.getLsbD 4, o.getLsbD 5, o.getLsbD 6,
    o.getLsbD 7]

/-- One octet taken into the check register. -/
def crcOctet (r : BitVec 16) (o : Octet) : BitVec 16 := (octetBits o).foldl crcBit r

/-- The check sequence of a run of octets (R128). -/
def checkSequence (os : List Octet) : BitVec 16 := os.foldl crcOctet 0xFFFF

/-- The octets followed by their check sequence, high octet first. -/
def withCheck (os : List Octet) : List Octet := os ++ be16 (checkSequence os).toNat

/-! ### Characters and frames -/

/-- The eleven bits of a segment character as it is sent, space as false (R127). -/
def SegChar.bits (c : SegChar) : List Bool := [false] ++ octetBits c.data ++ [c.mark, c.stopGood]

/-- The ten bits of a link character as it is sent (R158). -/
def LinkChar.bits (c : LinkChar) : List Bool := [false] ++ octetBits c.data ++ [c.stopGood]

/-- Octets as the characters of one frame: the mark bit is 1 in the first alone (R127). -/
def markFirst : List Octet → List SegChar
  | [] => []
  | o :: os =>
    { mark := true, data := o, stopGood := true } ::
      os.map fun x => { mark := false, data := x, stopGood := true }

/-- A station frame (The Station Frame). -/
def stationFrame (addr : Nat) (kind : Octet) (payload : List Octet) : List SegChar :=
  markFirst (withCheck ([octet addr, kind, octet payload.length] ++ payload))

/-- A link frame (The Link Frame): the check sequence leaves out the preamble. -/
def linkFrame (addr : Nat) (cls : Octet) (tag : Octet) (body : List Octet) : List Octet :=
  [0xA5, 0x5A] ++ withCheck (be16 (body.length + 3) ++ [octet addr, cls, tag] ++ body)

/-- The payload length of the kinds the part acts on itself (Routing Replies by Kind). -/
def kindLength (kind : Octet) : Option Nat :=
  if kind = 0x00 then some 0
  else if kind = 0x01 then some 2
  else if kind = 0x02 then some 4
  else if kind = 0x03 then some 2
  else if kind = 0x04 then some 4
  else if kind = 0x05 then some 1
  else if kind = 0x06 then some 3
  else none

/-- A reply of kind 0x00–0x06 whose payload length is not the kind's (R146). -/
def malformed (kind : Octet) (payload : List Octet) : Bool :=
  match kindLength kind with
  | some n => payload.length != n
  | none => false

end Sys2Proof.Machine
end

