-- ==== Sys2Proof/Machine/Ops.lean ====
section
/-! DEFINITION. The named operations the meanings are made of: the tables and their parity, segments,
time, notices, fault capture, the card row repair and the release of a deposit, the Dispatch Unit's
list, ring and passes, and the handling of a faulty Container, Stream or Station Entry. -/

namespace Sys2Proof.Machine

/-! ### Tables -/

/-- The value a table holds at a key; an unlisted key holds the default. -/
def Table.get {α : Type} (d : α) : Table α → Nat → α
  | [], _ => d
  | (k', v) :: t, k => if k = k' then v else Table.get d t k

/-- The table without the key. -/
def Table.erase {α : Type} : Table α → Nat → Table α
  | [], _ => []
  | (k', v) :: t, k => if k = k' then Table.erase t k else (k', v) :: Table.erase t k

/-- The table with the key at the value, kept in rising order of keys. -/
def Table.insert {α : Type} : Table α → Nat → α → Table α
  | [], k, v => [(k, v)]
  | (k', v') :: t, k, v =>
    if k < k' then (k, v) :: (k', v') :: t
    else if k = k' then (k, v) :: t
    else (k', v') :: Table.insert t k v

/-- A write keeps the canonical form: writing the default takes the key out of the list. -/
def Table.set {α : Type} [DecidableEq α] (d : α) (t : Table α) (k : Nat) (v : α) : Table α :=
  if v = d then Table.erase t k else Table.insert t k v

/-- The canonical form: keys strictly rising, and no entry equal to the default. -/
def Table.wf {α : Type} [DecidableEq α] (d : α) : Table α → Bool
  | [] => true
  | (k, v) :: t => t.all (fun p => decide (k < p.1)) && v != d && Table.wf d t

/-- A row under good parity. -/
def Row.good {α : Type} (x : α) : Row α := { data := x, bad := false }

/-- A Station Entry after a cold reset (R157). The three settings are not given (log entry 5). -/
def Station.cold : Station where
  loaded := false
  count := 0
  sampleInterval := 0
  deadline := 0
  state := .absent
  misses := 0
  attempts := 0
  awaiting := false
  lastAnnounce := none
  errors := 0
  lateAnswers := 0
  discarded := 0

/-- The configuration part of an unloaded row: undefined content, not used (R17; log entry 5). -/
def ContainerConfig.cold : ContainerConfig where
  stream := 0
  capacity := 0
  depth := 0
  deadZone := 0
  hatchVolume := 0
  unitCost := 0
  zone := 0
  warn := 0
  full := 0
  hysteresis := 0
  gain := 0
  spikeLimit := 0
  qualityMin := 0
  residue := 0
  grantUnknown := false
  reportMask := 0

/-- The unloaded values of a row (R17). An unloaded row has no service state (log entry 5). -/
def Container.unloaded : Container where
  loaded := false
  cfg := ContainerConfig.cold
  service := .outOfService
  estimate := none
  suspect := none
  fill := .none
  hasPending := false
  assignment := none
  joinSeq := 0
  flags := 0
  deposits := 0
  rejected := 0
  liftTimer := none
  liftStage := .none

/-- A Stream Entry after a cold reset (R17). -/
def StreamEntry.cold : StreamEntry := { loaded := false, charged := false }

/-- A Series Map entry after a cold reset (R58). -/
def SeriesEntry.cold : SeriesEntry :=
  { valid := false, barred := false, onlineOnly := false, base := 0, span := 1 }

/-- A Card Row after a cold reset (R58). -/
def CardRow.cold : CardRow :=
  { state := .empty, streamRights := 0, zoneRights := 0, balance := 0, limit := 0, reserved := 0,
    periodDeposits := 0, clamped := false }

/-- A slot of the Ticket Ring that holds no ticket (R96). -/
def Ticket.free : Ticket :=
  { state := .free, number := 0, stream := 0, capacity := 0, remaining := 0, maxStops := 0,
    minVolume := 0, hold := 0, cause := none, holdStart := none, stops := [] }

def State.stationRow (s : State) (addr : Nat) : Row Station :=
  Table.get (Row.good Station.cold) s.stations addr

def State.station (s : State) (addr : Nat) : Station := (s.stationRow addr).data

def State.putStation (s : State) (addr : Nat) (r : Row Station) : State :=
  { s with stations := Table.set (Row.good Station.cold) s.stations addr r }

/-- A field of the entry is written; its parity mark stays as it is. -/
def State.editStation (s : State) (addr : Nat) (f : Station → Station) : State :=
  s.putStation addr { data := f (s.station addr), bad := (s.stationRow addr).bad }

def State.containerRow (s : State) (row : Nat) : Row Container :=
  Table.get (Row.good Container.unloaded) s.containers row

def State.container (s : State) (row : Nat) : Container := (s.containerRow row).data

def State.putContainer (s : State) (row : Nat) (r : Row Container) : State :=
  { s with containers := Table.set (Row.good Container.unloaded) s.containers row r }

/-- A field of the entry is written; its parity mark stays as it is. -/
def State.editContainer (s : State) (row : Nat) (f : Container → Container) : State :=
  s.putContainer row { data := f (s.container row), bad := (s.containerRow row).bad }

/-- The entry is written whole under fresh parity. -/
def State.writeContainer (s : State) (row : Nat) (c : Container) : State :=
  s.putContainer row (Row.good c)

/-- The Stream Entry of a code. For a code above 7, which a spoiled configuration alone can name, there is
none, and one that reads good and is neither loaded nor charged stands in its place (log entry 35). -/
def State.streamRow (s : State) (code : Nat) : Row StreamEntry :=
  Table.get (Row.good StreamEntry.cold) s.streams code

def State.putStream (s : State) (code : Nat) (r : Row StreamEntry) : State :=
  { s with streams := Table.set (Row.good StreamEntry.cold) s.streams code r }

/-- The entry is written whole under fresh parity. -/
def State.writeStream (s : State) (code : Nat) (e : StreamEntry) : State := s.putStream code (Row.good e)

def State.seriesRow (s : State) (n : Nat) : Row SeriesEntry :=
  Table.get (Row.good SeriesEntry.cold) s.series n

def State.putSeries (s : State) (n : Nat) (r : Row SeriesEntry) : State :=
  { s with series := Table.set (Row.good SeriesEntry.cold) s.series n r }

/-- The entry is written whole under fresh parity. -/
def State.writeSeries (s : State) (n : Nat) (e : SeriesEntry) : State := s.putSeries n (Row.good e)

def State.cardRow (s : State) (row : Nat) : Row CardRow :=
  Table.get (Row.good CardRow.cold) s.cards row

def State.card (s : State) (row : Nat) : CardRow := (s.cardRow row).data

def State.putCard (s : State) (row : Nat) (r : Row CardRow) : State :=
  { s with cards := Table.set (Row.good CardRow.cold) s.cards row r }

/-- The row is written whole under fresh parity. -/
def State.writeCard (s : State) (row : Nat) (c : CardRow) : State := s.putCard row (Row.good c)

def State.kindRow (s : State) (kind : Nat) : Row Nat := Table.get (Row.good 0) s.kinds kind

def State.putKind (s : State) (kind : Nat) (r : Row Nat) : State :=
  { s with kinds := Table.set (Row.good 0) s.kinds kind r }

/-- The route is written under fresh parity. -/
def State.writeKind (s : State) (kind route : Nat) : State := s.putKind kind (Row.good route)

def State.ticket (s : State) (slot : Nat) : Ticket := Table.get Ticket.free s.tickets slot

def State.putTicket (s : State) (slot : Nat) (t : Ticket) : State :=
  { s with tickets := Table.set Ticket.free s.tickets slot t }

/-! ### Segments -/

def State.seg (s : State) : Seg → Segment
  | .a => s.segA
  | .b => s.segB

def State.editSeg (s : State) (g : Seg) (f : Segment → Segment) : State :=
  match g with
  | .a => { s with segA := f s.segA }
  | .b => { s with segB := f s.segB }

/-- Addresses 1 to 32 belong to segment A and 33 to 64 to segment B (00_scope.md). -/
def segOf (addr : Nat) : Seg := if addr ≤ 32 then .a else .b

/-- The segment's addresses in ascending order. -/
def segAddrs : Seg → List Nat
  | .a => List.range' 1 32
  | .b => List.range' 33 32

/-- The segment is idle (R135): UP, no window open, no turn in progress. A turn that is due merges
with another (log entry 11). -/
def Segment.idle (g : Segment) : Bool :=
  g.state = .up && g.window.isNone && g.pollOut.isNone

/-- A send turn becomes due. -/
def State.turnDue (s : State) (g : Seg) : State := s.editSeg g fun x => { x with turnDue := true }

/-- A send turn becomes due where the segment is idle. -/
def State.turnDueIfIdle (s : State) (g : Seg) : State :=
  s.editSeg g fun x => if x.idle then { x with turnDue := true } else x

/-- One more frame in the stray count (R130). -/
def State.countStray (s : State) (g : Seg) : State :=
  s.editSeg g fun x => { x with stray := satInc16 x.stray }

/-- A station joins the end of its segment's configure list, which holds it at most once (R148). -/
def State.joinConfigure (s : State) (addr : Nat) : State :=
  (s.editSeg (segOf addr) fun x =>
      { x with cfgList := if addr ∈ x.cfgList then x.cfgList else x.cfgList ++ [addr] }).editStation
    addr fun e => { e with awaiting := true }

/-- A station leaves its segment's configure list, if it was on it (R148). -/
def State.leaveConfigure (s : State) (addr : Nat) : State :=
  s.editSeg (segOf addr) fun x => { x with cfgList := x.cfgList.filter (· ≠ addr) }

/-- One more frame in the station's discarded frames count. -/
def State.countDiscarded (s : State) (addr : Nat) : State :=
  s.editStation addr fun e => { e with discarded := satInc16 e.discarded }

/-! ### The other parts of the state -/

def State.editDispatch (s : State) (f : Dispatch → Dispatch) : State :=
  { s with dispatch := f s.dispatch }

def State.editLink (s : State) (f : Link → Link) : State := { s with link := f s.link }

def State.editMgmt (s : State) (f : Management → Management) : State := { s with mgmt := f s.mgmt }

def State.editJournal (s : State) (f : Journal → Journal) : State :=
  { s with journal := f s.journal }

def State.editNotices (s : State) (f : NoticeUnit → NoticeUnit) : State :=
  { s with notices := f s.notices }

def State.editDeposits (s : State) (f : List Deposit → List Deposit) : State :=
  { s with deposits := f s.deposits }

/-! ### Rows and stations -/

/-- The station address of a container row (R1). -/
def rowStation (row : Nat) : Nat := row / 4 + 1

/-- The slot of a container row (R1). -/
def rowSlot (row : Nat) : Nat := row % 4

/-- The container row of a station's slot (R1). -/
def rowOf (addr slot : Nat) : Nat := (addr - 1) * 4 + slot

/-- The container rows of a station, ascending. -/
def stationRows (addr : Nat) : List Nat :=
  [rowOf addr 0, rowOf addr 1, rowOf addr 2, rowOf addr 3]

/-- Whether a slot a reply names is one the station has (R20, R62, R74, R115). -/
def State.hasSlot (s : State) (addr : Nat) (slot : Octet) : Bool :=
  slot.toNat < 4 && slot.toNat < (s.station addr).count

/-! ### Time -/

/-- The seconds count has reached an expiry second, both counted modulo 2^32 (R165; log entry 15). -/
def reached (now expiry : Word32) : Bool := (now - expiry).toNat < 2147483648

/-- The expiry second of a timer started now (R113, R169, R176). -/
def State.after (s : State) (period : Nat) : Word32 := s.seconds + BitVec.ofNat 32 period

/-- The whole seconds that remain to an expiry second, 0 once it is reached. -/
def State.remaining (s : State) (expiry : Word32) : Nat :=
  if reached s.seconds expiry then 0 else (expiry - s.seconds).toNat

/-! ### Notices and fault capture -/

/-- The queue without the oldest notice of a class. -/
def withoutOldest (c : NoticeClass) (q : List Notice) : List Notice :=
  q.eraseP fun n => n.kind.cls = c

/-- The queue holds a notice of a class. -/
def holdsClass (c : NoticeClass) (q : List Notice) : Bool := q.any fun n => n.kind.cls = c

/-- What a full queue becomes when a notice arrives (R175). -/
def displace (q : List Notice) (n : Notice) : List Notice :=
  if holdsClass .status q then withoutOldest .status q ++ [n]
  else if n.kind.cls != .status && holdsClass .round q then withoutOldest .round q ++ [n]
  else q

/-- A notice joins the queue, displaces another or is dropped (R175); a notice that joins an empty
queue starts the coalescing timer (R176). -/
def NoticeUnit.join (u : NoticeUnit) (n : Notice) (expiry : Word32) : NoticeUnit :=
  if u.queue.length < 64 then
    { u with queue := u.queue ++ [n],
             coalescing := if u.queue.isEmpty then some expiry else u.coalescing }
  else { u with queue := displace u.queue n, lost := satInc16 u.lost }

/-- A block raises a notice (R174). -/
def State.raise (s : State) (k : NoticeKind) (subject : Nat) (payload : List Octet) : State :=
  let n : Notice := { kind := k, subject := subject, payload := payload, stamp := s.seconds }
  s.editNotices fun u => u.join n (s.after s.params.coalescing)

/-- A parity fault fills the empty Fault Capture record or adds to its further-faults count (R179). -/
def State.captureFault (s : State) (t : FaultTable) (row : Nat) : State :=
  { s with capture := match s.capture with
      | none => some { table := t, row := row, stamp := s.seconds, further := 0 }
      | some f => some { f with further := satInc8 f.further } }

/-- A parity fault is captured and raises ALERT notice TABLE FAULT, with the row as its subject; the
table code stands before what else the payload carries (R178, R179). -/
def State.tableFault (s : State) (t : FaultTable) (row : Nat) (extra : List Octet) : State :=
  (s.captureFault t row).raise .tableFault row (t.code :: extra)

/-! ### Card rows and the end of a deposit -/

/-- The balance with the floor of −255 (R47). -/
def floorBalance (b : Int) : Int := if b < -255 then -255 else b

/-- The units of the pending deposits that name a card row (R46). -/
def unitsNaming (ds : List Deposit) (cardRow : Nat) : Nat :=
  ((ds.filter fun d => d.cardRow = cardRow).map (·.units)).sum

/-- The reserved units lowered by a deposit's units (R47, R48). -/
def lowerReserved (reserved units : Nat) : Nat :=
  if units ≤ reserved then reserved - units else Config.freeReserved reserved units

/-- A Card Row read by a commit, a release, a LOAD CARDS or an ADJUST BALANCE: a faulty row is
rebuilt before the operation goes on (R57). -/
def State.repairCard (s : State) (row : Nat) : State :=
  if (s.cardRow row).bad then
    let c := s.card row
    (s.tableFault .card row []).writeCard row
      { c with state := .blocked,
               reserved := unitsNaming s.deposits row,
               balance := floorBalance c.balance,
               clamped := c.clamped || decide (c.balance < -255) }
  else s

/-- The deposit held for a container row (R73). -/
def State.depositAt (s : State) (row : Nat) : Option Deposit :=
  s.deposits.find? fun d => d.row = row

/-- The deposit held for a container row leaves the list; the others keep their order (R73). -/
def State.removeDeposit (s : State) (row : Nat) : State :=
  s.editDeposits fun ds => ds.eraseP fun d => d.row = row

/-- A release, whatever its cause (R81, R48). -/
def State.release (s : State) (d : Deposit) : State :=
  let s := s.repairCard d.cardRow
  let c := s.card d.cardRow
  let s := s.writeCard d.cardRow { c with reserved := lowerReserved c.reserved d.units }
  (s.removeDeposit d.row).editContainer d.row fun x => { x with hasPending := false }

/-- The deposit held for a container row, if any, is released. -/
def State.releaseAt (s : State) (row : Nat) : State :=
  match s.depositAt row with
  | some d => s.release d
  | none => s

/-- The number of pending deposits whose charged flag is yes (R68). -/
def chargedPending (ds : List Deposit) : Nat := ds.countP (·.charged)

/-! ### The Emptying Request list -/

/-- The conditions of membership in the Emptying Request list (R92). -/
def Container.eligible (c : Container) : Bool :=
  c.loaded && c.service = .inService && c.estimate.isSome &&
    (c.fill = .warn || c.fill = .full) && c.assignment.isNone

/-- How many steps back from the join counter a join sequence was drawn (R93). -/
def State.joinAge (s : State) (row : Nat) : Nat :=
  (s.dispatch.joinCounter - (s.container row).joinSeq).toNat

/-- Of two rows, the first is the more urgent (R93). -/
def State.moreUrgent (s : State) (x y : Nat) : Bool :=
  let cx := s.container x
  let cy := s.container y
  if cx.fill = .full && cy.fill != .full then true
  else if cx.fill != .full && cy.fill = .full then false
  else if cx.estimate.getD 0 != cy.estimate.getD 0 then
    cy.estimate.getD 0 < cx.estimate.getD 0
  else s.joinAge y < s.joinAge x

/-- A row placed in a list by the order: before the first entry it is more urgent than. -/
def State.place (s : State) (row : Nat) : List Nat → List Nat
  | [] => [row]
  | x :: xs => if s.moreUrgent row x then row :: x :: xs else x :: State.place s row xs

/-- The ticket at the dispatch index. -/
def State.currentTicket (s : State) : Ticket := s.ticket s.dispatch.dispatchIndex

/-- RUNNING while the slot at the dispatch index is OPEN, else SUSPENDED (R97). -/
def State.running (s : State) : Bool := s.currentTicket.state = .opened

/-- A container joins the list with a new join sequence (R93). -/
def State.joinList (s : State) (row : Nat) : State :=
  let n := s.dispatch.joinCounter + 1
  let s := s.editDispatch fun x => { x with joinCounter := n }
  let s := s.editContainer row fun c => { c with joinSeq := n }
  s.editDispatch fun x => { x with list := s.place row x.list }

/-- A container leaves the list; the others keep their order (R94). -/
def State.leaveList (s : State) (row : Nat) : State :=
  s.editDispatch fun x => { x with list := x.list.filter (· ≠ row) }

/-- A pass is made due (R94, R97). -/
def State.makePassDue (s : State) : State := s.editDispatch fun x => { x with passDue := true }

/-- A container that has become FULL while SUSPENDED is counted (R95). -/
def State.countMissedFull (s : State) (row : Nat) (was : Container) : State :=
  if (s.container row).fill = .full && was.fill != .full && !s.running then
    s.editDispatch fun x => { x with missedFull := satInc16 x.missedFull }
  else s

/-- A container moves to the place that its new estimate or fill state gives it (R94). -/
def State.moveInList (s : State) (row : Nat) : State :=
  let s := s.leaveList row
  (s.editDispatch fun x => { x with list := s.place row x.list }).makePassDue

/-- A container in the list or out of it, after a change (R94). -/
def State.relist (s : State) (row : Nat) (was : Container) : State :=
  let c := s.container row
  if row ∈ s.dispatch.list then
    if c.eligible then
      if c.estimate = was.estimate && c.fill = was.fill then s else s.moveInList row
    else s.leaveList row
  else if c.eligible then (s.joinList row).makePassDue
  else s

/-- The Dispatch Unit is told of a container that stood as `was` before the change (R94, R95). -/
def State.tell (s : State) (row : Nat) (was : Container) : State :=
  (s.countMissedFull row was).relist row was

/-! ### Tickets -/

def Stop.isPlanned (p : Stop) : Bool := p.status = .planned

/-- The stops with the row's PLANNED stop given its end (R105). -/
def endStop (row : Nat) (st : StopStatus) (mass : Option Nat) : List Stop → List Stop
  | [] => []
  | p :: ps =>
    if p.row = row && p.isPlanned then { p with status := st, mass := mass } :: ps
    else p :: endStop row st mass ps

/-- A ticket becomes COMPLETE with ROUND notice TICKET COMPLETE (R105). -/
def State.completeTicket (s : State) (slot : Nat) : State :=
  let t := s.ticket slot
  (s.putTicket slot { t with state := .complete }).raise .ticketComplete slot
    (be16 t.number ++ [octet (t.stops.countP fun p => p.status = .done),
      octet (t.stops.countP fun p => p.status = .skipped)])

/-- A container's PLANNED stop becomes DONE or SKIPPED and its assignment is cleared; a HANDED ticket
left with no PLANNED stop becomes COMPLETE (R105). The Dispatch Unit is told by the caller. -/
def State.leavePlanned (s : State) (row slot : Nat) (st : StopStatus) (mass : Option Nat) : State :=
  let t := s.ticket slot
  let t := { t with stops := endStop row st mass t.stops }
  let s := s.putTicket slot t
  let s := s.editContainer row fun c => { c with assignment := none }
  if t.state = .handed && !t.stops.any Stop.isPlanned then s.completeTicket slot else s

/-- A withdrawn container's stop, if it has one, is SKIPPED (R105). -/
def State.skipStop (s : State) (row : Nat) (slot : Option Nat) : State :=
  match slot with
  | some n => s.leavePlanned row n .skipped none
  | none => s

/-- The slot of the OPEN or HANDED ticket that holds the row as a PLANNED stop (R96). -/
def State.plannedSlot (s : State) (row : Nat) : Option Nat :=
  (List.range 16).find? fun n =>
    let t := s.ticket n
    (t.state = .opened || t.state = .handed) && t.stops.any fun p => p.row = row && p.isPlanned

/-- The container's assignment; that of a faulty entry is taken from the ring (log entry 13). -/
def State.assignedSlot (s : State) (row : Nat) : Option Nat :=
  if (s.containerRow row).bad then s.plannedSlot row else (s.container row).assignment

/-- The ticket at the dispatch index becomes current: its hold starts and a pass is due (R97). -/
def State.becomeCurrent (s : State) : State :=
  let n := s.dispatch.dispatchIndex
  (s.putTicket n { s.ticket n with holdStart := some s.seconds }).makePassDue

/-- The advance of the dispatch index, one slot at a time (R97). It meets the fill index or an OPEN
slot within sixteen moves. -/
def State.advance : Nat → State → State
  | 0, s => s
  | fuel + 1, s =>
    let n := (s.dispatch.dispatchIndex + 1) % 16
    let s := s.editDispatch fun x => { x with dispatchIndex := n }
    if (s.ticket n).state = .opened then s.becomeCurrent
    else if n = s.dispatch.fillIndex then s
    else State.advance fuel s

/-- The hand-back of the current ticket (R103). -/
def State.handBack (s : State) (cause : HandBackCause) : State :=
  let n := s.dispatch.dispatchIndex
  let t := { s.ticket n with state := .handed, cause := some cause }
  let s := (s.putTicket n t).raise .ticketReady n
    (be16 t.number ++ [octet t.stops.length, cause.code])
  let s := if t.stops.any Stop.isPlanned then s else s.completeTicket n
  State.advance 16 s

/-! ### Withdrawing a container -/

/-- The effects of SET CONTAINER SERVICE OUT in the order of R11: the deposit is released, the stop
skipped, the timer stopped, the estimate made absent, the service state set, the Dispatch Unit
told. -/
def State.withdraw (s : State) (row : Nat) : State :=
  let was := s.container row
  let slot := s.assignedSlot row
  let s := s.releaseAt row
  let s := s.skipStop row slot
  let s := s.editContainer row fun c =>
    { c with liftTimer := none, liftStage := .none, estimate := none, fill := .none,
             suspect := none, service := .outOfService, hasPending := false, assignment := none }
  s.tell row was

/-- A row is cleared to the unloaded values and the Dispatch Unit told (R9, R10). -/
def State.clearContainer (s : State) (row : Nat) : State :=
  let was := s.container row
  (s.writeContainer row Container.unloaded).tell row was

/-- The pending deposits at a station's containers are released in the order they stand in the list
(R81). -/
def State.releaseStation (s : State) (addr : Nat) : State :=
  (s.deposits.filter fun d => rowStation d.row = addr).foldl State.release s

/-- The deposit held for a container row, if any, is released, and before it those that stand in front of
it in the list and are held at the same station (R81). Where the list has a station's deposits in row order
there are none of these at that row's turn (log entry 28). -/
def State.releaseUpTo (s : State) (row : Nat) : State :=
  match s.depositAt row with
  | none => s
  | some d =>
    (((s.deposits.takeWhile fun x => x.row ≠ row).filter fun x =>
      rowStation x.row = rowStation row).foldl State.release s).release d

/-- The forced unload of one container, in the five steps of R10. The look at the entry is not a checked
read (log entry 17); a faulty one is cleared whether or not it reads as loaded (log entry 13). -/
def State.forceUnload (s : State) (row : Nat) : State :=
  let s := s.releaseUpTo row
  if (s.container row).loaded || (s.containerRow row).bad then
    (s.skipStop row (s.assignedSlot row)).clearContainer row
  else s

/-- Every loaded container of a station is unloaded, in ascending row order (R10), and its deposits are
released in the order they stand in the list (R81; log entry 28). -/
def State.unloadStation (s : State) (addr : Nat) : State :=
  (stationRows addr).foldl State.forceUnload s

/-! ### Checked reads -/

/-- A Container Entry is read: a parity fault forces the container OUT OF SERVICE (R15). An entry read
as unloaded has no service to be taken out of and is cleared; one read as loaded stays loaded, be it at
a slot where R1 allows no container (log entry 13). -/
def State.readContainer (s : State) (row : Nat) : State :=
  if (s.containerRow row).bad then
    let s := (s.tableFault .container row []).withdraw row
    let c := s.container row
    if c.loaded then s.writeContainer row c else s.clearContainer row
  else s

/-- A Stream Entry is read: a parity fault is captured and the entry left as it is (R16). The caller
looks at the row's mark and does not proceed on faulty data. -/
def State.readStream (s : State) (code : Nat) : State :=
  if (s.streamRow code).bad then s.tableFault .stream code [] else s

/-- A Station Entry is read: a faulty entry is rebuilt (R156). -/
def State.readStation (s : State) (addr : Nat) : State :=
  if (s.stationRow addr).bad then
    let g := segOf addr
    let s := (s.tableFault .station addr []).leaveConfigure addr
    let e := s.station addr
    if e.loaded then
      let down := (s.seg g).state = .down
      let s := s.putStation addr (Row.good
        { e with state := if down then .cutOff else .unconfigured,
                 misses := 0, attempts := 0, awaiting := false })
      if down then s else s.turnDueIfIdle g
    else (s.putStation addr (Row.good Station.cold)).unloadStation addr
  else s

/-! ### The dispatch pass -/

/-- The dispatch volume of a container with estimate e (R34). -/
def dispatchVolume (cfg : ContainerConfig) (e : Nat) : Nat := (e * cfg.capacity + 9999) / 10000

/-- A container is assigned to the current ticket (R100). -/
def State.assign (s : State) (row vol : Nat) : State :=
  let n := s.dispatch.dispatchIndex
  let t := s.ticket n
  let s := s.putTicket n
    { t with stops := t.stops ++ [{ row := row, volume := vol, status := .planned, mass := none }],
             remaining := t.remaining - vol }
  let s := s.writeContainer row { s.container row with assignment := some n }
  s.leaveList row

/-- The walk of a pass over the entries still to be looked at (R100, R101). -/
def State.walk : List Nat → State → State
  | [], s => s
  | row :: rows, s =>
    if s.currentTicket.maxStops ≤ s.currentTicket.stops.length then s
    else
      let faulty := (s.containerRow row).bad
      let s := s.readContainer row
      let c := s.container row
      let t := s.currentTicket
      let vol := dispatchVolume c.cfg (c.estimate.getD 0)
      if !faulty && c.cfg.stream = t.stream && t.minVolume ≤ vol && vol ≤ t.remaining then
        State.walk rows (s.assign row vol)
      else State.walk rows s

/-- The cause for which a ticket is handed back at the end of a pass, if any (R102). -/
def Ticket.handBackCause (t : Ticket) : Option HandBackCause :=
  if t.stops.length = t.maxStops then some .stops
  else if t.remaining < t.minVolume then some .capacity
  else if t.hold = 0 then some .noHold
  else none

/-- One pass for the current ticket, with its hand-back (R100 to R103). -/
def State.pass (s : State) : State :=
  let s := State.walk s.dispatch.list s
  match s.currentTicket.handBackCause with
  | some cause => s.handBack cause
  | none => s

/-- The passes made due in an event, each run for the ticket then current and only while RUNNING
(R99). Each pass that makes another due has handed a ticket back, so sixteen tickets bound them. -/
def State.runPasses : Nat → State → State
  | 0, s => s.editDispatch fun x => { x with passDue := false }
  | fuel + 1, s =>
    if s.dispatch.passDue then
      let s := s.editDispatch fun x => { x with passDue := false }
      if s.running then State.runPasses fuel s.pass else s
    else s

/-- The end of an event: a pass made due is run (R99). -/
def State.endEvent (s : State) : State := State.runPasses 17 s

/-! ### Requests -/

/-- What a request comes to: the state it leaves, its result, and the data of its reply (R163). -/
structure Answered where
  state : State
  result : ResultCode
  data : List Octet
deriving DecidableEq, Repr

/-- The request has been carried out: its REPLY is ready for the uplink (R162). -/
def State.reply (s : State) (r : Request) (code : Octet) (result : ResultCode)
    (data : List Octet) : State :=
  s.editMgmt fun m =>
    { m with taken := none,
             reply := some { tag := r.tag, code := code, result := result, data := data } }

/-- The request taken by the Management Unit is carried out when its code is the given one and the
row of the table is the one that serves it; else nothing happens (R162; log entry 1). -/
def State.serve (s : State) (code : Octet) (mine : List Octet → Bool)
    (f : List Octet → State → Answered) : State :=
  match s.mgmt.taken with
  | none => s
  | some r =>
    match r.body with
    | [] => s
    | c :: args =>
      if c = code && mine args then
        let a := f args s
        a.state.reply r code a.result a.data
      else s

/-- Every request of the code belongs to the row. -/
def anyArgs : List Octet → Bool := fun _ => true

/-- A request whose second octet is an action belongs to the row of that action; one too short to
hold it, or with an action above the last, to any row of the request (log entry 21). -/
def actionIs (action last : Octet) : List Octet → Bool
  | _ :: a :: _ => a = action || last < a
  | _ => true

/-- ACCEPTED, with the data the rule names. -/
def accepted (s : State) (data : List Octet) : Answered :=
  { state := s, result := .accepted, data := data }

/-- A refusal that changes nothing and carries no data. -/
def refused (s : State) (r : ResultCode) : Answered := { state := s, result := r, data := [] }

/-- LENGTH: the body has not the length of the table (R163). -/
def wrongLength (s : State) : Answered := refused s .length

end Sys2Proof.Machine
end

