-- ==== Sys2Proof/Machine/Cards.lean ====
section
/-! DEFINITION. The requests on the Series Map, the Visitor Window and the Card Rows: LOAD SERIES, LOAD
WINDOW, LOAD CARDS, ADJUST BALANCE and READ CARD (R42 to R54). -/

namespace Sys2Proof.Machine

/-! ### LOAD SERIES and LOAD WINDOW -/

/-- A stretch of the Card Table within its 8192 rows (R42, R43). -/
def stretchInRange (base span : Nat) : Bool :=
  base ≤ 8191 && 1 ≤ span && span ≤ 8192 && base + span ≤ 8192

/-- LOAD SERIES on fields that have been read (R42). -/
def State.loadSeries (s : State) (series : Octet) (e : SeriesEntry) : Answered :=
  if series.toNat ≤ 254 && stretchInRange e.base e.span then
    accepted (s.writeSeries series.toNat e)
      ([series, yesNo e.valid, yesNo e.barred, yesNo e.onlineOnly] ++ be16 e.base ++ be16 e.span)
  else refused s .range

def loadSeriesRequest (args : List Octet) (s : State) : Answered :=
  match args with
  | [series, valid, barred, online, bh, bl, sh, sl] =>
    match parseYesNo valid, parseYesNo barred, parseYesNo online with
    | some v, some b, some o =>
      s.loadSeries series
        { valid := v, barred := b, onlineOnly := o, base := u16 bh bl, span := u16 sh sl }
    | _, _, _ => refused s .range
  | _ => wrongLength s

/-- LOAD_SERIES (R42). -/
def execLoadSeries (s : State) : Result State := .next (s.serve 0x20 anyArgs loadSeriesRequest)

/-- The Visitor Window is written whole under fresh parity (R43). -/
def State.writeWindow (s : State) (w : VisitorWindow) : State := { s with window := Row.good w }

def loadWindowRequest (args : List Octet) (s : State) : Answered :=
  match args with
  | [bh, bl, sh, sl, online] =>
    match parseYesNo online with
    | none => refused s .range
    | some o =>
      if stretchInRange (u16 bh bl) (u16 sh sl) then
        accepted (s.writeWindow { base := u16 bh bl, span := u16 sh sl, onlineOnly := o })
          (be16 (u16 bh bl) ++ be16 (u16 sh sl) ++ [yesNo o])
      else refused s .range
  | _ => wrongLength s

/-- LOAD_WINDOW (R43). -/
def execLoadWindow (s : State) : Result State := .next (s.serve 0x21 anyArgs loadWindowRequest)

/-! ### LOAD CARDS -/

/-- A record of LOAD CARDS. The state is the octet as it came. -/
structure CardRecord where
  row : Nat
  state : Octet
  streamRights : Octet
  zoneRights : Octet
  balance : Int
  limit : Nat
  periodDeposits : Nat
deriving DecidableEq, Repr

/-- The records of a body of exactly `count` records; none when its length is another. -/
def parseRecords : Nat → List Octet → Option (List CardRecord)
  | 0, [] => some []
  | n + 1, rh :: rl :: st :: sr :: zr :: bh :: bl :: lim :: ph :: pl :: rest =>
    (parseRecords n rest).map fun rs =>
      { row := u16 rh rl, state := st, streamRights := sr, zoneRights := zr, balance := s16 bh bl,
        limit := lim.toNat, periodDeposits := u16 ph pl } :: rs
  | _, _ => none

/-- A record within its ranges (R49). -/
def CardRecord.inRange (r : CardRecord) : Bool :=
  r.row ≤ 8191 && (parseCardState r.state).isSome && -255 ≤ r.balance && r.balance ≤ 32767

/-- The record empties a row that holds reserved units (R49). -/
def State.emptiesReserved (s : State) (r : CardRecord) : Bool :=
  parseCardState r.state = some .empty && 0 < (s.card r.row).reserved

/-- A record is written over its row, which keeps its reserved units and CLAMPED (R50). -/
def CardRow.load (c : CardRow) (r : CardRecord) : CardRow :=
  { c with state := (parseCardState r.state).getD .empty, streamRights := r.streamRights,
           zoneRights := r.zoneRights, balance := r.balance, limit := r.limit,
           periodDeposits := r.periodDeposits }

def State.loadCard (s : State) (r : CardRecord) : State :=
  s.writeCard r.row ((s.card r.row).load r)

/-- LOAD CARDS on a body of the right length (R49, R50). The rows are read, and those that read faulty
repaired, in the order of the records, all of them before the BUSY check: an order the model chose (log
entry 17). -/
def State.loadCards (s : State) (rs : List CardRecord) : Answered :=
  match rs.findIdx? fun r => !r.inRange with
  | some i => { state := s, result := .range, data := [octet (i + 1)] }
  | none =>
    let s := rs.foldl (fun s r => s.repairCard r.row) s
    match rs.find? s.emptiesReserved with
    | some r => { state := s, result := .busy, data := be16 r.row }
    | none => accepted (rs.foldl State.loadCard s) [octet rs.length]

/-- The length of the body is that of its count, 1 to 8 (R163). -/
def loadCardsRequest (args : List Octet) (s : State) : Answered :=
  match args with
  | [] => wrongLength s
  | count :: rest =>
    if 1 ≤ count.toNat && count.toNat ≤ 8 then
      match parseRecords count.toNat rest with
      | none => wrongLength s
      | some rs => s.loadCards rs
    else wrongLength s

/-- LOAD_CARDS (R49, R50). -/
def execLoadCards (s : State) : Result State := .next (s.serve 0x22 anyArgs loadCardsRequest)

/-! ### ADJUST BALANCE -/

/-- The balance written for a sum (R52). -/
def clampBalance (sum : Int) : Int := if sum < -255 then -255 else if 32767 < sum then 32767 else sum

/-- The clamp reported for a sum: LOW, NONE or HIGH (R52). -/
def clampCode (sum : Int) : Octet := if sum < -255 then 0 else if 32767 < sum then 2 else 1

/-- The row after an adjustment (R52). -/
def CardRow.adjust (c : CardRow) (amount : Int) (zero : Bool) : CardRow :=
  { c with balance := clampBalance (c.balance + amount),
           periodDeposits := if zero then 0 else c.periodDeposits,
           clamped := if zero then false else c.clamped }

/-- ADJUST BALANCE on a row that has been read (R52), and rebuilt where it was found faulty: what stood
before the request is then what the rebuilt row holds (R57; log entry 29). -/
def State.adjustBalance (s : State) (row : Nat) (amount : Int) (zero : Bool) : Answered :=
  let c := s.card row
  if c.state = .empty then refused s .state
  else
    let d := c.adjust amount zero
    accepted (s.writeCard row d)
      (be16 row ++ be16s c.balance ++ be16s d.balance ++
        [clampCode (c.balance + amount), octet c.reserved] ++ be16 d.periodDeposits ++
        [flagOctet c.clamped])

def adjustBalanceRequest (args : List Octet) (s : State) : Answered :=
  match args with
  | [rh, rl, ah, al, zero] =>
    match parseYesNo zero with
    | none => refused s .range
    | some z =>
      if u16 rh rl ≤ 8191 then
        (s.repairCard (u16 rh rl)).adjustBalance (u16 rh rl) (s16 ah al) z
      else refused s .range
  | _ => wrongLength s

/-- ADJUST_BALANCE (R52). -/
def execAdjustBalance (s : State) : Result State :=
  .next (s.serve 0x23 anyArgs adjustBalanceRequest)

/-! ### READ CARD -/

/-- Available units in two octets (R54; log entry 14 for a faulty row's beyond them). -/
def availableOctets (i : Int) : List Octet :=
  if -32768 ≤ i then be16s i else be16 (Config.freeAvailable i)

/-- What READ CARD carries (R54), and behind it the mark of a row that reads faulty, 1, or good, 0 (log
entry 8). -/
def State.cardReport (s : State) (row : Nat) : List Octet :=
  let c := s.card row
  be16 row ++ [c.state.code, c.streamRights, c.zoneRights] ++ be16s c.balance ++
    [octet c.limit, octet c.reserved] ++ be16 c.periodDeposits ++ [flagOctet c.clamped] ++
    availableOctets (c.balance - (c.reserved : Int)) ++
    [octet (s.deposits.countP fun d => d.cardRow = row), flagOctet (s.cardRow row).bad]

def readCardRequest (args : List Octet) (s : State) : Answered :=
  match args with
  | [rh, rl] =>
    let row := u16 rh rl
    if row ≤ 8191 then
      accepted (if (s.cardRow row).bad then s.tableFault .card row [] else s) (s.cardReport row)
    else refused s .range
  | _ => wrongLength s

/-- READ_CARD (R54). -/
def execReadCard (s : State) : Result State := .next (s.serve 0x24 anyArgs readCardRequest)

end Sys2Proof.Machine
end

