-- ==== Sys2Proof/Machine/Fill.lean ====
section
/-! DEFINITION. The Fill Unit: the arithmetic on samples, deposits and residues, the fill states, and
the order of effects of each piece of work on a Container Entry (The Fill Estimate). -/

namespace Sys2Proof.Machine

/-- A notice a piece of work calls for, whose subject is the container row. -/
structure Raised where
  kind : NoticeKind
  payload : List Octet
deriving DecidableEq, Repr

/-- The distance clamped to the span from Z to D (R22). -/
def clampDistance (cfg : ContainerConfig) (d : Nat) : Nat :=
  if d < cfg.deadZone then cfg.deadZone else if cfg.depth < d then cfg.depth else d

/-- The measured fill of a clamped distance (R23). -/
def measuredFill (cfg : ContainerConfig) (d : Nat) : Nat :=
  if cfg.deadZone < cfg.depth then (cfg.depth - d) * 10000 / (cfg.depth - cfg.deadZone)
  else Config.freeMeasuredFill cfg.depth cfg.deadZone d

/-- The increment of one hatch volume, rounded to the nearest fill unit (R27). -/
def increment (cfg : ContainerConfig) : Nat :=
  if cfg.capacity = 0 then Config.freeIncrement cfg.hatchVolume
  else (cfg.hatchVolume * 10000 + cfg.capacity / 2) / cfg.capacity

/-- The headroom test passes: one more deposit stays within the full threshold (R35). -/
def headroom (cfg : ContainerConfig) (e : Nat) : Bool := e + increment cfg ≤ cfg.full

/-- The step of the filter, truncated toward zero (R26). -/
def filterStep (gain : Nat) (r : Int) : Int := ((gain : Int) * r).tdiv 16

/-- The estimate after a filter step toward the measured fill (R26). -/
def filtered (gain e m : Nat) : Nat :=
  let x := (e : Int) + filterStep gain ((m : Int) - (e : Int))
  if 0 ≤ x ∧ x ≤ 10000 then x.toNat else Config.freeFilterEstimate gain e m

/-- The fill state after the work, from the state held before and the estimate after it (R30). Where a
spoiled configuration has Tw at or above Tf, two rows of R30's table can hold at once; the upper is
taken (log entry 14). -/
def evaluateFill (cfg : ContainerConfig) (before : FillState) (e : Nat) : FillState :=
  match before with
  | .none | .normal =>
    if cfg.full ≤ e then .full else if cfg.warn ≤ e then .warn else .normal
  | .warn =>
    if cfg.full ≤ e then .full
    else if cfg.warn ≤ e + cfg.hysteresis then .warn else .normal
  | .full =>
    if cfg.full ≤ e + cfg.hysteresis then .full
    else if cfg.warn ≤ e + cfg.hysteresis then .warn else .normal

/-- The notice of a fill state change, if it raises one (R31). -/
def fillNotice (before after : FillState) (e : Nat) : List Raised :=
  let payload := be16 e ++ [before.code]
  if before = after then []
  else match after with
    | .full => [{ kind := .containerFull, payload := payload }]
    | .warn => if before = .full then [] else [{ kind := .fillWarn, payload := payload }]
    | .normal => [{ kind := .fillNormal, payload := payload }]
    | .none => []

/-- The container with an arithmetic flag set (R32). -/
def Container.mark (c : Container) (x : ArithEvent) : Container :=
  { c with flags := setAdd c.flags x.code }

/-- The value of an ARITHMETIC notice in its two octets (R33; log entry 14). -/
def eventValue (value : Nat) : Nat := if value ≤ 65535 then value else Config.freeEventValue value

/-- The ARITHMETIC notice of an event, when the flag was clear and is in the report mask (R32, R33);
`e` is the estimate after the work. -/
def arithNotice (c : Container) (x : ArithEvent) (value : Nat) (e : Option Nat) : List Raised :=
  if !setHas c.flags x.code && setHas c.cfg.reportMask x.code then
    [{ kind := .arithmetic, payload := octet x.code :: (be16 (eventValue value) ++ estimateOctets e) }]
  else []

/-- The estimate written, with the fill state evaluated from the one held before (R30, R31). -/
def settle (c : Container) (e : Nat) : Container × List Raised :=
  let f := evaluateFill c.cfg c.fill e
  ({ c with estimate := some e, fill := f }, fillNotice c.fill f e)

/-- What a held spike leaves (R25). -/
def holdSpike (c : Container) (dir : SpikeDir) (m : Nat) : Container × List Raised :=
  ({ c.mark .suspect with suspect := some dir }, arithNotice c .suspect m c.estimate)

/-- What a confirmed spike leaves (R25). -/
def confirmSpike (c : Container) (m : Nat) : Container × List Raised :=
  let r := settle ({ c.mark .jump with suspect := none }) m
  (r.1, arithNotice c .jump m (some m) ++ r.2)

/-- An accepted sample of measured fill m on a container (R24 to R26). -/
def acceptFill (c : Container) (m : Nat) : Container × List Raised :=
  match c.estimate with
  | none => settle { c with suspect := none } m
  | some e =>
    if c.cfg.spikeLimit < ((m : Int) - (e : Int)).natAbs then
      let dir : SpikeDir := if e < m then .up else .down
      if c.suspect = some dir then confirmSpike c m else holdSpike c dir m
    else settle { c with suspect := none } (filtered c.cfg.gain e m)

/-- A sample on an entry as read (R20 to R26). An unloaded row is left to the caller. -/
def sampleWork (d q : Nat) (c : Container) : Container × List Raised :=
  if c.loaded && c.service = .inService then
    let q := min q 15
    if q < c.cfg.qualityMin then
      ({ c.mark .reject with rejected := satInc8 c.rejected }, arithNotice c .reject q c.estimate)
    else
      let d' := clampDistance c.cfg d
      let m := measuredFill c.cfg d'
      if d' = d then acceptFill c m
      else
        let r := acceptFill (c.mark .range) m
        (r.1, arithNotice c .range d r.1.estimate ++ r.2)
  else (c, [])

/-- An increment on an entry as read (R28, R29). -/
def incrementWork (c : Container) : Container × List Raised :=
  let n := satInc16 c.deposits
  match c.service, c.estimate with
  | .inService, some e =>
    let i := increment c.cfg
    if e + i ≤ 10000 then settle { c with deposits := n } (e + i)
    else
      let r := settle ({ c.mark .saturated with deposits := n }) 10000
      (r.1, arithNotice c .saturated i (some 10000) ++ r.2)
  | _, _ => ({ c with deposits := n }, [])

/-- The estimate a lift leaves: the residue (R36; log entry 14 for a spoiled one above 10000). -/
def ContainerConfig.afterLift (cfg : ContainerConfig) : Nat :=
  if cfg.residue ≤ 10000 then cfg.residue else Config.freeResidueEstimate cfg.residue

/-- The residue after a lift (R36). -/
def residueWork (c : Container) : Container × List Raised :=
  settle { c with suspect := none } c.cfg.afterLift

/-- A row's notices are raised in the order the work gave rise to them (R19, R31). -/
def State.raiseAll (s : State) (row : Nat) (rs : List Raised) : State :=
  rs.foldl (fun s r => s.raise r.kind row r.payload) s

/-- A piece of work on an entry that has been read is written back and raises its notices (R19). -/
def State.applyWork (s : State) (row : Nat) (work : Container → Container × List Raised) : State :=
  (s.writeContainer row (work (s.container row)).1).raiseAll row (work (s.container row)).2

/-- A piece of work that is followed by the telling of the Dispatch Unit when the estimate or the
fill state changed (R19, step 5). -/
def State.fillWork (s : State) (row : Nat) (work : Container → Container × List Raised) : State :=
  let was := s.container row
  let s := s.applyWork row work
  if (s.container row).estimate = was.estimate && (s.container row).fill = was.fill then s
  else s.tell row was

/-- A SAMPLE routed to the Fill Unit (R20). -/
def State.sample (s : State) (addr : Nat) (slot : Octet) (d q : Nat) : State :=
  if s.hasSlot addr slot then
    let row := rowOf addr slot.toNat
    let s := s.readContainer row
    if (s.container row).loaded then s.fillWork row (sampleWork d q) else s.countDiscarded addr
  else s.countDiscarded addr

end Sys2Proof.Machine
end

