-- ==== Sys2Proof/Machine/Containers.lean ====
section
/-! DEFINITION. The requests on Stream and Container Entries: LOAD STREAM, LOAD CONTAINER, SET CONTAINER
SERVICE, READ CONTAINER and CLEAR CONTAINER FLAGS (R3 to R14). -/

namespace Sys2Proof.Machine

/-! ### LOAD STREAM -/

/-- LOAD STREAM with the effect of its action; an action beyond the two is refused RANGE (R163). -/
def loadStreamRequest (act : Nat → Octet → State → Answered) (args : List Octet) (s : State) :
    Answered :=
  match args with
  | [stream, action, charged] =>
    if stream.toNat ≤ 7 && action.toNat ≤ 1 then act stream.toNat charged s else refused s .range
  | _ => wrongLength s

/-- Action LOAD (R3). -/
def streamLoad (stream : Nat) (charged : Octet) (s : State) : Answered :=
  match parseYesNo charged with
  | none => refused s .range
  | some c => accepted (s.writeStream stream { loaded := true, charged := c }) [octet stream, yesNo c]

/-- Every Container Entry is read, in ascending order, one the model chose (log entry 17). -/
def State.readContainers (s : State) : State := (List.range 256).foldl State.readContainer s

/-- A loaded Container Entry names the stream (R4). -/
def State.streamInUse (s : State) (stream : Nat) : Bool :=
  (List.range 256).any fun row => (s.container row).loaded && (s.container row).cfg.stream = stream

/-- Action UNLOAD (R4, R16); the charged octet is not read (R162). -/
def streamUnload (stream : Nat) (_ : Octet) (s : State) : Answered :=
  let s := s.readContainers
  if s.streamInUse stream then refused s .state
  else accepted (s.writeStream stream StreamEntry.cold) []

/-- LOAD_STREAM_LOAD. -/
def execLoadStreamLoad (s : State) : Result State :=
  .next (s.serve 0x10 (actionIs 0 1) (loadStreamRequest streamLoad))

/-- LOAD_STREAM_UNLOAD. -/
def execLoadStreamUnload (s : State) : Result State :=
  .next (s.serve 0x10 (actionIs 1 1) (loadStreamRequest streamUnload)).endEvent

/-! ### LOAD CONTAINER -/

/-- The configuration fields lie within their ranges and agree with each other: all of R5's RANGE
check but the loading of the stream. -/
def ContainerConfig.inRange (c : ContainerConfig) : Bool :=
  c.stream ≤ 7 && 500 ≤ c.capacity && c.capacity ≤ 5000 && 500 ≤ c.depth && c.depth ≤ 4000 &&
    100 ≤ c.deadZone && c.deadZone ≤ 600 && 10 ≤ c.hatchVolume && c.hatchVolume ≤ 200 &&
    1 ≤ c.unitCost && c.unitCost ≤ 4 && c.zone ≤ 7 && 1000 ≤ c.warn && c.warn ≤ 9800 &&
    1000 ≤ c.full && c.full ≤ 9800 && c.hysteresis ≤ 1000 && 1 ≤ c.gain && c.gain ≤ 16 &&
    500 ≤ c.spikeLimit && c.spikeLimit ≤ 10000 && c.qualityMin ≤ 15 && c.residue ≤ 2000 &&
    c.deadZone + 200 ≤ c.depth && c.warn < c.full && c.hysteresis < c.warn &&
    c.residue + c.hysteresis < c.warn

/-- The configuration fields of a request body, in the order of the Container Entry's table; none
when the body has another length. -/
def parseConfig (os : List Octet) : Option (ContainerConfig × Octet) :=
  match os with
  | [stream, vh, vl, dh, dl, zh, zl, w, u, zone, wh, wl, fh, fl, hh, hl, k, sh, sl, q, rh, rl, g,
      mask] =>
    some ({ stream := stream.toNat, capacity := u16 vh vl, depth := u16 dh dl,
            deadZone := u16 zh zl, hatchVolume := w.toNat, unitCost := u.toNat, zone := zone.toNat,
            warn := u16 wh wl, full := u16 fh fl, hysteresis := u16 hh hl, gain := k.toNat,
            spikeLimit := u16 sh sl, qualityMin := q.toNat, residue := u16 rh rl,
            grantUnknown := g = 0, reportMask := fiveMembers mask }, g)
  | _ => none

/-- The row is loaded afresh (R6). -/
def Container.firstLoad (cfg : ContainerConfig) : Container :=
  { Container.unloaded with loaded := true, cfg := cfg, service := .inService }

/-- The geometry fields are unchanged (R8). -/
def ContainerConfig.sameGeometry (a b : ContainerConfig) : Bool :=
  a.depth = b.depth && a.deadZone = b.deadZone && a.capacity = b.capacity

/-- A reload's work on the entry, once the deposit is released (R7, R8). -/
def reloadWork (cfg : ContainerConfig) (c : Container) : Container × List Raised :=
  let same := c.cfg.sameGeometry cfg
  let c := { c with cfg := cfg }
  if same then
    match c.estimate with
    | some e => settle c e
    | none => (c, [])
  else ({ c with estimate := none, fill := .none, suspect := none }, [])

/-- A reload (R7, R8). -/
def State.reload (s : State) (row : Nat) (cfg : ContainerConfig) : State :=
  let was := s.container row
  ((s.releaseAt row).applyWork row (reloadWork cfg)).tell row was

/-- What LOAD CONTAINER reports of the estimate (R5). -/
def Container.loadReport (c : Container) : List Octet :=
  optional 3 (c.estimate.map fun e => be16 e ++ [c.fill.code])

/-- The third check and the load, on an entry that has been read (R5). -/
def State.loadContainer (s : State) (row : Nat) (cfg : ContainerConfig) : Answered :=
  let c := s.container row
  if c.loaded && (c.service = .lifting || c.service = .stalled || c.assignment.isSome) then
    refused s .state
  else
    let s := if c.loaded then s.reload row cfg else s.writeContainer row (Container.firstLoad cfg)
    accepted s (octet row :: (s.container row).loadReport)

/-- The checks of the station and the container, on a configuration in range (R5, R1). -/
def State.loadUnderStation (s : State) (row : Nat) (cfg : ContainerConfig) : Answered :=
  let addr := rowStation row
  let s := s.readStation addr
  if (s.station addr).loaded && rowSlot row < (s.station addr).count then
    (s.readContainer row).loadContainer row cfg
  else refused s .state

/-- The stream of a configuration otherwise in range: a faulty entry is refused STATE, an unloaded
one RANGE (R5, R16). -/
def State.loadOfStream (s : State) (row : Nat) (cfg : ContainerConfig) : Answered :=
  let s := s.readStream cfg.stream
  if (s.streamRow cfg.stream).bad then refused s .state
  else if (s.streamRow cfg.stream).data.loaded then s.loadUnderStation row cfg
  else refused s .range

/-- LOAD CONTAINER with action LOAD (R5, R163). -/
def containerLoadRequest (args : List Octet) (s : State) : Answered :=
  match args with
  | row :: action :: fields =>
    if 1 < action.toNat then refused s .range
    else match parseConfig fields with
      | none => wrongLength s
      | some (cfg, grant) =>
        if cfg.inRange && (parseYesNo grant).isSome then s.loadOfStream row.toNat cfg
        else refused s .range
  | _ => wrongLength s

/-- LOAD_CONTAINER_LOAD. -/
def execLoadContainerLoad (s : State) : Result State :=
  .next (s.serve 0x11 (actionIs 0 1) containerLoadRequest).endEvent

/-- The unload of an entry that has been read (R9). -/
def State.unloadContainer (s : State) (row : Nat) : Answered :=
  let c := s.container row
  if c.assignment.isSome || c.service = .lifting then refused s .state
  else if c.loaded then accepted ((s.releaseAt row).clearContainer row) []
  else accepted s []

/-- LOAD CONTAINER with action UNLOAD (R9, R163). -/
def containerUnloadRequest (args : List Octet) (s : State) : Answered :=
  match args with
  | row :: action :: fields =>
    if 1 < action.toNat then refused s .range
    else match fields with
      | [] => (s.readContainer row.toNat).unloadContainer row.toNat
      | _ => wrongLength s
  | _ => wrongLength s

/-- LOAD_CONTAINER_UNLOAD. -/
def execLoadContainerUnload (s : State) : Result State :=
  .next (s.serve 0x11 (actionIs 1 1) containerUnloadRequest).endEvent

/-! ### SET CONTAINER SERVICE -/

/-- SET CONTAINER SERVICE with the effect of its direction on an entry that has been read; both are
refused STATE on an unloaded row, which has no service state to carry, and then carry no data (R12; log
entry 8). -/
def serviceRequest (act : Nat → State → Answered) (args : List Octet) (s : State) : Answered :=
  match args with
  | [row, direction] =>
    if direction.toNat ≤ 1 then
      let s := s.readContainer row.toNat
      if (s.container row.toNat).loaded then act row.toNat s else refused s .state
    else refused s .range
  | _ => wrongLength s

/-- Direction OUT (R11). -/
def serviceOut (row : Nat) (s : State) : Answered :=
  accepted (s.withdraw row) [(s.container row).service.code]

/-- Direction IN (R12). -/
def serviceIn (row : Nat) (s : State) : Answered :=
  let was := s.container row
  if was.service = .outOfService then
    let s := (s.editContainer row fun c => { c with service := .inService }).tell row was
    accepted s [ServiceState.inService.code]
  else { state := s, result := .state, data := [was.service.code] }

/-- SET_CONTAINER_SERVICE_OUT. -/
def execSetContainerServiceOut (s : State) : Result State :=
  .next (s.serve 0x12 (actionIs 0 1) (serviceRequest serviceOut)).endEvent

/-- SET_CONTAINER_SERVICE_IN. -/
def execSetContainerServiceIn (s : State) : Result State :=
  .next (s.serve 0x12 (actionIs 1 1) (serviceRequest serviceIn)).endEvent

/-! ### READ CONTAINER -/

/-- The configuration fields in the order of the Container Entry's table. -/
def ContainerConfig.octets (c : ContainerConfig) : List Octet :=
  [octet c.stream] ++ be16 c.capacity ++ be16 c.depth ++ be16 c.deadZone ++
    [octet c.hatchVolume, octet c.unitCost, octet c.zone] ++ be16 c.warn ++ be16 c.full ++
    be16 c.hysteresis ++ [octet c.gain] ++ be16 c.spikeLimit ++ [octet c.qualityMin] ++
    be16 c.residue ++ [yesNo c.grantUnknown, c.reportMask]

/-- The suspect record: count, then direction (R13), which has no meaning at count 0 and is then carried
as 0 (log entry 8). -/
def suspectOctets (x : Option SpikeDir) : List Octet :=
  match x with
  | none => [0, 0]
  | some d => [1, d.code]

/-- The whole seconds that remain to the expiry of a lift timer, 0 while it is stopped (R13). -/
def State.liftRemaining (s : State) (c : Container) : Nat :=
  match c.liftTimer with
  | some t => s.remaining t
  | none => 0

/-- What READ CONTAINER carries beyond the reachability for a loaded row (R13). Whether the container is
in the Emptying Request list is carried by the presence octet of its join sequence, 1 when it is and 0
when it is not (log entry 8). -/
def State.containerReport (s : State) (row : Nat) : List Octet :=
  let c := s.container row
  c.cfg.octets ++ [c.service.code, c.liftStage.code] ++ be16 (s.liftRemaining c) ++
    estimateOctets c.estimate ++ [c.fill.code] ++ suspectOctets c.suspect ++
    optional 7 ((s.depositAt row).map fun d => cardOctets d.card ++ be32 d.expiry) ++
    [slotOctet c.assignment] ++
    optional 4 (if row ∈ s.dispatch.list then some (be32 c.joinSeq) else none) ++
    [c.flags] ++ be16 c.deposits ++ [octet c.rejected]

/-- Reachability (R2). -/
def State.reachable (s : State) (row : Nat) : Bool :=
  (s.station (rowStation row)).state = .inService

/-- READ CONTAINER on entries that have been read (R13). -/
def State.reportContainer (s : State) (row : Nat) : Answered :=
  let c := s.container row
  accepted s ([octet row, yesNo c.loaded, yesNo (s.reachable row)] ++
    if c.loaded then s.containerReport row else [])

/-- READ CONTAINER's reads: the Station Entry, for the reachability, and then the Container Entry, an order
the model chose (log entry 17): where both read faulty, the station's fault is captured first. -/
def readContainerRequest (args : List Octet) (s : State) : Answered :=
  match args with
  | [row] =>
    ((s.readStation (rowStation row.toNat)).readContainer row.toNat).endEvent.reportContainer
      row.toNat
  | _ => wrongLength s

/-- READ_CONTAINER (R13). -/
def execReadContainer (s : State) : Result State :=
  .next (s.serve 0x13 anyArgs readContainerRequest)

/-! ### CLEAR CONTAINER FLAGS -/

/-- CLEAR CONTAINER FLAGS on an entry that has been read (R14). -/
def State.clearContainerFlags (s : State) (row : Nat) (named : Octet) (count : Bool) : Answered :=
  let c := s.container row
  if c.loaded then
    let flags := setClear c.flags named
    accepted
      (s.editContainer row fun c =>
        { c with flags := flags, rejected := if count then 0 else c.rejected })
      [flags]
  else refused s .state

def clearContainerFlagsRequest (args : List Octet) (s : State) : Answered :=
  match args with
  | [row, named, count] =>
    match parseYesNo count with
    | none => refused s .range
    | some count => (s.readContainer row.toNat).clearContainerFlags row.toNat named count
  | _ => wrongLength s

/-- CLEAR_CONTAINER_FLAGS (R14). -/
def execClearContainerFlags (s : State) : Result State :=
  .next (s.serve 0x14 anyArgs clearContainerFlagsRequest).endEvent

end Sys2Proof.Machine
end

