-- ==== Sys2Proof/Machine/JournalRequests.lean ====
section
/-! DEFINITION. The requests READ JOURNAL and RELEASE JOURNAL (R86, R87, R89). -/

namespace Sys2Proof.Machine

/-- The record slot of the record at a position among those held, 0 for the oldest (R84). -/
def Journal.slotAt (j : Journal) (i : Nat) : Nat :=
  (j.nextSlot + (1024 - j.records.length) + i) % 1024

/-- The sequence number of the record at a position, counted from the sequence counter (R89). -/
def Journal.seqAt (j : Journal) (i : Nat) : Word32 :=
  j.counter - BitVec.ofNat 32 (j.records.length - 1 - i)

/-- A record as READ JOURNAL returns it (R86, R89). -/
def recordOctets (seq : Word32) (r : Row JournalRecord) : List Octet :=
  let x := r.data
  let status : Octet := (if x.stamp.isSome then 1 else 0) ||| (if r.bad then 2 else 0)
  let stamp := x.stamp.getD { day := 0, minute := 0 }
  be32 seq ++ status :: cardOctets x.card ++ [octet x.row, octet x.units] ++ be16s x.balance ++
    be16 stamp.day ++ be16 stamp.minute

/-- The octets of a run of records from a position on. The sequence number of a faulty record is that
of its position; that of a good one is its own (R86, R89). -/
def Journal.report (j : Journal) : Nat → List (Row JournalRecord) → List Octet
  | _, [] => []
  | i, r :: rs =>
    recordOctets (if r.bad then j.seqAt i else r.data.seq) r ++ Journal.report j (i + 1) rs

/-- The faults a read of a run of records finds, each captured and reported in their order (R89). -/
def State.journalFaults (j : Journal) : Nat → List (Row JournalRecord) → State → State
  | _, [], s => s
  | i, r :: rs, s =>
    State.journalFaults j (i + 1) rs
      (if r.bad then s.tableFault .journal (j.slotAt i) (be32 (j.seqAt i)) else s)

/-- READ JOURNAL of up to n records (R86). -/
def State.readJournal (s : State) (n : Nat) : Answered :=
  let j := s.journal
  let rs := j.records.take n
  accepted (State.journalFaults j 0 rs s)
    (be16 j.records.length ++ be32 j.counter ++ octet rs.length :: j.report 0 rs)

def readJournalRequest (args : List Octet) (s : State) : Answered :=
  match args with
  | [n] => if 1 ≤ n.toNat && n.toNat ≤ 8 then s.readJournal n.toNat else refused s .range
  | _ => wrongLength s

/-- READ_JOURNAL (R86, R89). -/
def execReadJournal (s : State) : Result State := .next (s.serve 0x40 anyArgs readJournalRequest)

/-- The steps from a sequence number forward to the counter (R87). -/
def Journal.distance (j : Journal) (seq : Word32) : Nat := (j.counter - seq).toNat

/-- The number of records a release of a sequence number removes (R87). -/
def Journal.toRelease (j : Journal) (seq : Word32) : Nat := j.records.length - j.distance seq

/-- RELEASE JOURNAL (R87). The figures its rule names are carried whatever the result (R163). -/
def State.releaseJournal (s : State) (seq : Word32) : Answered :=
  let n := s.journal.toRelease seq
  let s := s.editJournal fun j => { j with records := j.records.drop n }
  { state := s,
    result := if s.journal.distance seq < 2147483648 then .accepted else .range,
    data := be16 n ++ be16 s.journal.records.length ++ be32 s.journal.counter }

def releaseJournalRequest (args : List Octet) (s : State) : Answered :=
  match args with
  | [a, b, c, d] => s.releaseJournal (u32 a b c d)
  | _ => wrongLength s

/-- RELEASE_JOURNAL (R87). -/
def execReleaseJournal (s : State) : Result State :=
  .next (s.serve 0x41 anyArgs releaseJournalRequest)

end Sys2Proof.Machine
end

