-- ==== Sys2Proof/Machine/Lifts.lean ====
section
/-! DEFINITION. The Lift Monitor: lift reports and the two expiries of the lift timer (Lifts). -/

namespace Sys2Proof.Machine

/-- The lift timer is started with the lift limit in force, and the stage set with it (R113). -/
def State.startLiftTimer (s : State) (row : Nat) (service : ServiceState) (stage : LiftStage) : State :=
  s.editContainer row fun c =>
    { c with service := service, liftTimer := some (s.after (s.params.liftLimit * 60)),
             liftStage := stage }

/-- A LIFT START at an IN SERVICE container, in the order of R116. -/
def State.beginLift (s : State) (row : Nat) : State :=
  let was := s.container row
  ((s.releaseAt row).startLiftTimer row .lifting .first).tell row was

/-- A LIFT START on a container entry that has been read (R115 to R117). -/
def State.liftStartAt (s : State) (addr row : Nat) : State :=
  let c := s.container row
  if !c.loaded then s.countDiscarded addr
  else match c.service with
    | .inService => s.beginLift row
    | .lifting => s
    | .stalled => s.startLiftTimer row .lifting .first
    | .outOfService => s.countDiscarded addr

/-- A lift report at a station's slot (R115): the Container Entry of its row is read, and the report goes on
to what is made of it where the station has the slot. A slot of 4 or more has no row to read. -/
def State.liftReport (s : State) (addr : Nat) (slot : Octet) (f : State → Nat → State) : State :=
  if slot.toNat < 4 then
    let s := s.readContainer (rowOf addr slot.toNat)
    if s.hasSlot addr slot then f s (rowOf addr slot.toNat) else s.countDiscarded addr
  else s.countDiscarded addr

/-- A LIFT START routed to the Lift Monitor. -/
def State.liftStart (s : State) (addr : Nat) (slot : Octet) : State :=
  s.liftReport addr slot fun s row => s.liftStartAt addr row

/-- The mass a stop records: absent when not measured (R119). -/
def stopMass (mass : Nat) : Option Nat := if mass = 0xFFFF then none else some mass

/-- The stop of an assigned container is done; the lift of another is unplanned (R119, R120). -/
def State.liftOutcome (s : State) (row mass deposits : Nat) : State :=
  match (s.container row).assignment with
  | some slot => s.leavePlanned row slot .done (stopMass mass)
  | none =>
    (s.editContainer row fun c => { c with flags := setAdd c.flags unplannedLiftBit }).raise
      .unplannedLift row (be16 mass ++ be16 deposits)

/-- The effects of a LIFT END, in the order of R118. -/
def State.endLift (s : State) (row mass : Nat) : State :=
  let was := s.container row
  let s := s.editContainer row fun c =>
    { c with liftTimer := none, liftStage := .none, service := .inService, deposits := 0 }
  let s := s.applyWork row residueWork
  let s := s.liftOutcome row mass was.deposits
  s.tell row was

/-- A LIFT END on a container entry that has been read (R115, R118, R121). -/
def State.liftEndAt (s : State) (addr row mass : Nat) : State :=
  let c := s.container row
  if !c.loaded then s.countDiscarded addr
  else match c.service with
    | .inService => (s.releaseAt row).endLift row mass
    | .lifting => s.endLift row mass
    | .stalled => s.endLift row mass
    | .outOfService => s.countDiscarded addr

/-- A LIFT END routed to the Lift Monitor. -/
def State.liftEnd (s : State) (addr : Nat) (slot : Octet) (mass : Nat) : State :=
  s.liftReport addr slot fun s row => s.liftEndAt addr row mass

/-- The row's lift timer runs and its expiry second has been reached (R113). -/
def State.liftDue (s : State) (row : Nat) : Bool :=
  match (s.container row).liftTimer with
  | some t => reached s.seconds t
  | none => false

/-- The lift stands in the combination of service state and stage from which an expiry moves it (R122,
R123). -/
def Container.liftStands (c : Container) (service : ServiceState) (stage : LiftStage) : Bool :=
  c.loaded && c.service = service && c.liftStage = stage

/-- The first expiry on an entry read good (R122). -/
def State.stallLift (s : State) (row : Nat) : State :=
  let s := s.startLiftTimer row .stalled .second
  s.raise .liftStalled row [slotOctet (s.container row).assignment]

/-- The second expiry on an entry read good, in the order of R123. -/
def State.abandonLift (s : State) (row : Nat) : State :=
  let was := s.container row
  let s := s.skipStop row was.assignment
  let s := s.editContainer row fun c =>
    { c with liftTimer := none, liftStage := .none, estimate := none, fill := .none,
             suspect := none, service := .outOfService, assignment := none }
  (s.tell row was).raise .containerOut row [slotOctet was.assignment]

/-- An expiry of a row's lift timer that is due: on an entry whose read fails its parity check it is
handled by R15 before anything else (R123); on a good one it has its effect where the lift stands in
the combination it moves. Nothing happens while it has no such expiry to make (log entry 1). -/
def State.liftExpiry (s : State) (row : Nat) (service : ServiceState) (stage : LiftStage)
    (f : State → State) : State :=
  if s.liftDue row then
    if (s.containerRow row).bad then (s.readContainer row).endEvent
    else if (s.container row).liftStands service stage then (f s).endEvent
    else s
  else s

/-- FIRST_LIFT_EXPIRY (R122). -/
def execFirstLiftExpiry (row : Nat) (s : State) : Result State :=
  .next (s.liftExpiry row .lifting .first fun s => s.stallLift row)

/-- SECOND_LIFT_EXPIRY (R123). -/
def execSecondLiftExpiry (row : Nat) (s : State) : Result State :=
  .next (s.liftExpiry row .stalled .second fun s => s.abandonLift row)

end Sys2Proof.Machine
end

