-- ==== Sys2Proof/Machine/Link.lean ====
section
/-! DEFINITION. The Link Controller: the receiver and the routing of downlink frames, the uplink arbiter
with its frames, supervision, and the request that no row of the code table names (The District Link
and Management Requests). -/

namespace Sys2Proof.Machine

/-! ### Taking requests, and supervision -/

/-- The Management Unit takes the oldest request when it carries out none and holds no REPLY (R162). -/
def State.takeRequest (s : State) : State :=
  match s.link.requests with
  | [] => s
  | r :: rest =>
    if s.mgmt.taken.isNone && s.mgmt.reply.isNone then
      (s.editLink fun l => { l with requests := rest }).editMgmt fun m => { m with taken := some r }
    else s

/-- The supervision timer is restarted with the period in force; a period of 0 stops it (R169). -/
def State.restartSupervision (s : State) : State :=
  s.editLink fun l =>
    { l with supervision :=
        if s.params.supervision = 0 then none else some (s.after s.params.supervision) }

/-- ISLANDED is cleared with STATUS notice LINK RESUMED (R170). Its second is then held no longer (log
entry 27). -/
def State.resumeLink (s : State) : State :=
  if s.link.islanded then
    (s.editLink fun l => { l with islanded := false, islandedSince := none }).raise .linkResumed 0
      (be32 (s.seconds - s.link.islandedSince.getD 0))
  else s

/-- SUPERVISION_EXPIRY (R170). -/
def execSupervisionExpiry (s : State) : Result State :=
  .next (
    match s.link.supervision with
    | none => s
    | some t =>
      if reached s.seconds t then
        let s := if s.link.islanded then s else
          (s.editLink fun l =>
            { l with islanded := true, islandedSince := some s.seconds }).raise .islanded 0
            (be16 s.params.supervision)
        s.editLink fun l => { l with supervision := none }
      else s)

/-! ### Routing -/

/-- One more of a link count (R164). -/
def State.countLink (s : State) (f : LinkCounters → LinkCounters) : State :=
  s.editLink fun l => { l with counters := f l.counters }

/-- A MANAGEMENT frame for address 0 (R160). -/
def State.management (s : State) (tag : Octet) (body : List Octet) : State :=
  let s := s.restartSupervision.resumeLink
  let r : Request := { tag := tag, body := body }
  if s.link.requests.length < 4 then
    (s.editLink fun l => { l with requests := l.requests ++ [r] }).takeRequest
  else s.countLink fun c => { c with overflow := satInc16 c.overflow }

/-- A downlink relay is dropped and counted (R154). -/
def State.dropRelay (s : State) : State :=
  s.countLink fun c => { c with downlinkDrops := satInc16 c.downlinkDrops }

/-- A relay frame joins the end of the downlink relay queue; where it joins an empty queue of an idle
segment, a send turn becomes due (R154, R135). -/
def State.queueRelay (s : State) (g : Seg) (r : DownRelay) : State :=
  let s := if (s.seg g).relays.isEmpty then s.turnDueIfIdle g else s
  s.editSeg g fun x => { x with relays := x.relays ++ [r] }

/-- A RELAY frame for a station: the tests of R154, in order. -/
def State.relayDown (s : State) (addr : Nat) (body : List Octet) : State :=
  match body with
  | [] => s.dropRelay
  | kind :: payload =>
    if 24 < payload.length then s.dropRelay
    else
      let s := s.readStation addr
      if (s.station addr).state != .inService then s.dropRelay
      else if 8 ≤ (s.seg (segOf addr)).relays.length then s.dropRelay
      else s.queueRelay (segOf addr) { addr := addr, kind := kind, payload := payload }

/-- A valid frame is counted and routed by its class and address (R160, R164). -/
def State.routeLink (s : State) (addr cls tag : Octet) (body : List Octet) : State :=
  let s := s.countLink fun c => { c with received := satInc16 c.received }
  if cls = 1 && addr = 0 then s.management tag body
  else if cls = 4 && 1 ≤ addr.toNat && addr.toNat ≤ 64 then s.relayDown addr.toNat body
  else s.countLink fun c => { c with unrouted := satInc16 c.unrouted }

/-! ### The receiver -/

/-- The receiver's hunting state or frame in progress (R159). -/
def State.setLinkRx (s : State) (rx : LinkRx) : State := s.editLink fun l => { l with rx := rx }

/-- A complete frame, from the length on, is valid when its check octets agree (R159). -/
def State.completeLink (s : State) (os : List Octet) : State :=
  let covered := os.take (os.length - 2)
  if withCheck covered = os then
    match covered with
    | _ :: _ :: addr :: cls :: tag :: body => s.routeLink addr cls tag body
    | _ => s
  else s.countLink fun c => { c with checkErrors := satInc16 c.checkErrors }

/-- An octet is added to the frame in progress (R159). -/
def State.addLinkOctet (s : State) (os : List Octet) : State :=
  match os with
  | lh :: ll :: rest =>
    let n := u16 lh ll
    if n < 3 || 259 < n then
      (s.setLinkRx .hunting).countLink fun c => { c with lengthErrors := satInc16 c.lengthErrors }
    else if rest.length = n + 2 then (s.setLinkRx .hunting).completeLink os
    else s.setLinkRx (.frame os)
  | _ => s.setLinkRx (.frame os)

/-- The receiver takes a character (R159). -/
def State.takeLinkChar (s : State) (c : LinkChar) : State :=
  match s.link.rx with
  | .hunting => if c.stopGood && c.data = 0xA5 then s.setLinkRx .preamble else s
  | .preamble =>
    if c.stopGood && c.data = 0x5A then s.setLinkRx (.frame [])
    else if c.stopGood && c.data = 0xA5 then s
    else s.setLinkRx .hunting
  | .frame os =>
    if c.stopGood then s.addLinkOctet (os ++ [c.data])
    else
      (s.setLinkRx .hunting).countLink fun c =>
        { c with framingErrors := satInc16 c.framingErrors }

/-- DOWNLINK_FRAME_RECEIVED: the receiver takes the characters in turn (R159). -/
def execDownlinkFrameReceived (chars : List LinkChar) (s : State) : Result State :=
  .next (chars.foldl State.takeLinkChar s).endEvent

/-! ### The uplink -/

/-- The octets of a notice in a batch (R177). -/
def Notice.octets (n : Notice) : List Octet :=
  [n.kind.cls.code, n.kind.code, octet (n.subject / 65536), octet (n.subject / 256),
    octet n.subject] ++ be32 n.stamp ++ octet n.payload.length :: n.payload

/-- A batch is due (R176). -/
def NoticeUnit.batchDue (u : NoticeUnit) (batchCount : Nat) : Bool :=
  !u.queue.isEmpty &&
    (holdsClass .alert u.queue || holdsClass .round u.queue ||
      batchCount ≤ u.queue.countP (fun n => n.kind.cls = .status) || u.intervalEnded)

/-- The body of a NOTICE frame (R177). -/
def batchBody (lost : Nat) (batch : List Notice) : List Octet :=
  octet batch.length :: (be16 lost ++ batch.flatMap Notice.octets)

/-- The Notice Unit after a batch has been taken (R177). -/
def NoticeUnit.takeBatch (u : NoticeUnit) (expiry : Word32) : NoticeUnit :=
  { u with queue := u.queue.drop 8, intervalEnded := false, batchNumber := u.batchNumber + 1,
           coalescing := if (u.queue.drop 8).isEmpty then none else some expiry }

/-- The transmitter begins a frame, which counts as sent (R161, R164; log entry 16). -/
def State.beginFrame (s : State) (frame : List Octet) : State :=
  (s.editLink fun l => { l with onLine := some frame }).countLink fun c =>
    { c with sent := satInc16 c.sent }

/-- The body of a REPLY (R163). -/
def Reply.body (r : Reply) : List Octet := r.code :: r.result.code :: r.data

/-- The REPLY begins, and the Management Unit takes the next request (R162). -/
def State.sendReply (s : State) (r : Reply) : State :=
  ((s.editMgmt fun m => { m with reply := none }).beginFrame
    (linkFrame 0 2 r.tag r.body)).takeRequest

/-- A NOTICE batch begins (R177). -/
def State.sendBatch (s : State) : State :=
  (s.editNotices fun u => u.takeBatch (s.after s.params.coalescing)).beginFrame
    (linkFrame 0 3 (s.notices.batchNumber + 1)
      (batchBody s.notices.lost (s.notices.queue.take 8)))

/-- A relay frame begins (R161). -/
def State.sendUplinkRelay (s : State) (r : UpRelay) (rest : List UpRelay) : State :=
  (s.editLink fun l => { l with relays := rest }).beginFrame
    (linkFrame r.addr 4 (octet r.route) (r.kind :: r.payload))

/-- The uplink arbiter's choice for a transmitter that is free (R161). -/
def State.uplink (s : State) : State :=
  match s.mgmt.reply with
  | some r => s.sendReply r
  | none =>
    if s.notices.batchDue s.params.batchCount then s.sendBatch
    else match s.link.relays with
      | r :: rest => s.sendUplinkRelay r rest
      | [] => s.editLink fun l => { l with onLine := none }

/-- UPLINK_SEND: the transmitter has become free, or is free (R161; log entry 16). -/
def execUplinkSend (s : State) : Result State := .next s.uplink

/-! ### Unknown requests -/

/-- The request codes of R162's table. -/
def knownCodes : List Octet :=
  [0x01, 0x02, 0x03, 0x04, 0x05, 0x06, 0x10, 0x11, 0x12, 0x13, 0x14, 0x20, 0x21, 0x22, 0x23, 0x24,
    0x30, 0x31, 0x32, 0x33, 0x40, 0x41, 0x50, 0x51, 0x52, 0x53, 0x54, 0x55, 0x56]

/-- UNKNOWN_REQUEST: a request with an empty body or a code the table has not (R163). -/
def execUnknownRequest (s : State) : Result State :=
  .next (
    match s.mgmt.taken with
    | none => s
    | some r =>
      match r.body with
      | [] => s.reply r 0x00 .unknownRequest []
      | c :: _ => if c ∈ knownCodes then s else s.reply r c .unknownRequest [])

end Sys2Proof.Machine
end

