-- ==== Sys2Proof/Machine/Tickets.lean ====
section
/-! DEFINITION. The requests on the Ticket Ring and the expiry of the current ticket's hold (R98, R99,
R104, R106 to R109). -/

namespace Sys2Proof.Machine

/-- The dispatch state, RUNNING or SUSPENDED, coded in that order (R97). -/
def State.dispatchCode (s : State) : Octet := if s.running then 0 else 1

/-! ### The hold -/

/-- The expiry second of the current ticket's hold, while its timer runs (R97, R104). -/
def Ticket.holdExpiry (t : Ticket) : Option Word32 :=
  if t.hold = 0 then none else t.holdStart.map fun h => h + BitVec.ofNat 32 (t.hold * 60)

/-- The current ticket's hold expiry second has been reached (R104). -/
def State.holdDue (s : State) : Bool :=
  s.running &&
    (match s.currentTicket.holdExpiry with
      | some t => reached s.seconds t
      | none => false)

/-- HOLD_EXPIRY (R104). -/
def execHoldExpiry (s : State) : Result State :=
  .next (if s.holdDue then (s.handBack .holdExpired).endEvent else s)

/-! ### GIVE TICKET -/

/-- The ticket as GIVE TICKET writes it (R99). -/
def Ticket.given (number stream capacity maxStops minVolume hold : Nat) : Ticket :=
  { state := .opened, number := number, stream := stream, capacity := capacity,
    remaining := capacity, maxStops := maxStops, minVolume := minVolume, hold := hold,
    cause := none, holdStart := none, stops := [] }

/-- An accepted GIVE TICKET (R99). -/
def State.giveTicket (s : State) (t : Ticket) : Answered :=
  let slot := s.dispatch.fillIndex
  let suspended := !s.running
  let s := s.putTicket slot t
  let s := s.editDispatch fun x => { x with fillIndex := (slot + 1) % 16 }
  let s := (if suspended then s.becomeCurrent else s).endEvent
  accepted s [octet slot, s.dispatchCode]

/-- The checks of the stream and of the ring (R98). -/
def State.giveOfStream (s : State) (t : Ticket) : Answered :=
  let s := s.readStream t.stream
  if (s.streamRow t.stream).bad then refused s .state
  else if !(s.streamRow t.stream).data.loaded then refused s .range
  else if (s.ticket s.dispatch.fillIndex).state = .free then s.giveTicket t
  else refused s .ringFull

/-- A ticket's fields within their ranges (R98). -/
def Ticket.inRange (t : Ticket) : Bool :=
  t.stream ≤ 7 && 100 ≤ t.capacity && t.capacity ≤ 60000 && 1 ≤ t.maxStops && t.maxStops ≤ 24 &&
    t.minVolume ≤ 5000

def giveTicketRequest (args : List Octet) (s : State) : Answered :=
  match args with
  | [nh, nl, stream, ch, cl, stops, vh, vl, hold] =>
    let t := Ticket.given (u16 nh nl) stream.toNat (u16 ch cl) stops.toNat (u16 vh vl) hold.toNat
    if t.inRange then s.giveOfStream t else refused s .range
  | _ => wrongLength s

/-- GIVE_TICKET (R98, R99). -/
def execGiveTicket (s : State) : Result State := .next (s.serve 0x30 anyArgs giveTicketRequest)

/-! ### RECALL TICKET -/

/-- The container rows of the PLANNED stops, in stop order. -/
def Ticket.plannedRows (t : Ticket) : List Nat := (t.stops.filter Stop.isPlanned).map (·.row)

/-- A PLANNED stop becomes SKIPPED (R106). -/
def Stop.skip (p : Stop) : Stop := if p.isPlanned then { p with status := .skipped } else p

/-- The ticket after its recall: an OPEN one takes the cause RECALLED, a HANDED one keeps its own
(R106, R107). -/
def Ticket.recalled (t : Ticket) : Ticket :=
  { t with state := .complete, stops := t.stops.map Stop.skip,
           cause := if t.state = .opened then some .recalled else t.cause }

/-- A container's assignment is cleared. -/
def State.unassign (s : State) (row : Nat) : State :=
  s.editContainer row fun c => { c with assignment := none }

/-- The Dispatch Unit is told of a container whose assignment was cleared. -/
def State.tellSame (s : State) (row : Nat) : State := s.tell row (s.container row)

/-- RECALL TICKET on an OPEN or HANDED ticket, in the order of R106. -/
def State.recall (s : State) (slot : Nat) : State :=
  let t := s.ticket slot
  let current := s.running && slot = s.dispatch.dispatchIndex
  let s := t.plannedRows.foldl State.unassign s
  let s := s.putTicket slot t.recalled
  let s := t.plannedRows.foldl State.tellSame s
  if current then State.advance 16 s else s

def recallTicketRequest (args : List Octet) (s : State) : Answered :=
  match args with
  | [slot] =>
    let t := s.ticket slot.toNat
    if 15 < slot.toNat then refused s .range
    else if t.state = .opened || t.state = .handed then
      accepted (s.recall slot.toNat).endEvent [t.state.code, octet t.plannedRows.length]
    else refused s .state
  | _ => wrongLength s

/-- RECALL_TICKET (R106, R107). -/
def execRecallTicket (s : State) : Result State :=
  .next (s.serve 0x31 anyArgs recallTicketRequest)

/-! ### RETIRE TICKET and READ TICKET -/

def retireTicketRequest (args : List Octet) (s : State) : Answered :=
  match args with
  | [slot] =>
    if 15 < slot.toNat then refused s .range
    else if (s.ticket slot.toNat).state = .complete then
      accepted (s.putTicket slot.toNat Ticket.free) []
    else refused s .state
  | _ => wrongLength s

/-- RETIRE_TICKET (R108). -/
def execRetireTicket (s : State) : Result State :=
  .next (s.serve 0x32 anyArgs retireTicketRequest)

/-- The number of entries of the Emptying Request list in FULL. -/
def State.fullListed (s : State) : Nat :=
  s.dispatch.list.countP fun row => (s.container row).fill = .full

/-- A stop as READ TICKET carries it (R109). -/
def Stop.octets (p : Stop) : List Octet :=
  octet p.row :: (be16 p.volume ++ [p.status.code] ++ optional 2 (p.mass.map be16))

/-- The whole seconds remaining to the hold expiry of the ticket in a slot, while it is current and
OPEN with hold above 0 (R109). -/
def State.holdRemaining (s : State) (slot : Nat) : Option Nat :=
  if s.running && slot = s.dispatch.dispatchIndex then
    s.currentTicket.holdExpiry.map s.remaining
  else none

/-- The fields of a ticket that is not FREE, behind its state (R109), with the number of its stops in front
of them (log entry 8). -/
def State.ticketReport (s : State) (slot : Nat) : List Octet :=
  let t := s.ticket slot
  be16 t.number ++ [octet t.stream] ++ be16 t.capacity ++ be16 t.remaining ++
    [octet t.maxStops] ++ be16 t.minVolume ++ [octet t.hold] ++
    optional 1 (t.cause.map fun c => [c.code]) ++ optional 4 (t.holdStart.map be32) ++
    octet t.stops.length :: t.stops.flatMap Stop.octets ++
    optional 2 ((s.holdRemaining slot).map be16)

/-- The state of the ring as READ TICKET carries it (R109). -/
def State.ringReport (s : State) : List Octet :=
  [octet s.dispatch.fillIndex, octet s.dispatch.dispatchIndex, s.dispatchCode] ++
    be16 s.dispatch.list.length ++ be16 s.fullListed ++ be16 s.dispatch.missedFull

def readTicketRequest (args : List Octet) (s : State) : Answered :=
  match args with
  | [slot] =>
    let t := s.ticket slot.toNat
    if 15 < slot.toNat then refused s .range
    else
      accepted s (s.ringReport ++ t.state.code ::
        if t.state = .free then [] else s.ticketReport slot.toNat)
  | _ => wrongLength s

/-- READ_TICKET (R109). -/
def execReadTicket (s : State) : Result State := .next (s.serve 0x33 anyArgs readTicketRequest)

end Sys2Proof.Machine
end

