-- ==== Sys2Proof/WellFormed.lean ====
section
/-! DEFINITION. Which commands the part's lines and tables can spell: a lift timer belongs to a row of
the Container Table, and an upset names a row that its table has, with contents that fit the
widths of the row's fields. -/

namespace Sys2Proof.Machine

/-- A Station Entry's fields fit their widths (R162's widths for the ranges of the entry). -/
def Station.fits (e : Station) : Bool :=
  e.count < 256 && e.sampleInterval < 65536 && e.deadline < 65536 && e.misses < 256 &&
    e.attempts < 256 && e.lateAnswers < 65536 && e.discarded < 65536

/-- A container's configuration fields fit the widths of LOAD CONTAINER. -/
def ContainerConfig.fits (c : ContainerConfig) : Bool :=
  c.stream < 256 && c.capacity < 65536 && c.depth < 65536 && c.deadZone < 65536 &&
    c.hatchVolume < 256 && c.unitCost < 256 && c.zone < 256 && c.warn < 65536 &&
    c.full < 65536 && c.hysteresis < 65536 && c.gain < 256 && c.spikeLimit < 65536 &&
    c.qualityMin < 256 && c.residue < 65536

/-- A Container Entry's fields fit their widths. -/
def Container.fits (c : Container) : Bool :=
  c.cfg.fits && (c.estimate.getD 0) < 65536 && (c.assignment.getD 0) < 256 &&
    c.deposits < 65536 && c.rejected < 256

/-- A Card Row's fields fit their widths. -/
def CardRow.fits (c : CardRow) : Bool :=
  -32768 ≤ c.balance && c.balance ≤ 32767 && c.limit < 256 && c.reserved < 256 &&
    c.periodDeposits < 65536

/-- A Journal Record's fields fit their widths. -/
def JournalRecord.fits (r : JournalRecord) : Bool :=
  r.row < 256 && r.units < 256 && -32768 ≤ r.balance && r.balance ≤ 32767 &&
    (match r.stamp with
      | none => true
      | some t => t.day < 65536 && t.minute < 65536)

/-- The row exists (R179's row ranges) and its contents fit. -/
def Upset.wellFormed : Upset → Bool
  | .station addr e => 1 ≤ addr && addr ≤ 64 && e.fits
  | .container row c => row < 256 && c.fits
  | .stream code _ => code < 8
  | .series n e => n < 255 && e.base < 65536 && e.span < 65536
  | .window w => w.base < 65536 && w.span < 65536
  | .card row c => row < 8192 && c.fits
  | .kind k route => 0x10 ≤ k && k ≤ 0x3F && route < 256
  | .journal slot r => slot < 1024 && r.fits

end Sys2Proof.Machine

namespace Sys2Proof

open Sys2Proof.Machine

/-- Every command whose operands are bits, characters or a segment is well formed. -/
def Instr.wellFormed : Instr → Bool
  | .secondsCountAdvance us => us.all Upset.wellFormed
  | .firstLiftExpiry row => row < 256
  | .secondLiftExpiry row => row < 256
  | .coldReset _ | .pendingExpiry | .holdExpiry | .supervisionExpiry | .coalescingExpiry
  | .downlinkFrameReceived _ | .uplinkSend | .unknownRequest | .loadStation | .removeStation
  | .readStation | .clearStationErrors | .setSegment | .pollControlNone | .pollControlStopNow
  | .pollControlStopAfterCycle | .pollControlStart | .loadStreamLoad | .loadStreamUnload
  | .loadContainerLoad | .loadContainerUnload | .setContainerServiceOut
  | .setContainerServiceIn | .readContainer | .clearContainerFlags | .loadSeries | .loadWindow
  | .loadCards | .adjustBalance | .readCard | .giveTicket | .recallTicket | .retireTicket
  | .readTicket | .readJournal | .releaseJournal | .loadKind | .setUnknownRoute | .setClock
  | .setParameters | .readStatus | .readFaultCapture | .restart | .segmentFrameReceived _ _
  | .replyTimeout _ | .lineLow _ | .segmentDown _ | .busResetBreak _ | .busResetBreakEnd _
  | .sendTurn _ | .replyWindowOpen _ | .emptyCycleEnd _ | .breakOver _ => true

end Sys2Proof
end

