-- ==== Sys2Proof/Machine/Management.lean ====
section
/-! DEFINITION. The Management Unit's own requests and its clocks: routes, the district clock, the
parameters, the status, the Fault Capture record, the advance of the seconds count and the expiry of
the coalescing timer (R165 to R168, R171, R176, R179). -/

namespace Sys2Proof.Machine

/-! ### Time -/

/-- The district clock one second later (R166). -/
def Clock.tick (c : Clock) : Clock :=
  if c.second + 1 < 60 then { c with second := c.second + 1 }
  else if c.minute + 1 < 1440 then { c with second := 0, minute := c.minute + 1 }
  else { day := (c.day + 1) % 65536, minute := 0, second := 0 }

/-- The records with the one in a record slot found upset; a slot that holds none is not disturbed
(R89; log entry 3). -/
def Journal.upset (j : Journal) (slot : Nat) (found : JournalRecord) : List (Row JournalRecord) :=
  j.records.mapIdx fun i r => if j.slotAt i = slot then { data := found, bad := true } else r

/-- A row of Table Memory is disturbed: its contents are as found and its parity is wrong (log
entry 3). A row that its table has not is no row. -/
def State.upset (s : State) (u : Upset) : State :=
  if u.wellFormed then
    match u with
    | .station addr found => s.putStation addr { data := found, bad := true }
    | .container row found => s.putContainer row { data := found, bad := true }
    | .stream code found => s.putStream code { data := found, bad := true }
    | .series n found => s.putSeries n { data := found, bad := true }
    | .window found => { s with window := { data := found, bad := true } }
    | .card row found => s.putCard row { data := found, bad := true }
    | .kind k route => s.putKind k { data := route, bad := true }
    | .journal slot found => s.editJournal fun j => { j with records := j.upset slot found }
  else s

/-- The seconds count advances by one, and a present district clock with it (R165, R166). -/
def State.tick (s : State) : State :=
  { s with seconds := s.seconds + 1, clock := s.clock.map Clock.tick }

/-- SECONDS_COUNT_ADVANCE, with the rows upset while the second passed. The expiries that the new count
makes due are commands of their own (R165). -/
def execSecondsCountAdvance (upsets : List Upset) (s : State) : Result State :=
  .next (upsets.foldl State.upset s.tick)

/-- COALESCING_EXPIRY: the timer stops and the queue is marked interval ended (R176). -/
def execCoalescingExpiry (s : State) : Result State :=
  .next (
    match s.notices.coalescing with
    | none => s
    | some t =>
      if reached s.seconds t then
        s.editNotices fun u => { u with coalescing := none, intervalEnded := true }
      else s)

/-! ### Routes -/

/-- LOAD KIND on its body; the reply carries the kind in front of the route (log entry 8). -/
def loadKindRequest (args : List Octet) (s : State) : Answered :=
  match args with
  | [kind, route] =>
    if 0x10 ≤ kind.toNat && kind.toNat ≤ 0x3F then
      accepted (s.writeKind kind.toNat route.toNat) [kind, route]
    else refused s .range
  | _ => wrongLength s

/-- LOAD_KIND (R168). -/
def execLoadKind (s : State) : Result State := .next (s.serve 0x50 anyArgs loadKindRequest)

def setUnknownRouteRequest (args : List Octet) (s : State) : Answered :=
  match args with
  | [route] => accepted (s.editMgmt fun m => { m with unknownRoute := route.toNat }) [route]
  | _ => wrongLength s

/-- SET_UNKNOWN_ROUTE (R168). -/
def execSetUnknownRoute (s : State) : Result State :=
  .next (s.serve 0x51 anyArgs setUnknownRouteRequest)

/-! ### The district clock -/

/-- The district clock with its presence (R166, R171). -/
def clockOctets (c : Option Clock) : List Octet :=
  optional 4 (c.map fun k => be16 k.day ++ be16 k.minute)

def setClockRequest (args : List Octet) (s : State) : Answered :=
  match args with
  | [dh, dl, mh, ml] =>
    if u16 mh ml ≤ 1439 then
      accepted { s with clock := some { day := u16 dh dl, minute := u16 mh ml, second := 0 } }
        (clockOctets s.clock ++ be32 s.seconds)
    else refused s .range
  | _ => wrongLength s

/-- SET_CLOCK (R166). -/
def execSetClock (s : State) : Result State := .next (s.serve 0x52 anyArgs setClockRequest)

/-! ### Parameters -/

/-- A value taken to a range (R167). -/
def clampTo (low high n : Nat) : Nat := if n < low then low else if high < n then high else n

/-- The supervision period taken to its range; 0 is taken as 0 (R167). -/
def clampPeriod (n : Nat) : Nat := if n = 0 then 0 else clampTo 10 3600 n

/-- The five values as taken (R167). -/
def Params.clamp (p : Params) : Params :=
  { pendingExpiry := clampTo 10 600 p.pendingExpiry, liftLimit := clampTo 1 60 p.liftLimit,
    supervision := clampPeriod p.supervision, batchCount := clampTo 1 8 p.batchCount,
    coalescing := clampTo 1 60 p.coalescing }

/-- A bit of the octet that names the values changed by the range. -/
def changedBit (bit a b : Nat) : Nat := if a = b then 0 else 2 ^ bit

/-- Which of the five values two sets of parameters differ in (R167). -/
def changedMask (p q : Params) : Octet :=
  octet (changedBit 0 p.pendingExpiry q.pendingExpiry + changedBit 1 p.liftLimit q.liftLimit +
    changedBit 2 p.supervision q.supervision + changedBit 3 p.batchCount q.batchCount +
    changedBit 4 p.coalescing q.coalescing)

/-- The five parameters in their widths (R167). -/
def Params.octets (p : Params) : List Octet :=
  be16 p.pendingExpiry ++ [octet p.liftLimit] ++ be16 p.supervision ++
    [octet p.batchCount, octet p.coalescing]

/-- SET PARAMETERS: the values are taken and the supervision timer restarted (R167, R169). -/
def State.setParameters (s : State) (p : Params) : Answered :=
  accepted ({ s with params := p.clamp }).restartSupervision
    (p.clamp.octets ++ [changedMask p p.clamp])

def setParametersRequest (args : List Octet) (s : State) : Answered :=
  match args with
  | [ph, pl, lift, sh, sl, batch, coal] =>
    s.setParameters
      { pendingExpiry := u16 ph pl, liftLimit := lift.toNat, supervision := u16 sh sl,
        batchCount := batch.toNat, coalescing := coal.toNat }
  | _ => wrongLength s

/-- SET_PARAMETERS (R167). -/
def execSetParameters (s : State) : Result State :=
  .next (s.serve 0x53 anyArgs setParametersRequest)

/-! ### READ STATUS and READ FAULT CAPTURE -/

/-- The nine link counters, in R164's order. -/
def LinkCounters.octets (c : LinkCounters) : List Octet :=
  be16 c.received ++ be16 c.lengthErrors ++ be16 c.checkErrors ++ be16 c.framingErrors ++
    be16 c.unrouted ++ be16 c.overflow ++ be16 c.uplinkDrops ++ be16 c.downlinkDrops ++ be16 c.sent

/-- Every link counter at 0 (R164). -/
def LinkCounters.zero : LinkCounters :=
  { received := 0, lengthErrors := 0, checkErrors := 0, framingErrors := 0, unrouted := 0,
    overflow := 0, uplinkDrops := 0, downlinkDrops := 0, sent := 0 }

/-- The whole seconds that remain to the supervision expiry, 0 when it is stopped (R171). -/
def State.supervisionRemaining (s : State) : Nat :=
  match s.link.supervision with
  | some t => s.remaining t
  | none => 0

/-- A segment's part of the status (R171). -/
def Segment.statusOctets (x : Segment) : List Octet :=
  [x.state.code, x.polling.code, flagOctet x.lineLow]

/-- What READ STATUS carries, in its order (R171). -/
def State.statusReport (s : State) : List Octet :=
  be32 s.seconds ++ clockOctets s.clock ++
    [if s.link.rateHigh then 1 else 0, flagOctet s.link.islanded] ++ be16 s.params.supervision ++
    be16 s.supervisionRemaining ++ s.link.counters.octets ++
    [octet s.link.requests.length, octet s.link.relays.length] ++ s.segA.statusOctets ++
    s.segB.statusOctets ++ [octet s.deposits.length, octet (chargedPending s.deposits)] ++
    be16 s.journal.records.length ++ be32 s.journal.counter ++ be16 s.dispatch.list.length ++
    [s.dispatchCode] ++ be16 s.dispatch.missedFull ++ [octet s.notices.queue.length] ++
    be16 s.notices.lost ++ [yesNo s.capture.isSome] ++ s.params.octets

def readStatusRequest (args : List Octet) (s : State) : Answered :=
  match args with
  | [clear] =>
    match parseYesNo clear with
    | none => refused s .range
    | some c =>
      accepted (if c then s.countLink fun _ => LinkCounters.zero else s) s.statusReport
  | _ => wrongLength s

/-- READ_STATUS (R171). -/
def execReadStatus (s : State) : Result State := .next (s.serve 0x54 anyArgs readStatusRequest)

/-- What READ FAULT CAPTURE carries (R179). -/
def captureOctets (c : Option CapturedFault) : List Octet :=
  match c with
  | some f => [1, f.table.code] ++ be16 f.row ++ be32 f.stamp ++ [octet f.further]
  | none => List.replicate 9 0

def readFaultCaptureRequest (args : List Octet) (s : State) : Answered :=
  match args with
  | [] => accepted { s with capture := none } (captureOctets s.capture)
  | _ => wrongLength s

/-- READ_FAULT_CAPTURE (R179). -/
def execReadFaultCapture (s : State) : Result State :=
  .next (s.serve 0x55 anyArgs readFaultCaptureRequest)

end Sys2Proof.Machine
end

