-- ==== Sys2Proof/Machine/Presentations.lean ====
section
/-! DEFINITION. The Presentation Unit and the Card Lookup Unit's part in it: the decision on a
presentation, confirmations, the commit with its Journal record, and PENDING_EXPIRY. -/

namespace Sys2Proof.Machine

/-! ### Resolving a card number -/

/-- What a resolution comes to (R39, R40, R55). -/
inductive Resolution where
  | refuse (reason : RefuseReason)
  | row (cardRow : Nat) (onlineOnly : Bool)
deriving DecidableEq, Repr

/-- A Series Map entry read good (R39). -/
def SeriesEntry.resolve (e : SeriesEntry) (serial : Nat) : Resolution :=
  if !e.valid then .refuse .unknownSeries
  else if e.barred then .refuse .barred
  else if e.span ≤ serial then .refuse .unknownCard
  else .row (e.base + serial) e.onlineOnly

/-- The Visitor Window read good (R40). -/
def VisitorWindow.resolve (w : VisitorWindow) (serial : Nat) : Resolution :=
  if w.span ≤ serial then .refuse .unknownCard else .row (w.base + serial) w.onlineOnly

/-- Whether the entry that resolves the card number has wrong parity. -/
def State.seriesFaulty (s : State) (card : CardNumber) : Bool :=
  if cardSeries card = 255 then s.window.bad else (s.seriesRow (cardSeries card)).bad

/-- The resolution of a card number through an entry read good. -/
def State.resolve (s : State) (card : CardNumber) : Resolution :=
  if cardSeries card = 255 then s.window.data.resolve (cardSerial card)
  else (s.seriesRow (cardSeries card)).data.resolve (cardSerial card)

/-! ### Answers -/

/-- An answer is placed in the queue of the station's segment (R72). -/
def State.answer (s : State) (addr : Nat) (slot : Octet) (body : AnswerBody) : State :=
  s.editSeg (segOf addr) fun x =>
    { x with answers := x.answers ++ [{ addr := addr, slot := slot, body := body }] }

/-- A REFUSE answer (R70). -/
def State.refuse (s : State) (addr : Nat) (slot : Octet) (r : RefuseReason) : State :=
  s.answer addr slot (.refuse r)

/-- The units a grant holds against the card: u on a charged stream, else 0 (R46). -/
def grantUnits (cfg : ContainerConfig) (charged : Bool) : Nat := if charged then cfg.unitCost else 0

/-- The writes of a grant, in the order of R71. -/
def State.grant (s : State) (addr : Nat) (slot : Octet) (row cardRow : Nat) (card : CardNumber)
    (charged : Bool) : State :=
  let units := grantUnits (s.container row).cfg charged
  let d : Deposit :=
    { row := row, cardRow := cardRow, card := card, units := units, charged := charged,
      expiry := s.after s.params.pendingExpiry }
  let s := s.editDeposits fun ds => ds ++ [d]
  let c := s.card cardRow
  let c := { c with reserved := c.reserved + units }
  let s := s.writeCard cardRow c
  let s := s.editContainer row fun x => { x with hasPending := true }
  s.answer addr slot (.grant units (floorBalance (c.balance - (c.reserved : Int))))

/-! ### The checks -/

/-- Checks 9 and 10: room for a pending deposit, then the gates of a charged stream (R67 to R69). -/
def State.gates (s : State) (charged : Bool) (u : Nat) (c : CardRow) : Option RefuseReason :=
  if 32 ≤ s.deposits.length then some .busy
  else if !charged then none
  else if 1024 ≤ s.journal.records.length + chargedPending s.deposits then some .journalFull
  else if 255 < c.reserved + u then some .busy
  else if c.balance - (c.reserved : Int) - (u : Int) < -(c.limit : Int) then some .noAllowance
  else none

/-- Checks 7 to 10 on a container and a card row both read good: the reason of the first that fails
(R65 to R69). -/
def State.rightsAndGates (s : State) (k : Container) (charged : Bool) (c : CardRow) :
    Option RefuseReason :=
  let u := k.cfg.unitCost
  if !(setHas c.streamRights k.cfg.stream && setHas c.zoneRights k.cfg.zone) then some .noRight
  else
    match k.estimate with
    | some e =>
      if k.fill = .full || !headroom k.cfg e then some .containerFull else s.gates charged u c
    | none => if k.cfg.grantUnknown then s.gates charged u c else some .containerClosed

/-- Checks 5 to 11, on the Card Row the resolution found (R64 to R71). -/
def State.decideOnRow (s : State) (addr : Nat) (slot : Octet) (row cardRow : Nat)
    (card : CardNumber) (charged : Bool) : State :=
  if (s.cardRow cardRow).bad then
    (s.tableFault .card cardRow (cardOctets card)).refuse addr slot .tableFault
  else
    let c := s.card cardRow
    match c.state with
    | .empty => s.refuse addr slot .unknownCard
    | .blocked => s.refuse addr slot .cardBlocked
    | .lost => (s.raise .lostCardUsed card.toNat [octet row]).refuse addr slot .cardLost
    | .active =>
      match s.rightsAndGates (s.container row) charged c with
      | some reason => s.refuse addr slot reason
      | none => s.grant addr slot row cardRow card charged

/-- Checks 3 and 4, then those of the row (R63, R55). -/
def State.decideOnCard (s : State) (addr : Nat) (slot : Octet) (row : Nat) (card : CardNumber)
    (charged : Bool) : State :=
  if s.seriesFaulty card then
    (s.tableFault .series (cardSeries card) (cardOctets card)).refuse addr slot .tableFault
  else
    match s.resolve card with
    | .refuse reason => s.refuse addr slot reason
    | .row cardRow onlineOnly =>
      if onlineOnly && s.link.islanded then s.refuse addr slot .offline
      else s.decideOnRow addr slot row cardRow card charged

/-- Checks 1 and 2 on a slot the station has, then those of the card (R62). A stream code above 7 in a spoiled
configuration reads as good and uncharged (log entry 35). -/
def State.decide (s : State) (addr : Nat) (slot : Octet) (card : CardNumber) : State :=
  let row := rowOf addr slot.toNat
  let faulty := (s.containerRow row).bad
  let s := s.readContainer row
  let k := s.container row
  if faulty then s.refuse addr slot .tableFault
  else if !k.loaded || k.service != .inService then s.refuse addr slot .containerClosed
  else
    let s := s.readStream k.cfg.stream
    let r := s.streamRow k.cfg.stream
    if r.bad then s.refuse addr slot .tableFault
    else s.decideOnCard addr slot row card r.data.charged

/-- The overrun step (R61). -/
def State.overrun (s : State) (addr row : Nat) : State :=
  match s.depositAt row with
  | some d =>
    ((s.release d).editStation addr fun e => e.flag .overrun).raise .overrun row (cardOctets d.card)
  | none => s

/-- A PRESENTATION is decided as one event and makes one answer (R60 to R72). -/
def State.present (s : State) (addr : Nat) (slot : Octet) (card : CardNumber) : State :=
  if s.hasSlot addr slot then
    (s.overrun addr (rowOf addr slot.toNat)).decide addr slot card
  else s.refuse addr slot .containerClosed

/-! ### Commit -/

/-- A record is appended to the Journal, in the slot that follows the last one written, be the Journal empty
or not (R85; log entry 34). -/
def State.appendRecord (s : State) (d : Deposit) (balance : Int) : State :=
  let n := s.journal.counter + 1
  let r : JournalRecord :=
    { seq := n, card := d.card, row := d.row, units := d.units, balance := balance,
      stamp := s.clock.map fun k => { day := k.day, minute := k.minute } }
  s.editJournal fun j =>
    { records := j.records ++ [Row.good r], counter := n, nextSlot := (j.nextSlot + 1) % 1024 }

/-- The charge of a commit on the card row (R47). -/
def CardRow.charge (c : CardRow) (units : Nat) : CardRow :=
  let b := c.balance - (units : Int)
  { c with balance := floorBalance b, clamped := c.clamped || decide (b < -255),
           reserved := lowerReserved c.reserved units,
           periodDeposits := satInc16 c.periodDeposits }

/-- The commit of a deposit, in the order of R75. -/
def State.commit (s : State) (d : Deposit) : State :=
  let s := s.repairCard d.cardRow
  let c := (s.card d.cardRow).charge d.units
  let s := s.writeCard d.cardRow c
  let s := if d.charged then s.appendRecord d c.balance else s
  let s := s.removeDeposit d.row
  let s := s.readContainer d.row
  s.fillWork d.row fun k => incrementWork { k with hasPending := false }

/-! ### Confirmations -/

/-- Outcomes of a CONFIRM (Confirmations). -/
inductive ConfirmOutcome where
  | deposited | notDeposited | answerLate
deriving DecidableEq, Repr

/-- The outcome an octet names. -/
def parseOutcome (o : Octet) : Option ConfirmOutcome :=
  if o = 0x01 then some .deposited
  else if o = 0x02 then some .notDeposited
  else if o = 0x03 then some .answerLate
  else none

/-- A NOT DEPOSITED or ANSWER LATE confirmation releases the deposit (R76). -/
def State.confirmRelease (s : State) (addr : Nat) (d : Deposit) (late : Bool) : State :=
  let s := s.release d
  if late then s.editStation addr fun e => { e with lateAnswers := satInc16 e.lateAnswers } else s

/-- A DEPOSITED confirmation on a loaded container without a deposit (R77). -/
def State.unmatched (s : State) (row : Nat) : State :=
  ((s.readContainer row).fillWork row incrementWork).raise .lateConfirm row []

/-- A CONFIRM routed to the Presentation Unit (R74 to R78). Its look at the entry's loaded field is not a
checked read (log entry 17). -/
def State.confirm (s : State) (addr : Nat) (slot outcome : Octet) : State :=
  let row := rowOf addr slot.toNat
  if s.hasSlot addr slot && (s.container row).loaded then
    match parseOutcome outcome with
    | none => s.countDiscarded addr
    | some o =>
      match s.depositAt row, o with
      | some d, .deposited => s.commit d
      | some d, .notDeposited => s.confirmRelease addr d false
      | some d, .answerLate => s.confirmRelease addr d true
      | none, .deposited => s.unmatched row
      | none, .notDeposited => s.countDiscarded addr
      | none, .answerLate => s.countDiscarded addr
  else s.countDiscarded addr

/-! ### Expiry -/

/-- One deposit expires (R79). -/
def State.expire (s : State) (d : Deposit) : State :=
  (s.release d).raise .pendingExpired d.row (cardOctets d.card ++ [octet d.units])

/-- PENDING_EXPIRY: every deposit whose expiry second has been reached is released with its notice,
in the order they stand in the list (R79; log entry 15). -/
def execPendingExpiry (s : State) : Result State :=
  .next ((s.deposits.filter fun d => reached s.seconds d.expiry).foldl State.expire s).endEvent

end Sys2Proof.Machine
end

