-- ==== Sys2Proof/Machine/Reception.lean ====
section
/-! DEFINITION. What comes in on a segment: the routing of a station's reply by its kind, the outcome
of a reply window at the Station Entry, the reply window, and the receiver (Station Bus Segments;
Stations and the Poll Cycle). -/

namespace Sys2Proof.Machine

/-! ### Routing -/

/-- An upward relay is placed in the uplink relay queue or dropped when it is full (R153). -/
def State.relayUp (s : State) (addr route : Nat) (kind : Octet) (payload : List Octet) : State :=
  if s.link.relays.length < 16 then
    s.editLink fun l =>
      { l with relays := l.relays ++
          [{ addr := addr, route := route, kind := kind, payload := payload }] }
  else s.editLink fun l =>
    { l with counters.uplinkDrops := satInc16 l.counters.uplinkDrops }

/-- A reply of kind 0x10 to 0x3F goes by its Kind Table entry (R153, R168). -/
def State.routeByTable (s : State) (addr : Nat) (kind : Octet) (payload : List Octet) : State :=
  let k := kind.toNat
  if (s.kindRow k).bad then
    ((s.tableFault .kind k []).writeKind k 0).countDiscarded addr
  else if (s.kindRow k).data = 0 then s
  else s.relayUp addr (s.kindRow k).data kind payload

/-- A reply of another upward kind goes by the unknown-kind route (R153). -/
def State.routeUnknown (s : State) (addr : Nat) (kind : Octet) (payload : List Octet) : State :=
  if s.mgmt.unknownRoute = 0 then s.countDiscarded addr
  else s.relayUp addr s.mgmt.unknownRoute kind payload

/-- A well-formed reply is handed by its kind to the block that owns it (R152). -/
def State.route (s : State) (addr : Nat) (kind : Octet) (payload : List Octet) : State :=
  if kind = 0x00 then s
  else if kind = 0x02 then
    match payload with
    | [slot, a, b, c] => s.present addr slot (cardOf a b c)
    | _ => s
  else if kind = 0x03 then
    match payload with
    | [slot, outcome] => s.confirm addr slot outcome
    | _ => s
  else if kind = 0x04 then
    match payload with
    | [slot, dh, dl, q] => s.sample addr slot (u16 dh dl) q.toNat
    | _ => s
  else if kind = 0x05 then
    match payload with
    | [slot] => s.liftStart addr slot
    | _ => s
  else if kind = 0x06 then
    match payload with
    | [slot, mh, ml] => s.liftEnd addr slot (u16 mh ml)
    | _ => s
  else if 0x10 ≤ kind.toNat && kind.toNat ≤ 0x3F then s.routeByTable addr kind payload
  else s.routeUnknown addr kind payload

/-! ### Replies -/

/-- The announcement a reply makes: kind ANNOUNCE, and not malformed (R146). -/
def announcement (kind : Octet) (payload : List Octet) : Option Announcement :=
  if kind = 0x01 then
    match payload with
    | [model, count] => some { model := model, count := count }
    | _ => none
  else none

/-- An announcement is recorded (R149). -/
def State.recordAnnounce (s : State) (addr : Nat) (a : Announcement) : State :=
  s.editStation addr fun e =>
    let e := { e with lastAnnounce := some a }
    if a.count.toNat = e.count then e else e.flag .mismatch

/-- The station becomes CONFIGURING with attempts 0 and joins the configure list (R146, R150). -/
def State.startConfiguring (s : State) (addr : Nat) : State :=
  (s.editStation addr fun e => { e with state := .configuring, attempts := 0 }).joinConfigure addr

/-- The announcement is recorded, or the content of another reply discarded and counted. -/
def State.noteReply (s : State) (addr : Nat) (a : Option Announcement) : State :=
  match a with
  | some a => s.recordAnnounce addr a
  | none => s.countDiscarded addr

/-- An ANNOUNCE after the CONFIGURE has been sent: one more failed attempt (R149). -/
def State.failedAttempt (s : State) (addr : Nat) (a : Announcement) : State :=
  let s := s.recordAnnounce addr a
  let n := (s.station addr).attempts + 1
  let s := s.editStation addr fun e => { e with attempts := n }
  if n < 4 then s.joinConfigure addr
  else (s.editStation addr fun e => { e.flag .configFail with state := .silent }).raise
    .configFail addr [a.model, a.count]

/-- A reply is routed by its kind, or discarded and counted when malformed (R146, R152). -/
def State.routeReply (s : State) (addr : Nat) (kind : Octet) (payload : List Octet) : State :=
  if malformed kind payload then s.countDiscarded addr else s.route addr kind payload

/-- The station enters IN SERVICE by the first reply that is not an ANNOUNCE (R146). -/
def State.enterService (s : State) (addr : Nat) (kind : Octet) (payload : List Octet) : State :=
  let s := s.editStation addr fun e => { e with state := .inService, attempts := 0 }
  (s.raise .stationInService addr []).routeReply addr kind payload

/-- A station restart (R150). -/
def State.stationRestart (s : State) (addr : Nat) (a : Announcement) : State :=
  ((s.recordAnnounce addr a).releaseStation addr).startConfiguring addr

/-- A valid reply sets consecutive misses to 0 (R146). -/
def State.clearMisses (s : State) (addr : Nat) : State :=
  s.editStation addr fun e => { e with misses := 0 }

/-- A reply of a station that is ABSENT or CUT OFF: counted as stray, and a malformed one, in these states as
in every other, in the station's discarded frames count too (R146; log entry 12). -/
def State.strayReply (s : State) (addr : Nat) (kind : Octet) (payload : List Octet) : State :=
  let s := s.countStray (segOf addr)
  if malformed kind payload then s.countDiscarded addr else s

/-- A reply on an entry that has been read, by the state in which it is taken (R146). -/
def State.takeReply (s : State) (addr : Nat) (kind : Octet) (payload : List Octet) : State :=
  let a := announcement kind payload
  match (s.station addr).state with
  | .absent => s.strayReply addr kind payload
  | .cutOff => s.strayReply addr kind payload
  | .unconfigured => ((s.clearMisses addr).noteReply addr a).startConfiguring addr
  | .silent => ((s.clearMisses addr).noteReply addr a).startConfiguring addr
  | .configuring =>
    let s := s.clearMisses addr
    if (s.station addr).awaiting then s.noteReply addr a
    else match a with
      | some a => s.failedAttempt addr a
      | none => s.enterService addr kind payload
  | .inService =>
    let s := s.clearMisses addr
    match a with
    | some a => s.stationRestart addr a
    | none => s.routeReply addr kind payload

/-- The reply of a closed window is applied to the Station Entry (R146). -/
def State.stationReply (s : State) (addr : Nat) (kind : Octet) (payload : List Octet) : State :=
  (s.readStation addr).takeReply addr kind payload

/-! ### Misses -/

/-- The errors a miss carries set the station's flags (R147). -/
def Station.flagErrors (e : Station) (check framing : Bool) : Station :=
  let e := if check then e.flag .check else e
  if framing then e.flag .framing else e

/-- A counted miss; the third makes the station SILENT (R147). -/
def State.countMiss (s : State) (addr : Nat) : State :=
  let e := s.station addr
  if e.misses + 1 < 3 then s.editStation addr fun e => { e with misses := e.misses + 1 }
  else
    ((s.leaveConfigure addr).editStation addr fun e =>
      { e with misses := 3, state := .silent, awaiting := false }).raise .stationSilent addr
      [e.state.code]

/-- A miss is applied to the Station Entry (R147). -/
def State.stationMiss (s : State) (addr : Nat) (check framing : Bool) : State :=
  let s := s.readStation addr
  match (s.station addr).state with
  | .absent => s
  | .cutOff => s
  | .silent => s.editStation addr fun e => e.flagErrors check framing
  | _ => (s.editStation addr fun e => e.flagErrors check framing).countMiss addr

/-! ### The reply window -/

/-- The window closes; a polling state of STOPPING at WINDOW becomes STOPPED (R145). -/
def State.shutWindow (s : State) (g : Seg) : State :=
  s.editSeg g fun x =>
    { x with window := none,
             polling := if x.polling = .stopping .window then .stopped else x.polling }

/-- The window closes as a reply (R131); a send turn becomes due once the reply has been acted on
(R135). -/
def State.closeReply (s : State) (g : Seg) (addr : Nat) (kind : Octet) (payload : List Octet) :
    State :=
  (((s.shutWindow g).stationReply addr kind payload).endEvent).turnDue g

/-- An open window closes as a miss, with the errors of its life (R131). -/
def State.closeMiss (s : State) (g : Seg) : State :=
  match (s.seg g).window with
  | none => s
  | some w =>
    (((s.shutWindow g).stationMiss w.addr w.checkError w.framingError).endEvent).turnDue g

/-- A frame has ended without being the window's reply: a window held open past its timeout closes as
a miss (R131). -/
def State.frameEnded (s : State) (g : Seg) : State :=
  match (s.seg g).window with
  | none => s
  | some w => if w.heldOpen then s.closeMiss g else s

/-- An error is handed to the open window, or discarded without a count (R130). -/
def State.handError (s : State) (g : Seg) (check framing : Bool) : State :=
  (s.editSeg g fun x =>
    { x with window := x.window.map fun w =>
        { w with checkError := w.checkError || check,
                 framingError := w.framingError || framing } }).frameEnded g

/-- A valid frame is the window's reply when its address is the polled station's, else stray
(R130, R131). -/
def State.handFrame (s : State) (g : Seg) (addr : Nat) (kind : Octet) (payload : List Octet) :
    State :=
  match (s.seg g).window with
  | none => s.countStray g
  | some w =>
    if addr = w.addr then s.closeReply g addr kind payload else (s.countStray g).frameEnded g

/-! ### The receiver -/

/-- The receiver's frame in progress, or none while it hunts (R129). -/
def State.setRx (s : State) (g : Seg) (rx : Option (List Octet)) : State :=
  s.editSeg g fun x => { x with rx := rx }

/-- A complete frame is valid when the check octets agree with its other octets (R128, R129). -/
def State.completeFrame (s : State) (g : Seg) (os : List Octet) : State :=
  let body := os.take (os.length - 2)
  if withCheck body = os then
    match body with
    | addr :: kind :: _ :: payload => s.handFrame g addr.toNat kind payload
    | _ => s
  else s.handError g true false

/-- A character with mark bit 0 and a good stop bit is added to the frame in progress; the length
octet is tested as it completes (R129). -/
def State.addOctet (s : State) (g : Seg) (os : List Octet) : State :=
  match os with
  | _ :: _ :: n :: rest =>
    if 24 < n.toNat then (s.setRx g none).handError g true false
    else if rest.length = n.toNat + 2 then (s.setRx g none).completeFrame g os
    else s.setRx g (some os)
  | _ => s.setRx g (some os)

/-- The receiver takes a character as it completes (R129). -/
def State.takeChar (s : State) (g : Seg) (c : SegChar) : State :=
  match (s.seg g).rx with
  | none => if c.mark && c.stopGood then s.setRx g (some [c.data]) else s
  | some os =>
    if !c.stopGood then (s.setRx g none).handError g false true
    else if c.mark then (s.setRx g (some [c.data])).frameEnded g
    else s.addOctet g (os ++ [c.data])

/-- The receiver assembles characters: the segment is UP, the controller is not transmitting, and the
line is not held at space (R127, R129). -/
def Segment.receiving (x : Segment) : Bool := x.state = .up && x.pollOut.isNone && !x.atSpace

/-- SEGMENT_FRAME_RECEIVED: the receiver takes the characters in turn (R129). -/
def execSegmentFrameReceived (g : Seg) (chars : List SegChar) (s : State) : Result State :=
  .next (chars.foldl (fun s c => if (s.seg g).receiving then s.takeChar g c else s) s)

/-- REPLY_TIMEOUT: the window closes as a miss, or is held open for a frame in progress (R131). -/
def execReplyTimeout (g : Seg) (s : State) : Result State :=
  .next (
    if (s.seg g).rx.isSome then
      s.editSeg g fun x => { x with window := x.window.map fun w => { w with heldOpen := true } }
    else s.closeMiss g)

/-- The character under way when the line falls to space ends with a framing error (R129). -/
def State.spoilFrame (s : State) (g : Seg) : State :=
  if (s.seg g).rx.isSome then (s.setRx g none).handError g false true else s

/-- LINE_LOW, once for each break of an UP segment that is not transmitting (R132). -/
def execLineLow (g : Seg) (s : State) : Result State :=
  .next (
    if (s.seg g).state = .up && (s.seg g).pollOut.isNone && !(s.seg g).lowMeasured then
      let s := s.spoilFrame g
      let s := s.editSeg g fun x =>
        { x with atSpace := true, lowMeasured := true, lineLow := true }
      (s.raise .lineLow (segCode g) []).closeMiss g
    else s)

/-- BREAK_OVER: the line of an UP segment is back at mark (R129, R132). -/
def execBreakOver (g : Seg) (s : State) : Result State :=
  .next (
    if (s.seg g).state = .up && (s.seg g).pollOut.isNone then
      (s.spoilFrame g).editSeg g fun x => { x with atSpace := false, lowMeasured := false }
    else s)

end Sys2Proof.Machine
end

