-- ==== Sys2Proof/Machine/Segments.lean ====
section
/-! DEFINITION. The segment controllers: going down and being restored, send turns with the poll
search, the opening of a reply window, and the requests SET SEGMENT and POLL CONTROL. -/

namespace Sys2Proof.Machine

/-! ### Going down and coming back -/

/-- A loaded station of a segment that goes DOWN (R151). -/
def Station.cut (e : Station) : Station :=
  if e.loaded then { e with state := .cutOff, misses := 0, attempts := 0, awaiting := false } else e

/-- A CUT OFF station of a segment that is restored (R151). -/
def Station.uncut (e : Station) : Station :=
  if e.state = .cutOff then { e with state := .unconfigured } else e

/-- A change of every station of a segment, in ascending address order (R151). -/
def State.editSegStations (s : State) (g : Seg) (f : Station → Station) : State :=
  (segAddrs g).foldl (fun s addr => s.editStation addr f) s

/-- A segment controller that goes DOWN (R133). -/
def Segment.goDown (x : Segment) : Segment :=
  { x with state := .down, answers := [], relays := [], cfgList := [], rx := none, window := none,
           turnDue := false, emptyWait := false }

/-- SEGMENT_DOWN: the 64 character times include the two of LINE LOW, measured from the same start
(R133; log entry 24). -/
def execSegmentDown (g : Seg) (s : State) : Result State :=
  .next (
    if (s.seg g).state = .up && (s.seg g).pollOut.isNone && (s.seg g).atSpace
        && (s.seg g).lowMeasured then
      ((s.editSeg g Segment.goDown).editSegStations g Station.cut).raise .segmentDown (segCode g) []
    else s)

/-- BUS_RESET_BREAK: the line of a DOWN segment has been at mark for 32 character times (R134). -/
def execBusResetBreak (g : Seg) (s : State) : Result State :=
  .next (
    if (s.seg g).state = .down then
      s.editSeg g fun x =>
        { x with state := .restoring, quietRestore := false, atSpace := false, lowMeasured := false }
    else s)

/-- BUS_RESET_BREAK_END: steps 3 to 6 of R134, without the notice for a break begun by a warm restart
of an UP segment (R141). -/
def execBusResetBreakEnd (g : Seg) (s : State) : Result State :=
  .next (
    if (s.seg g).state = .restoring then
      let quiet := (s.seg g).quietRestore
      let s := s.editSeg g fun x => { x with state := .up, quietRestore := false }
      let s := s.editSegStations g Station.uncut
      let s := if quiet then s else s.raise .segmentRestored (segCode g) []
      s.turnDue g
    else s)

/-! ### Send turns -/

/-- The level of ADE or BDE: the line driver is enabled for a bus-reset break and for a send turn, which
outlasts its event by the POLL at its end (R127, R134; log entry 4). -/
def Segment.driverEnabled (x : Segment) : Bool := x.state = .restoring || x.pollOut.isSome

/-- A frame is sent on the segment. -/
def State.send (s : State) (g : Seg) (frame : List SegChar) : State :=
  s.editSeg g fun x => { x with sent := x.sent ++ [frame] }

/-- The frame of an answer (R137, R70, R71). -/
def Answer.frame (a : Answer) : List SegChar :=
  match a.body with
  | .grant units available => stationFrame a.addr 0x83 ([a.slot, octet units] ++ be16s available)
  | .refuse r => stationFrame a.addr 0x84 [a.slot, r.code]

/-- The CONFIGURE frame, from the Station Entry as it stands (R148). -/
def configureFrame (addr : Nat) (e : Station) : List SegChar :=
  stationFrame addr 0x82 (octet e.count :: (be16 e.sampleInterval ++ be16 e.deadline))

/-- Step 1 of a turn: every answer, oldest first (R136). -/
def State.sendAnswers (s : State) (g : Seg) : State :=
  s.editSeg g fun x => { x with answers := [], sent := x.sent ++ x.answers.map Answer.frame }

/-- Step 2 of a turn: the oldest station of the configure list. A station whose entry read faults
leaves the list by its rebuild, and the next is taken (R136, R148, R156; log entry 25). -/
def State.sendConfigure (g : Seg) : List Nat → State → State
  | [], s => s
  | addr :: rest, s =>
    if (s.stationRow addr).bad then State.sendConfigure g rest (s.readStation addr)
    else
      let s := s.send g (configureFrame addr (s.station addr))
      (s.leaveConfigure addr).editStation addr fun e => { e with awaiting := false }

/-- Step 3 of a turn: the oldest relay frame (R136). -/
def State.sendRelay (s : State) (g : Seg) : State :=
  match (s.seg g).relays with
  | [] => s
  | r :: rest =>
    (s.editSeg g fun x => { x with relays := rest }).send g (stationFrame r.addr r.kind r.payload)

/-- A station in this state is polled in a cycle of the given count (R144). -/
def StationState.polled (st : StationState) (cycle : Nat) : Bool :=
  match st with
  | .unconfigured => true
  | .configuring => true
  | .inService => true
  | .silent => cycle % 8 = 0
  | .absent => false
  | .cutOff => false

/-- A station in this state can be polled in some cycle (R144). -/
def StationState.live (st : StationState) : Bool := st.polled 0

/-- The search among addresses for one to poll, each entry read in turn (R144, R156): the state as the
reads leave it, and the address found. -/
def State.search (cycle : Nat) : List Nat → State → State × Option Nat
  | [], s => (s, none)
  | addr :: rest, s =>
    let s := s.readStation addr
    if (s.station addr).state.polled cycle then (s, some addr) else State.search cycle rest s

/-- The search above the cycle position, in the cycle under way (R144). -/
def State.searchCycle (s : State) (g : Seg) : State × Option Nat :=
  State.search (s.seg g).cycleCount ((segAddrs g).filter fun a => (s.seg g).position < a) s

/-- Every entry of the segment is read, in ascending order, one the model chose (log entry 17). -/
def State.readSegment (s : State) (g : Seg) : State := (segAddrs g).foldl State.readStation s

/-- Some station of the segment can be polled in some cycle (R144, R145). -/
def State.anyLive (s : State) (g : Seg) : Bool :=
  (segAddrs g).any fun a => (s.station a).state.live

/-- A POLL is sent, and the cycle position becomes its address (R144). -/
def State.poll (s : State) (g : Seg) (addr : Nat) : State :=
  (s.editSeg g fun x => { x with position := addr, pollOut := some addr }).send g
    (stationFrame addr 0x81 [])

/-- The cycle count goes up by one, from 65535 to 0 (R144). -/
def nextCycle (n : Nat) : Nat := (n + 1) % 65536

/-- A polling state in STOPPING becomes STOPPED (R144, R145). -/
def PollState.settle (p : PollState) : PollState :=
  match p with
  | .stopping _ => .stopped
  | .running => .running
  | .stopped => .stopped

/-- The turn ends without a poll; STOPPING becomes STOPPED (R144). -/
def State.settlePolling (s : State) (g : Seg) : State :=
  s.editSeg g fun x => { x with polling := x.polling.settle }

/-- The current cycle has ended: the search is made once more in a new cycle while RUNNING (R144). A cycle
that begins after an empty one is counted so as well (log entry 32). -/
def State.newCycle (s : State) (g : Seg) : State :=
  let s := s.editSeg g fun x => { x with cycleCount := nextCycle x.cycleCount, position := 0 }
  if (s.seg g).polling = .running then
    match s.searchCycle g with
    | (s, some addr) => s.poll g addr
    | (s, none) => s.editSeg g fun x => { x with emptyWait := true }
  else s.settlePolling g

/-- Step 4 of a turn, when the polling state is RUNNING or STOPPING (R136, R144). -/
def State.pollStep (s : State) (g : Seg) : State :=
  if (s.seg g).polling = .stopped then s
  else
    match s.searchCycle g with
    | (s, some addr) => s.poll g addr
    | (s, none) =>
      let s := s.readSegment g
      if s.anyLive g then s.newCycle g else s.settlePolling g

/-- A turn that is due can begin: the segment is UP, the line at mark, and no turn in progress and no
window open (R135). -/
def Segment.turnReady (x : Segment) : Bool :=
  x.state = .up && x.turnDue && !x.atSpace && x.pollOut.isNone && x.window.isNone

/-- A whole send turn (R136). What falls due during the turn is merged into it (R135). -/
def State.sendTurn (s : State) (g : Seg) : State :=
  let s := s.editSeg g fun x => { x with sent := [], emptyWait := false }
  let s := s.sendAnswers g
  let s := State.sendConfigure g (s.seg g).cfgList s
  let s := (s.sendRelay g).pollStep g
  s.editSeg g fun x => { x with turnDue := false }

/-- SEND_TURN (R136). -/
def execSendTurn (g : Seg) (s : State) : Result State :=
  .next (if (s.seg g).turnReady then (s.sendTurn g).endEvent else s)

/-- REPLY_WINDOW_OPEN: the POLL on the line has been sent (R131). -/
def execReplyWindowOpen (g : Seg) (s : State) : Result State :=
  .next (
    match (s.seg g).pollOut with
    | none => s
    | some addr =>
      s.editSeg g fun x =>
        { x with pollOut := none,
                 window := some { addr := addr, timeout := x.replyTimeout, heldOpen := false,
                                  checkError := false, framingError := false } })

/-- EMPTY_CYCLE_END: the count goes up by one and a send turn becomes due (R144), which counts once more
where it finds no station: R144's steps, and not the pace its closing sentence gives (log entry 32). A
polling state of STOPPING becomes STOPPED with the cycle (R145; log entry 19). -/
def execEmptyCycleEnd (g : Seg) (s : State) : Result State :=
  .next (
    if (s.seg g).emptyWait then
      s.editSeg g fun x =>
        { x with emptyWait := false, cycleCount := nextCycle x.cycleCount, turnDue := true,
                 polling := x.polling.settle }
    else s)

/-! ### SET SEGMENT -/

/-- SET SEGMENT on fields within their ranges (R138, R139). -/
def State.setSegment (s : State) (g : Seg) (rate timeout : Nat) : Answered :=
  let x := s.seg g
  if x.polling = .stopped then
    accepted
      (s.editSeg g fun x =>
        { x with bitRate := rate, replyTimeout := timeout, lineLow := false, lowMeasured := false })
      (be16 rate ++ [octet timeout, x.state.code, x.polling.code, flagOctet x.lineLow] ++
        be16 x.stray)
  else refused s .busy

/-- SET SEGMENT's checks (R138). -/
def setSegmentRequest (args : List Octet) (s : State) : Answered :=
  match args with
  | [seg, rh, rl, timeout] =>
    match parseSeg seg with
    | none => refused s .range
    | some g =>
      let rate := u16 rh rl
      if (rate = 9600 || rate = 19200 || rate = 38400) && 5 ≤ timeout.toNat &&
          timeout.toNat ≤ 250 then s.setSegment g rate timeout.toNat
      else refused s .range
  | _ => wrongLength s

/-- SET_SEGMENT. -/
def execSetSegment (s : State) : Result State := .next (s.serve 0x05 anyArgs setSegmentRequest)

/-! ### POLL CONTROL -/

/-- What POLL CONTROL reports (R145). -/
def pollReport (x : Segment) : List Octet :=
  [x.state.code, x.polling.code] ++
    optional 1 (x.polling.stopPoint.map fun p => [p.code]) ++
    be16 x.cycleCount ++ [octet x.position] ++ be16 x.stray ++
    [octet x.answers.length, octet x.relays.length, octet x.cfgList.length]

/-- POLL CONTROL with an action that has the given effect (R145). -/
def pollControlRequest (act : Seg → State → State) (args : List Octet) (s : State) : Answered :=
  match args with
  | [seg, action] =>
    match parseSeg seg with
    | none => refused s .range
    | some g =>
      if action.toNat ≤ 3 then
        let s := (act g s).endEvent
        accepted s (pollReport (s.seg g))
      else refused s .range
  | _ => wrongLength s

/-- A window is open, or its POLL is on the line (log entry 9). -/
def Segment.awaitsReply (x : Segment) : Bool := x.window.isSome || x.pollOut.isSome

/-- STOP NOW (R145). -/
def Segment.stopNow (x : Segment) : Segment :=
  if x.polling = .stopped then x
  else if x.awaitsReply then { x with polling := .stopping .window }
  else { x with polling := .stopped }

/-- STOP AFTER CYCLE from RUNNING (R145). -/
def State.stopAfterCycle (g : Seg) (s : State) : State :=
  if (s.seg g).polling = .running then
    let s := s.readSegment g
    if (s.seg g).awaitsReply || s.anyLive g then
      s.editSeg g fun x => { x with polling := .stopping .cycle }
    else s.editSeg g fun x => { x with polling := .stopped }
  else s

/-- START (R145). -/
def State.startPolling (g : Seg) (s : State) : State :=
  if (s.seg g).polling = .running then s
  else (s.editSeg g fun x => { x with polling := .running }).turnDueIfIdle g

/-- POLL_CONTROL_NONE. -/
def execPollControlNone (s : State) : Result State :=
  .next (s.serve 0x06 (actionIs 0 3) (pollControlRequest fun _ s => s))

/-- POLL_CONTROL_STOP_NOW. -/
def execPollControlStopNow (s : State) : Result State :=
  .next (s.serve 0x06 (actionIs 1 3) (pollControlRequest fun g s => s.editSeg g Segment.stopNow))

/-- POLL_CONTROL_STOP_AFTER_CYCLE. -/
def execPollControlStopAfterCycle (s : State) : Result State :=
  .next (s.serve 0x06 (actionIs 2 3) (pollControlRequest State.stopAfterCycle))

/-- POLL_CONTROL_START. -/
def execPollControlStart (s : State) : Result State :=
  .next (s.serve 0x06 (actionIs 3 3) (pollControlRequest State.startPolling))

end Sys2Proof.Machine
end

