-- ==== Sys2Proof/Machine/Resets.lean ====
section
/-! DEFINITION. COLD_RESET and RESTART: every block as its chapter gives (R17, R18, R58, R59, R83, R90,
R91, R111, R112, R126, R140, R141, R157, R172, R173, R180). -/

namespace Sys2Proof.Machine

/-- COLD_RESET with LRATE as it is read when the reset ends (R17, R158). -/
def execColdReset (lrateHigh : Bool) (s : State) : Result State :=
  .next { State.cold lrateHigh with pending := s.pending }

/-! ### Tables -/

/-- A change of every row, which leaves an unlisted row as it is; the parity marks stay. -/
def Table.mapRows {α : Type} [DecidableEq α] (d : Row α) (f : α → α) (t : Table (Row α)) :
    Table (Row α) :=
  (t.map fun p => (p.1, ({ data := f p.2.data, bad := p.2.bad } : Row α))).filter fun p => p.2 != d

/-- A container after a warm restart (R18, R126). -/
def Container.restart (c : Container) : Container :=
  let c := { c with hasPending := false, assignment := none }
  if c.service = .lifting || c.service = .stalled then
    { c with service := .inService, liftTimer := none, liftStage := .none, estimate := none,
             fill := .none, suspect := none }
  else c

/-- A card row after a warm restart (R59). It is written unread, a faulty one without its repair (log entry
30). -/
def CardRow.restart (c : CardRow) : CardRow := { c with reserved := 0 }

/-- A station after a warm restart, on a segment that is DOWN or not (R157). -/
def Station.restart (down : Bool) (e : Station) : Station :=
  if e.loaded then
    { e with state := if down then .cutOff else .unconfigured, misses := 0, attempts := 0,
             awaiting := false, errors := 0, lateAnswers := 0, discarded := 0 }
  else e

/-- The stations of a segment after a warm restart (R157). -/
def State.restartStations (s : State) (g : Seg) : State :=
  s.editSegStations g (Station.restart ((s.seg g).state = .down))

/-! ### Segments -/

/-- A segment after a warm restart (R141; log entry 26). -/
def Segment.restart (x : Segment) : Segment :=
  let x := { x with answers := [], relays := [], cfgList := [], rx := none, window := none,
                    turnDue := false, pollOut := none, emptyWait := false }
  match x.state with
  | .up => { x with state := .restoring, quietRestore := true, atSpace := false, lowMeasured := false }
  | .down => x
  | .restoring => { x with quietRestore := false }

/-! ### The Dispatch Unit -/

/-- The ring is given up and the list emptied (R112). -/
def State.clearRing (s : State) : State :=
  State.editDispatch { s with tickets := [] } fun x =>
    { x with list := [], fillIndex := 0, dispatchIndex := 0, passDue := false }

/-- The list is rebuilt in row order (R112). -/
def State.rebuildList (s : State) : State :=
  (List.range 256).foldl (fun s row => if (s.container row).eligible then s.joinList row else s) s

/-- The number of slots that are not FREE (R172). -/
def State.heldSlots (s : State) : Nat :=
  (List.range 16).countP fun n => (s.ticket n).state != .free

/-! ### The link and the notices -/

/-- The Link Controller's part (R172). -/
def State.restartLink (s : State) : State :=
  (s.editLink fun l =>
    { l with requests := [], relays := [],
             counters.overflow := min (l.counters.overflow + l.requests.length) 65535 }).restartSupervision

/-- The Notice Queue is emptied, and WARM START joins it (R180). -/
def State.restartNotices (s : State) (released : Nat) : State :=
  (s.editNotices fun u =>
    { u with queue := [], coalescing := none, intervalEnded := false }).raise .warmStart 0
    [octet released]

/-! ### The restart -/

/-- Every block but the Notice Unit restarts: the deposits are released without notices and without a read
of their Card Rows (log entry 30), tables are kept, and work in flight is dropped (R18, R59, R83, R112,
R141, R157, R172). -/
def State.restartBlocks (s : State) : State :=
  let s := { s with
    deposits := [],
    cards := Table.mapRows (Row.good CardRow.cold) CardRow.restart s.cards,
    containers := Table.mapRows (Row.good Container.unloaded) Container.restart s.containers }
  let s := (s.restartStations .a).restartStations .b
  let s := (s.editSeg .a Segment.restart).editSeg .b Segment.restart
  s.clearRing.rebuildList.restartLink

/-- A warm restart as one request (R172, R180). -/
def restartRequest (args : List Octet) (s : State) : Answered :=
  match args with
  | [] =>
    let released := s.deposits.length
    accepted (s.restartBlocks.restartNotices released)
      (be32 s.seconds ++ [octet released, octet s.heldSlots])
  | _ => wrongLength s

/-- RESTART (R172). -/
def execRestart (s : State) : Result State := .next (s.serve 0x56 anyArgs restartRequest)

end Sys2Proof.Machine
end

