-- ==== Sys2Proof/Machine/Stations.lean ====
section
/-! DEFINITION. The requests on Station Entries: LOAD STATION, REMOVE STATION, READ STATION and CLEAR
STATION ERRORS (R142, R143, R155). -/

namespace Sys2Proof.Machine

/-- An octet within a station's addresses, 1 to 64. -/
def isStation (addr : Nat) : Bool := 1 ≤ addr && addr ≤ 64

/-- The number of loaded containers of a station. -/
def State.loadedContainers (s : State) (addr : Nat) : Nat :=
  (stationRows addr).countP fun row => (s.container row).loaded

/-! ### LOAD STATION -/

/-- A slot at or beyond the count holds a loaded container (R142). -/
def State.loadedBeyond (s : State) (addr count : Nat) : Bool :=
  (stationRows addr).any fun row => (s.container row).loaded && count ≤ rowSlot row

/-- The entry as LOAD STATION leaves it (R142). -/
def Station.load (e : Station) (down : Bool) (count interval deadline : Nat) : Station :=
  let kept := if e.loaded then e else Station.cold
  { kept with loaded := true, count := count, sampleInterval := interval, deadline := deadline,
              state := if down then .cutOff else .unconfigured,
              misses := 0, attempts := 0, awaiting := false }

/-- LOAD STATION on an entry that has been read (R142). -/
def State.loadStation (s : State) (addr count interval deadline : Nat) : Answered :=
  if (s.station addr).loaded && s.loadedBeyond addr count then refused s .state
  else
    let g := segOf addr
    let down := (s.seg g).state = .down
    let s := s.leaveConfigure addr
    let e := (s.station addr).load down count interval deadline
    let s := s.putStation addr (Row.good e)
    let s := if down then s else s.turnDueIfIdle g
    accepted s [octet addr, e.state.code]

/-- LOAD STATION's range checks (R142). -/
def loadStationRequest (args : List Octet) (s : State) : Answered :=
  match args with
  | [addr, count, ih, il, dh, dl] =>
    let interval := u16 ih il
    let deadline := u16 dh dl
    if isStation addr.toNat && 1 ≤ count.toNat && count.toNat ≤ 4 && 60 ≤ interval &&
        interval ≤ 3600 && 500 ≤ deadline && deadline ≤ 5000 then
      (s.readStation addr.toNat).loadStation addr.toNat count.toNat interval deadline
    else refused s .range
  | _ => wrongLength s

/-- LOAD_STATION. A Station Entry read can unload containers, so a pass may be due (R156, R99). -/
def execLoadStation (s : State) : Result State :=
  .next (s.serve 0x01 anyArgs loadStationRequest).endEvent

/-! ### REMOVE STATION -/

/-- REMOVE STATION on an entry that has been read (R143). -/
def State.removeStation (s : State) (addr : Nat) : Answered :=
  if (s.station addr).loaded then
    let n := s.loadedContainers addr
    let s := ((s.unloadStation addr).leaveConfigure addr).putStation addr (Row.good Station.cold)
    accepted s [octet n]
  else accepted s [0]

def removeStationRequest (args : List Octet) (s : State) : Answered :=
  match args with
  | [addr] =>
    if isStation addr.toNat then (s.readStation addr.toNat).removeStation addr.toNat
    else refused s .range
  | _ => wrongLength s

/-- REMOVE_STATION (R143). -/
def execRemoveStation (s : State) : Result State :=
  .next (s.serve 0x02 anyArgs removeStationRequest).endEvent

/-! ### READ STATION -/

/-- What READ STATION carries for a loaded entry (R155). -/
def State.stationReport (s : State) (addr : Nat) : List Octet :=
  let e := s.station addr
  [octet e.count] ++ be16 e.sampleInterval ++ be16 e.deadline ++
    [e.state.code, octet e.misses, octet e.attempts, yesNo e.awaiting] ++
    optional 2 (e.lastAnnounce.map fun a => [a.model, a.count]) ++
    [e.errors] ++ be16 e.lateAnswers ++ be16 e.discarded ++
    [octet (s.loadedContainers addr),
      octet (s.deposits.countP fun d => rowStation d.row = addr)]

/-- READ STATION on an entry that has been read (R155). -/
def State.reportStation (s : State) (addr : Nat) : Answered :=
  if (s.station addr).loaded then
    accepted s ([octet addr, yesNo true] ++ s.stationReport addr)
  else accepted s [octet addr, yesNo false, StationState.absent.code]

def readStationRequest (args : List Octet) (s : State) : Answered :=
  match args with
  | [addr] =>
    if isStation addr.toNat then (s.readStation addr.toNat).reportStation addr.toNat
    else refused s .range
  | _ => wrongLength s

/-- READ_STATION (R155). -/
def execReadStation (s : State) : Result State :=
  .next (s.serve 0x03 anyArgs readStationRequest).endEvent

/-! ### CLEAR STATION ERRORS -/

/-- CLEAR STATION ERRORS on an entry that has been read (R155). -/
def State.clearStationErrors (s : State) (addr : Nat) (named : Octet) (counts : Bool) : Answered :=
  let e := s.station addr
  if e.loaded then
    let flags := setClear e.errors named
    let s := s.editStation addr fun e =>
      { e with errors := flags,
               lateAnswers := if counts then 0 else e.lateAnswers,
               discarded := if counts then 0 else e.discarded }
    accepted s (flags :: (be16 e.lateAnswers ++ be16 e.discarded))
  else refused s .state

def clearStationErrorsRequest (args : List Octet) (s : State) : Answered :=
  match args with
  | [addr, named, counts] =>
    match parseYesNo counts with
    | none => refused s .range
    | some counts =>
      if isStation addr.toNat then
        (s.readStation addr.toNat).clearStationErrors addr.toNat named counts
      else refused s .range
  | _ => wrongLength s

/-- CLEAR_STATION_ERRORS (R155). -/
def execClearStationErrors (s : State) : Result State :=
  .next (s.serve 0x04 anyArgs clearStationErrorsRequest).endEvent

end Sys2Proof.Machine
end

