-- ==== Sys2Proof/Machine/Dispatch.lean ====
section
/-! DEFINITION. The one place where a command meets its meaning. -/

namespace Sys2Proof.Machine

def exec (i : Instr) (s : State) : Host.Outcome State Fault Refusal :=
  match i with
  | .coldReset lrateHigh => Sys2Proof.Machine.execColdReset lrateHigh s
  | .secondsCountAdvance upsets => Sys2Proof.Machine.execSecondsCountAdvance upsets s
  | .pendingExpiry => Sys2Proof.Machine.execPendingExpiry s
  | .firstLiftExpiry row => Sys2Proof.Machine.execFirstLiftExpiry row s
  | .secondLiftExpiry row => Sys2Proof.Machine.execSecondLiftExpiry row s
  | .holdExpiry => Sys2Proof.Machine.execHoldExpiry s
  | .supervisionExpiry => Sys2Proof.Machine.execSupervisionExpiry s
  | .coalescingExpiry => Sys2Proof.Machine.execCoalescingExpiry s
  | .downlinkFrameReceived chars => Sys2Proof.Machine.execDownlinkFrameReceived chars s
  | .uplinkSend => Sys2Proof.Machine.execUplinkSend s
  | .unknownRequest => Sys2Proof.Machine.execUnknownRequest s
  | .loadStation => Sys2Proof.Machine.execLoadStation s
  | .removeStation => Sys2Proof.Machine.execRemoveStation s
  | .readStation => Sys2Proof.Machine.execReadStation s
  | .clearStationErrors => Sys2Proof.Machine.execClearStationErrors s
  | .setSegment => Sys2Proof.Machine.execSetSegment s
  | .pollControlNone => Sys2Proof.Machine.execPollControlNone s
  | .pollControlStopNow => Sys2Proof.Machine.execPollControlStopNow s
  | .pollControlStopAfterCycle => Sys2Proof.Machine.execPollControlStopAfterCycle s
  | .pollControlStart => Sys2Proof.Machine.execPollControlStart s
  | .loadStreamLoad => Sys2Proof.Machine.execLoadStreamLoad s
  | .loadStreamUnload => Sys2Proof.Machine.execLoadStreamUnload s
  | .loadContainerLoad => Sys2Proof.Machine.execLoadContainerLoad s
  | .loadContainerUnload => Sys2Proof.Machine.execLoadContainerUnload s
  | .setContainerServiceOut => Sys2Proof.Machine.execSetContainerServiceOut s
  | .setContainerServiceIn => Sys2Proof.Machine.execSetContainerServiceIn s
  | .readContainer => Sys2Proof.Machine.execReadContainer s
  | .clearContainerFlags => Sys2Proof.Machine.execClearContainerFlags s
  | .loadSeries => Sys2Proof.Machine.execLoadSeries s
  | .loadWindow => Sys2Proof.Machine.execLoadWindow s
  | .loadCards => Sys2Proof.Machine.execLoadCards s
  | .adjustBalance => Sys2Proof.Machine.execAdjustBalance s
  | .readCard => Sys2Proof.Machine.execReadCard s
  | .giveTicket => Sys2Proof.Machine.execGiveTicket s
  | .recallTicket => Sys2Proof.Machine.execRecallTicket s
  | .retireTicket => Sys2Proof.Machine.execRetireTicket s
  | .readTicket => Sys2Proof.Machine.execReadTicket s
  | .readJournal => Sys2Proof.Machine.execReadJournal s
  | .releaseJournal => Sys2Proof.Machine.execReleaseJournal s
  | .loadKind => Sys2Proof.Machine.execLoadKind s
  | .setUnknownRoute => Sys2Proof.Machine.execSetUnknownRoute s
  | .setClock => Sys2Proof.Machine.execSetClock s
  | .setParameters => Sys2Proof.Machine.execSetParameters s
  | .readStatus => Sys2Proof.Machine.execReadStatus s
  | .readFaultCapture => Sys2Proof.Machine.execReadFaultCapture s
  | .restart => Sys2Proof.Machine.execRestart s
  | .segmentFrameReceived seg chars => Sys2Proof.Machine.execSegmentFrameReceived seg chars s
  | .replyTimeout seg => Sys2Proof.Machine.execReplyTimeout seg s
  | .lineLow seg => Sys2Proof.Machine.execLineLow seg s
  | .segmentDown seg => Sys2Proof.Machine.execSegmentDown seg s
  | .busResetBreak seg => Sys2Proof.Machine.execBusResetBreak seg s
  | .busResetBreakEnd seg => Sys2Proof.Machine.execBusResetBreakEnd seg s
  | .sendTurn seg => Sys2Proof.Machine.execSendTurn seg s
  | .replyWindowOpen seg => Sys2Proof.Machine.execReplyWindowOpen seg s
  | .emptyCycleEnd seg => Sys2Proof.Machine.execEmptyCycleEnd seg s
  | .breakOver seg => Sys2Proof.Machine.execBreakOver seg s

end Sys2Proof.Machine
end

