-- ==== Sys2Proof/Safety.lean ====
section
/-! DEFINITION. What a statement about the part is made of: that a step does not stop, the laws every step
keeps, and the words in which the obligations speak of requests, replies and lines. -/

namespace Sys2Proof.Machine

/-- The step goes on to a next state: it neither faults nor refuses. -/
def State.progresses (s : State) : Bool :=
  match step s with
  | .next _ => true
  | .fault _ => false
  | .refused _ => false

/-! ### The laws -/

/-- Every table is in its canonical form. -/
def State.tablesCanonical (s : State) : Bool :=
  Table.wf (Row.good Station.cold) s.stations && Table.wf (Row.good Container.unloaded) s.containers &&
    Table.wf (Row.good StreamEntry.cold) s.streams && Table.wf (Row.good SeriesEntry.cold) s.series &&
    Table.wf (Row.good CardRow.cold) s.cards && Table.wf (Row.good 0) s.kinds &&
    Table.wf Ticket.free s.tickets

/-- The queues stay within the sizes of R175, R160, R153 and R154. -/
def State.queuesBounded (s : State) : Bool :=
  s.notices.queue.length ≤ 64 && s.link.requests.length ≤ 4 && s.link.relays.length ≤ 16 &&
    s.segA.relays.length ≤ 8 && s.segB.relays.length ≤ 8

/-- The laws of the Pending Deposit list: at most 32 deposits and one for a container (R73); room in the
Journal for every charged one (R68); and the reserved units of every Card Row of good parity are
those of its deposits (R46). -/
def State.depositLaw (s : State) : Prop :=
  s.deposits.length ≤ 32 ∧ (s.deposits.map (·.row)).Nodup ∧
    s.journal.records.length + chargedPending s.deposits ≤ 1024 ∧
    ∀ row, (s.cardRow row).bad = false → (s.card row).reserved = unitsNaming s.deposits row

/-- The law of the Journal: the records that read good carry consecutive sequence numbers, the newest that of
the counter (R84, R85), and there are 1024 slots. -/
def State.journalLaw (s : State) : Prop :=
  s.journal.nextSlot < 1024 ∧
    ∀ i r, s.journal.records[i]? = some r → r.bad = false →
      r.data.seq = s.journal.counter - BitVec.ofNat 32 (s.journal.records.length - 1 - i)

/-- The law of the indices: RUNNING, or SUSPENDED with the dispatch index at the fill index (R97); and
no pass is left due between events (R99). -/
def State.ringLaw (s : State) : Prop :=
  s.dispatch.fillIndex < 16 ∧ s.dispatch.dispatchIndex < 16 ∧ s.dispatch.passDue = false ∧
    (s.running = true ∨ s.dispatch.dispatchIndex = s.dispatch.fillIndex)

/-- The volumes of a ticket's stops and its remaining capacity make its capacity, and its stops are at
most its maximum (R100). -/
def Ticket.capacityLaw (t : Ticket) : Prop :=
  t.state ≠ .free →
    (t.stops.map (·.volume)).sum + t.remaining = t.capacity ∧ t.stops.length ≤ t.maxStops

/-- The capacity law holds of every slot. -/
def State.capacityLaw (s : State) : Prop := ∀ slot, (s.ticket slot).capacityLaw

/-- A reply window, or a POLL on the line, only while UP and not both; none of them while STOPPED
(R145) or while an empty cycle is waited out. -/
def Segment.pollLaw (x : Segment) : Bool :=
  (x.window.isNone || (x.state = .up && x.pollOut.isNone)) && (x.pollOut.isNone || x.state = .up) &&
    (x.polling != .stopped || (x.window.isNone && x.pollOut.isNone)) &&
    (!x.emptyWait || (x.window.isNone && x.pollOut.isNone))

/-- The poll law holds of both segments. -/
def State.pollLaw (s : State) : Bool := s.segA.pollLaw && s.segB.pollLaw

/-- The law of the stations, of entries that read good: a station awaits a CONFIGURE exactly while it is on
its segment's configure list (R148), and is then CONFIGURING; it is IN SERVICE only, and CUT OFF
never, while the segment is UP (R151); and it is ABSENT exactly while not loaded. A segment lists,
polls and hears only stations of its own. -/
def State.stationLaw (s : State) : Prop :=
  (∀ g, (s.seg g).cfgList.Nodup ∧ (∀ a ∈ (s.seg g).cfgList, a ∈ segAddrs g) ∧
    (∀ w, (s.seg g).window = some w → w.addr ∈ segAddrs g) ∧
    ∀ a, (s.seg g).pollOut = some a → a ∈ segAddrs g) ∧
  ∀ addr, 1 ≤ addr → addr ≤ 64 → (s.stationRow addr).bad = false →
    ((s.station addr).awaiting = true ↔ addr ∈ (s.seg (segOf addr)).cfgList) ∧
    ((s.station addr).awaiting = true → (s.station addr).state = .configuring) ∧
    ((s.station addr).state = .inService → (s.seg (segOf addr)).state = .up) ∧
    ((s.station addr).state = .cutOff → (s.seg (segOf addr)).state ≠ .up) ∧
    ((s.station addr).state = .absent ↔ (s.station addr).loaded = false)

/-- The law of a container: its estimate, when present, lies within 0–10000, and its fill state is NONE
exactly while it is absent (R37), with no suspect record then; OUT OF SERVICE it has none (R11); and
its service state, lift timer and lift stage stand in one of R113's four combinations. -/
def Container.law (c : Container) : Prop :=
  (∀ e, c.estimate = some e → e ≤ 10000) ∧ (c.fill = .none ↔ c.estimate = none) ∧
    (c.estimate = none → c.suspect = none) ∧ (c.service = .outOfService → c.estimate = none) ∧
    (c.liftTimer.isSome = true ↔ c.service = .lifting ∨ c.service = .stalled) ∧
    (c.liftStage = .first ↔ c.service = .lifting) ∧ (c.liftStage = .second ↔ c.service = .stalled)

/-- The law of a container holds of every entry that reads good. -/
def State.containerLaw (s : State) : Prop :=
  ∀ row, (s.containerRow row).bad = false → (s.container row).law

/-- A ticket holds a row as a PLANNED stop while it is OPEN or HANDED (R96). -/
def Ticket.plans (t : Ticket) (row : Nat) : Prop :=
  (t.state = .opened ∨ t.state = .handed) ∧ ∃ p ∈ t.stops, p.row = row ∧ p.status = .planned

/-- The laws of the Dispatch Unit: a container that reads good is in the Emptying Request list, and then
once, precisely when it meets the conditions of R92; it is assigned to a slot exactly when that slot's
ticket holds it as a PLANNED stop, and no row is PLANNED twice (R96). An unloaded row that reads good has no
assignment (R17), and so is no PLANNED stop. There are 256 rows. -/
def State.dispatchLaw (s : State) : Prop :=
  (∀ row, 256 ≤ row → s.containerRow row = Row.good Container.unloaded) ∧
  s.dispatch.list.Nodup ∧
  (∀ row, (s.containerRow row).bad = false →
    (row ∈ s.dispatch.list ↔ (s.container row).eligible = true) ∧
    ((s.container row).loaded = false → (s.container row).assignment = none) ∧
    ∀ n, (s.container row).assignment = some n ↔ n < 16 ∧ (s.ticket n).plans row) ∧
  (∀ n row, n < 16 → (s.ticket n).plans row →
    ((s.ticket n).stops.countP fun p => p.row = row && p.isPlanned) = 1) ∧
  ∀ m n row, m < 16 → n < 16 → (s.ticket m).plans row → (s.ticket n).plans row → m = n

/-! ### Requests and replies -/

/-- The Management Unit is carrying out a request with this tag and body (R162). -/
abbrev State.Carries (s : State) (tag : Octet) (body : List Octet) : Prop :=
  s.mgmt.taken = some { tag := tag, body := body }

/-- The state once that request is answered: its REPLY is held, and nothing else has changed (R162). -/
def State.replied (s : State) (tag code : Octet) (result : ResultCode) (data : List Octet) : State :=
  s.editMgmt fun m =>
    { m with taken := none,
             reply := some { tag := tag, code := code, result := result, data := data } }

/-- No event is under way: no pass is due. -/
abbrev State.Settled (s : State) : Prop := s.dispatch.passDue = false

/-! ### Lines -/

/-- Octets received on LRX without a framing error. -/
def linkChars (os : List Octet) : List LinkChar := os.map fun o => { data := o, stopGood := true }

/-- A segment in whose open window a station's reply is awaited, with the receiver hunting (R129,
R131). -/
abbrev State.Awaits (s : State) (g : Seg) (addr : Nat) : Prop :=
  (s.seg g).state = .up ∧ (s.seg g).pollOut = none ∧ (s.seg g).atSpace = false ∧
    (s.seg g).rx = none ∧ ∃ w, (s.seg g).window = some w ∧ w.addr = addr

/-- A segment after its window has closed: STOPPING at WINDOW has become STOPPED, and a send turn is
due (R131, R135, R145). -/
def Segment.closed (x : Segment) : Segment :=
  { x with window := none, turnDue := true,
           polling := if x.polling = .stopping .window then .stopped else x.polling }

/-- A station IN SERVICE whose entry reads good, whose reply is awaited in its segment's open window
(R131, R146). -/
abbrev State.Serving (s : State) (addr : Nat) : Prop :=
  1 ≤ addr ∧ addr ≤ 64 ∧ s.Settled ∧ s.Awaits (segOf addr) addr ∧
    (s.stationRow addr).bad = false ∧ (s.station addr).state = .inService

/-- That state once the reply has been taken, before it is acted on: the window is closed, a send turn
will be due, and the misses are 0 (R131, R135, R146). -/
def State.heard (s : State) (addr : Nat) : State :=
  (s.editSeg (segOf addr) Segment.closed).editStation addr fun e => { e with misses := 0 }

/-- The reason of the first check that fails (The Order of the Checks). -/
def firstReason (checks : List (Bool × RefuseReason)) : Option RefuseReason :=
  (checks.find? (·.1)).map (·.2)

/-- The entry by which a card number is resolved: the series', or the Visitor Window, which is always
valid and never barred (R39, R40). -/
def State.seriesOf (s : State) (card : CardNumber) : SeriesEntry :=
  if cardSeries card = 255 then
    { valid := true, barred := false, onlineOnly := s.window.data.onlineOnly,
      base := s.window.data.base, span := s.window.data.span }
  else (s.seriesRow (cardSeries card)).data

/-- The state after a quiet release of a deposit whose card row reads good and holds its units: the
list is shorter, the units are returned, and the container's reference is cleared (R81, R48). -/
def State.returned (s : State) (d : Deposit) : State :=
  ((s.removeDeposit d.row).writeCard d.cardRow
      { s.card d.cardRow with reserved := (s.card d.cardRow).reserved - d.units }).editContainer d.row
    fun c => { c with hasPending := false }

/-- A deposit held for its row, whose card row reads good and holds its units (R46). -/
abbrev State.Holds (s : State) (d : Deposit) : Prop :=
  s.depositAt d.row = some d ∧ (s.cardRow d.cardRow).bad = false ∧
    d.units ≤ (s.card d.cardRow).reserved

/-- What the unload of a station's containers makes of a state (R10, R81, R105). Each container that is
loaded, or whose entry reads faulty (log entry 13), has its row cleared to the unloaded values and leaves
the Emptying Request list; every deposit at the station is released, its units returned to its Card Row,
which is rebuilt first where it reads faulty (R57); and each PLANNED stop of such a container is
SKIPPED, a HANDED ticket left with none becoming COMPLETE with TICKET COMPLETE, in row order. The laws
every step keeps are premises where they are needed. Where a Card Row reads faulty the order of the notices,
which log entry 28 settles, is not stated. -/
def State.UnloadsStation (s : State) (a : Nat) (t : State) : Prop :=
  let gone (row : Nat) : Bool :=
    row / 4 + 1 = a && ((s.container row).loaded || (s.containerRow row).bad)
  let held := s.deposits.filter fun d => d.row / 4 + 1 = a
  let left := s.deposits.filter fun d => d.row / 4 + 1 ≠ a
  let skips (p : Stop) : Stop :=
    if gone p.row && p.status = .planned then { p with status := .skipped, mass := none } else p
  let after (k : Ticket) : Ticket :=
    { k with stops := k.stops.map skips,
             state := if k.state = .handed ∧
                 (∃ p ∈ k.stops, gone p.row = true ∧ p.status = .planned) ∧
                 ∀ p ∈ k.stops.map skips, p.status ≠ .planned then .complete
               else k.state }
  let lastOf (k : Ticket) (row : Nat) : Bool :=
    k.state = .handed && gone row && (k.stops.any fun p => p.row = row && p.status = .planned) &&
      k.stops.all fun p => p.status != .planned || (gone p.row && p.row ≤ row)
  let completes (u : State) (row n : Nat) : State :=
    if lastOf (s.ticket n) row then
      u.raise .ticketComplete n (be16 (s.ticket n).number ++
        [octet ((after (s.ticket n)).stops.countP fun p => p.status = .done),
          octet ((after (s.ticket n)).stops.countP fun p => p.status = .skipped)])
    else u
  let rebuilt (row : Nat) : CardRow :=
    let c := s.card row
    if (s.cardRow row).bad then
      { c with state := .blocked, balance := max (-255) c.balance,
               clamped := c.clamped || c.balance < -255 }
    else c
  (∀ row, gone row = true → t.containerRow row = { data := Container.unloaded, bad := false }) ∧
  (∀ row, row / 4 + 1 ≠ a → t.containerRow row = s.containerRow row) ∧
  (∀ row, gone row = false → s.depositAt row = none → t.containerRow row = s.containerRow row) ∧
  t.dispatch = { s.dispatch with list := s.dispatch.list.filter fun row => !gone row } ∧
  (s.depositLaw → t.deposits = left ∧
    ∀ row, t.cardRow row =
      if held.any (fun d => d.cardRow = row) then
        { data := { rebuilt row with reserved := unitsNaming left row }, bad := false }
      else s.cardRow row) ∧
  (s.dispatchLaw →
    (∀ n, t.ticket n =
      if n < 16 ∧ ((s.ticket n).state = .opened ∨ (s.ticket n).state = .handed) then
        after (s.ticket n)
      else s.ticket n) ∧
    ((∀ d ∈ held, (s.cardRow d.cardRow).bad = false) →
      t.notices = ((List.range 4).foldl (fun u slot =>
        (List.range 16).foldl (fun u n => completes u (rowOf a slot) n) u) s).notices)) ∧
  ((∀ d ∈ held, (s.cardRow d.cardRow).bad = false) → t.capture = s.capture) ∧
  { t with containers := s.containers, deposits := s.deposits, cards := s.cards,
           tickets := s.tickets, dispatch := s.dispatch, notices := s.notices,
           capture := s.capture } = s

end Sys2Proof.Machine
end

