-- ==== Sys2Proof/Certificates/Slice0/Obligations.lean ====
section
/-! DEFINITION. The statements for the provers. Requests are stated for the body the Management Unit has
taken; the layouts of replies are the model's (log entry 8), the codes and orders the spec's. -/

open Sys2Proof Sys2Proof.Machine

/-! ### The step, the resets and the laws -/

/-- A step takes the command at the front of the queue and carries it out with the rest of the queue;
with nothing waiting the part idles (log entry 2). -/
def Obligations.StepCarriesOutFrontCommand : Prop :=
  (∀ (c : Instr) (rest : List Instr) (s : State), s.pending = c :: rest →
    step s = exec c { s with pending := rest }) ∧
  ∀ s : State, s.pending = [] → step s = .next s

/-- Every law that a step keeps holds right after reset; the values that no rule gives are log entries 5,
20 and 33's. -/
def Obligations.LawsHoldAtReset : Prop :=
  State.reset.tablesCanonical = true ∧ State.reset.queuesBounded = true ∧
    State.reset.depositLaw ∧ State.reset.ringLaw ∧ State.reset.capacityLaw ∧
    State.reset.pollLaw = true ∧ State.reset.stationLaw ∧ State.reset.containerLaw ∧
    State.reset.dispatchLaw ∧ State.reset.journalLaw

/-- Every step keeps the seven tables in their canonical form. -/
def Obligations.StepKeepsTablesCanonical : Prop :=
  ∀ s t : State, s.tablesCanonical = true → step s = .next t → t.tablesCanonical = true

/-- Every step keeps the Notice Queue within 64 notices (R175), and the request queue and the relay
queues within their sizes. -/
def Obligations.StepKeepsQueuesBounded : Prop :=
  ∀ s t : State, s.queuesBounded = true → step s = .next t → t.queuesBounded = true

/-- Every step keeps the laws of the Pending Deposit list (R46, R68, R73), and the law of the Journal: the
records that read good carry consecutive sequence numbers up to the counter (R84, R85). -/
def Obligations.StepKeepsDepositLaw : Prop :=
  (∀ s t : State, s.depositLaw → step s = .next t → t.depositLaw) ∧
  ∀ s t : State, s.journalLaw → step s = .next t → t.journalLaw

/-- Every step keeps the dispatch RUNNING, or SUSPENDED with the dispatch index at the fill index (R97),
and leaves no pass due (R99). -/
def Obligations.StepKeepsRingLaw : Prop :=
  ∀ s t : State, s.ringLaw → step s = .next t → t.ringLaw

/-- Every step keeps the capacity law of every ticket (R100). -/
def Obligations.StepKeepsCapacityLaw : Prop :=
  ∀ s t : State, s.capacityLaw → step s = .next t → t.capacityLaw

/-- Every step keeps the law that no reply window is open once polling is STOPPED (R145), with what
carries it: a window or a POLL on the line only while the segment is UP, and never both. -/
def Obligations.StepKeepsPollLaw : Prop :=
  ∀ s t : State, s.pollLaw = true → step s = .next t → t.pollLaw = true

/-- Every step keeps the law of the stations whose entries read good: a station awaits a CONFIGURE exactly
while it is on its segment's configure list (R148), and is IN SERVICE only while its segment is UP
(R151), with what carries these: awaiting only while CONFIGURING, CUT OFF only while not UP, ABSENT
exactly while not loaded, and a segment's list, window and POLL name its own stations. -/
def Obligations.StepKeepsStationLaw : Prop :=
  ∀ s t : State, s.stationLaw → step s = .next t → t.stationLaw

/-- Every step keeps the law of the containers whose entries read good: an estimate within 0–10000, a fill
state NONE exactly while it is absent (R37), no estimate OUT OF SERVICE, and the service state, the
lift timer and the lift stage in one of the four combinations of R113. The canonical form of the tables,
which every step keeps as well, is a premise. -/
def Obligations.StepKeepsContainerLaw : Prop :=
  ∀ s t : State, s.tablesCanonical = true → s.containerLaw → step s = .next t → t.containerLaw

/-- Every step keeps the two laws of the Dispatch Unit, where the entries read good: a container is in the
Emptying Request list, and then once, precisely when it meets R92's conditions; and it is assigned exactly
when it is a PLANNED stop of an OPEN or HANDED ticket, of at most one (R96), an unloaded row being none
(R17). The canonical form of the tables and the laws of the stations and of the ring, which every step
keeps as well, are premises. -/
def Obligations.StepKeepsDispatchLaw : Prop :=
  ∀ s t : State, s.tablesCanonical = true → s.stationLaw → s.ringLaw → s.dispatchLaw →
    step s = .next t → t.dispatchLaw

/-- COLD_RESET, with LRATE as it is read: the Container Table (R17), the card tables (R58), the Pending
Deposit list (R83), the Journal (R90), the Dispatch Unit (R111), both segment controllers (R140), the
stations (R157), the Link Controller and the Management Unit (R173) and the Notice Unit (R180). The
configuration of an unloaded row, its service state and an absent station's settings, which the rules
leave open, are log entry 5's, the frame on LTX is log entry 20's, what the segments and the Management
Unit have in flight log entry 33's, the octet of the link rate in POWER UP
log entry 7's, and the commands still waiting stay. -/
def Obligations.ColdResetClearsBlocks : Prop :=
  ∀ (h : Bool) (s : State), ∃ t, exec (.coldReset h) s = .next t ∧ t.pending = s.pending ∧
    (∀ n, t.seriesRow n = { data := { valid := false, barred := false, onlineOnly := false,
                                      base := 0, span := 1 }, bad := false }) ∧
    t.window = { data := { base := 8064, span := 128, onlineOnly := true }, bad := false } ∧
    (∀ row, t.cardRow row =
      { data := { state := .empty, streamRights := 0, zoneRights := 0, balance := 0, limit := 0,
                  reserved := 0, periodDeposits := 0, clamped := false }, bad := false }) ∧
    t.dispatch = { list := [], fillIndex := 0, dispatchIndex := 0, joinCounter := 0, missedFull := 0,
                   passDue := false } ∧
    (∀ slot, t.ticket slot =
      { state := .free, number := 0, stream := 0, capacity := 0, remaining := 0, maxStops := 0,
        minVolume := 0, hold := 0, cause := none, holdStart := none, stops := [] }) ∧
    t.running = false ∧
    (∀ code, t.streamRow code = { data := { loaded := false, charged := false }, bad := false }) ∧
    (∀ row, t.containerRow row =
      { data := { loaded := false, service := .outOfService, estimate := none, suspect := none,
                  fill := .none, hasPending := false, assignment := none, joinSeq := 0, flags := 0,
                  deposits := 0, rejected := 0, liftTimer := none, liftStage := .none,
                  cfg := { stream := 0, capacity := 0, depth := 0, deadZone := 0, hatchVolume := 0,
                           unitCost := 0, zone := 0, warn := 0, full := 0, hysteresis := 0,
                           gain := 0, spikeLimit := 0, qualityMin := 0, residue := 0,
                           grantUnknown := false, reportMask := 0 } }, bad := false }) ∧
    (∀ addr, t.stationRow addr =
      { data := { loaded := false, count := 0, sampleInterval := 0, deadline := 0, state := .absent,
                  misses := 0, attempts := 0, awaiting := false, lastAnnounce := none, errors := 0,
                  lateAnswers := 0, discarded := 0 }, bad := false }) ∧
    (∀ g, t.seg g =
      { state := .up, bitRate := 19200, replyTimeout := 25, answers := [], relays := [],
        cfgList := [], lineLow := false, stray := 0, rx := none, window := none,
        polling := .running, cycleCount := 0, position := 0, turnDue := false, pollOut := none,
        emptyWait := false, atSpace := false, lowMeasured := false, quietRestore := false,
        sent := [] }) ∧
    t.link = { rateHigh := h, rx := .hunting, requests := [], relays := [],
               counters := { received := 0, lengthErrors := 0, checkErrors := 0,
                             framingErrors := 0, unrouted := 0, overflow := 0, uplinkDrops := 0,
                             downlinkDrops := 0, sent := 0 },
               supervision := some 300, islanded := false, islandedSince := none,
               onLine := none } ∧
    t.mgmt = { taken := none, reply := none, unknownRoute := 0 } ∧
    (∀ k, t.kindRow k = { data := 0, bad := false }) ∧
    t.params = { pendingExpiry := 90, liftLimit := 12, supervision := 300, batchCount := 8,
                 coalescing := 10 } ∧
    t.seconds = 0 ∧ t.clock = none ∧ t.deposits = [] ∧
    t.journal.records = [] ∧ t.journal.counter = 0 ∧ t.journal.nextSlot = 0 ∧
    t.notices.queue = [{ kind := .powerUp, subject := 0, payload := [if h then 1 else 0],
                         stamp := 0 }] ∧
    t.notices.lost = 0 ∧ t.notices.coalescing = some 10 ∧ t.notices.intervalEnded = false ∧
    t.notices.batchNumber = 0 ∧ t.capture = none

/-- RESTART at the tables, the link and the notices. The Pending Deposit list is emptied without notices
and every reserved count zeroed (R83, R59); every ticket is gone (R112). A container keeps all but its
pending reference and its assignment, and one LIFTING or STALLED becomes IN SERVICE without an estimate
(R18, R126). The list holds the rows that meet R92's conditions, in R93's order, their join sequences
drawn in row order from the kept counter (R112). The queues of the link are emptied, the requests counted
as overflow, and supervision restarted (R172); the Notice Queue holds WARM START alone, which starts the
coalescing timer (R180, R176). That a faulty Card Row keeps its mark is log entry 30's. Streams, series,
kinds, the window, the Journal, the parameters, the clocks and the capture record stay. -/
def Obligations.WarmRestartKeepsTables : Prop :=
  ∀ (s : State) (tag : Octet), s.Carries tag [0x56] → s.tablesCanonical = true →
    let kept (row : Nat) : Container :=
      let c : Container := { s.container row with hasPending := false, assignment := none }
      if c.service = .lifting ∨ c.service = .stalled then
        { c with service := .inService, liftTimer := none, liftStage := .none, estimate := none,
                 fill := .none, suspect := none }
      else c
    let joins (row : Nat) : Bool :=
      (kept row).loaded && (kept row).service = .inService && (kept row).estimate.isSome &&
        ((kept row).fill = .warn || (kept row).fill = .full)
    let rows := (List.range 256).filter joins
    let full (row : Nat) : Bool := (kept row).fill = .full
    let volume (row : Nat) : Nat := (kept row).estimate.getD 0
    let before (x y : Nat) : Prop :=
      (full x = true ∧ full y = false) ∨ (full x = full y ∧
        (volume y < volume x ∨ (volume x = volume y ∧ x < y)))
    ∃ t, exec .restart s = .next t ∧
      t.mgmt = { s.mgmt with taken := none,
                             reply := some { tag := tag, code := 0x56, result := .accepted,
                                             data := be32 s.seconds ++ [octet s.deposits.length,
                                               octet ((List.range 16).countP fun n =>
                                                 (s.ticket n).state != .free)] } } ∧
      t.deposits = [] ∧ (∀ slot, (t.ticket slot).state = .free) ∧ t.running = false ∧
      (∀ row, t.cardRow row = { data := { s.card row with reserved := 0 },
                                bad := (s.cardRow row).bad }) ∧
      (∀ row, t.containerRow row =
        { data := if row ∈ rows then
              { kept row with joinSeq := s.dispatch.joinCounter +
                  BitVec.ofNat 32 (rows.countP fun x => x ≤ row) }
            else kept row,
          bad := (s.containerRow row).bad }) ∧
      t.dispatch.list.Perm rows ∧ t.dispatch.list.Pairwise before ∧
      t.dispatch.joinCounter = s.dispatch.joinCounter + BitVec.ofNat 32 rows.length ∧
      t.dispatch.fillIndex = 0 ∧ t.dispatch.dispatchIndex = 0 ∧ t.dispatch.passDue = false ∧
      t.dispatch.missedFull = s.dispatch.missedFull ∧
      t.link = { s.link with
        requests := []
        relays := []
        counters := { s.link.counters with
          overflow := min (s.link.counters.overflow + s.link.requests.length) 65535 }
        supervision := if s.params.supervision = 0 then none
          else some (s.seconds + BitVec.ofNat 32 s.params.supervision) } ∧
      t.notices = { s.notices with
        queue := [{ kind := .warmStart, subject := 0, payload := [octet s.deposits.length],
                    stamp := s.seconds }]
        coalescing := some (s.seconds + BitVec.ofNat 32 s.params.coalescing)
        intervalEnded := false } ∧
      { t with stations := s.stations, containers := s.containers, cards := s.cards,
               segA := s.segA, segB := s.segB, deposits := s.deposits, tickets := s.tickets,
               dispatch := s.dispatch, link := s.link, mgmt := s.mgmt,
               notices := s.notices } = s

/-- RESTART at the segments and stations (R141, R157): what is in flight is abandoned, a frame being sent
or received, a window, a waiting turn and an empty cycle, and both queues are emptied; an UP segment
becomes RESTORING, a DOWN one stays DOWN, and the rest of the segment is kept, a polling state of STOPPING
at WINDOW too (log entry 22). That the wait of an empty cycle ends is log entry 19's, and the record of
the frames sent is log entry 20's. A Station Entry that reads faulty is edited unread and keeps its mark
(log entry 17). Every loaded station becomes UNCONFIGURED, or CUT OFF on a segment that
is DOWN, with its flags and counts cleared. The end of the break of a segment that was UP raises nothing,
and that of one that was RESTORING raises SEGMENT RESTORED (log entry 26). -/
def Obligations.WarmRestartSegments : Prop :=
  ∀ (s : State) (tag : Octet), s.Carries tag [0x56] →
    ∃ t, exec .restart s = .next t ∧
      (∀ g,
        let x := s.seg g
        let idle : Segment :=
          { x with answers := [], relays := [], cfgList := [], rx := none, window := none,
                   turnDue := false, pollOut := none, emptyWait := false }
        t.seg g =
          match x.state with
          | .up => { idle with state := .restoring, quietRestore := true, atSpace := false,
                               lowMeasured := false }
          | .down => idle
          | .restoring => { idle with quietRestore := false }) ∧
      (∀ g, (s.seg g).state ≠ .down →
        ∃ u, exec (.busResetBreakEnd g) t = .next u ∧ (u.seg g).state = .up ∧
          u.notices =
            if (s.seg g).state = .up then t.notices
            else (t.raise .segmentRestored (if g = .a then 0 else 1) []).notices) ∧
      ∀ addr, 1 ≤ addr → addr ≤ 64 →
        ((s.station addr).loaded = false → t.stationRow addr = s.stationRow addr) ∧
        ((s.station addr).loaded = true →
          t.stationRow addr =
            { data := { s.station addr with
                state := if (s.seg (segOf addr)).state = .down then .cutOff else .unconfigured
                misses := 0
                attempts := 0
                awaiting := false
                errors := 0
                lateAnswers := 0
                discarded := 0 },
              bad := (s.stationRow addr).bad })

/-! ### Clocks and parameters -/

/-- Time. SECONDS_COUNT_ADVANCE adds one to the seconds count, modulo 2^32 (R165); without an upset
nothing else changes but the district clock, and with upsets (log entry 3) only tables and the Journal's
records, neither their number nor their slots, do. The expiries that fall due are commands of their own
(log entry 15). The district clock is absent after a cold reset; set, refused beyond minute 1439; advanced
with the seconds count; kept across a warm restart (R166). -/
def Obligations.SecondsAndDistrictClock : Prop :=
  (∀ (s : State) (ups : List Upset), ∃ t, exec (.secondsCountAdvance ups) s = .next t ∧
     t.seconds = s.seconds + 1 ∧
     (ups = [] → { t with seconds := s.seconds, clock := s.clock } = s) ∧
     { t with seconds := s.seconds, clock := s.clock, stations := s.stations,
              containers := s.containers, streams := s.streams, series := s.series,
              window := s.window, cards := s.cards, kinds := s.kinds, journal := s.journal } = s ∧
     t.journal.counter = s.journal.counter ∧ t.journal.nextSlot = s.journal.nextSlot ∧
     t.journal.records.length = s.journal.records.length) ∧
  (∀ (h : Bool) (s t : State), exec (.coldReset h) s = .next t → t.clock = none) ∧
  (∀ (s : State) (tag dh dl mh ml : Octet), s.Carries tag [0x52, dh, dl, mh, ml] →
    exec .setClock s =
      if u16 mh ml ≤ 1439 then
        .next (({ s with clock := some { day := u16 dh dl, minute := u16 mh ml,
                                         second := 0 } } : State).replied tag 0x52 .accepted
          (optional 4 (s.clock.map fun k => be16 k.day ++ be16 k.minute) ++ be32 s.seconds))
      else .next (s.replied tag 0x52 .range [])) ∧
  (∀ (s : State) (ups : List Upset) (day minute second : Nat),
    s.clock = some { day := day, minute := minute, second := second } →
    second ≤ 59 → minute ≤ 1439 → day ≤ 65535 →
    ∃ t, exec (.secondsCountAdvance ups) s = .next t ∧
      t.clock = some
        (if second < 59 then { day := day, minute := minute, second := second + 1 }
         else if minute < 1439 then { day := day, minute := minute + 1, second := 0 }
         else if day < 65535 then { day := day + 1, minute := 0, second := 0 }
         else { day := 0, minute := 0, second := 0 })) ∧
  (∀ (s : State) (ups : List Upset), s.clock = none →
    ∃ t, exec (.secondsCountAdvance ups) s = .next t ∧ t.clock = none) ∧
  ∀ (s : State) (tag : Octet), s.Carries tag [0x56] →
    ∃ t, exec .restart s = .next t ∧ t.clock = s.clock

/-- SET PARAMETERS takes each value to its range, reports the values taken and which of them changed,
and restarts the supervision timer; the parameters after a cold reset, and their keeping across a
warm restart (R167). -/
def Obligations.ParametersTakenToRange : Prop :=
  (∀ (s : State) (tag ph pl lift sh sl batch coal : Octet),
    s.Carries tag [0x53, ph, pl, lift, sh, sl, batch, coal] →
    ∃ p : Params,
      p.pendingExpiry = max 10 (min (u16 ph pl) 600) ∧
      p.liftLimit = max 1 (min lift.toNat 60) ∧
      p.supervision = (if u16 sh sl = 0 then 0 else max 10 (min (u16 sh sl) 3600)) ∧
      p.batchCount = max 1 (min batch.toNat 8) ∧
      p.coalescing = max 1 (min coal.toNat 60) ∧
      exec .setParameters s =
        .next (({ s with
            params := p
            link := { s.link with
              supervision := if p.supervision = 0 then none
                else some (s.seconds + BitVec.ofNat 32 p.supervision) } } : State).replied tag 0x53
          .accepted
          (be16 p.pendingExpiry ++ [octet p.liftLimit] ++ be16 p.supervision ++
            [octet p.batchCount, octet p.coalescing,
              octet ((if p.pendingExpiry = u16 ph pl then 0 else 1) +
                (if p.liftLimit = lift.toNat then 0 else 2) +
                (if p.supervision = u16 sh sl then 0 else 4) +
                (if p.batchCount = batch.toNat then 0 else 8) +
                (if p.coalescing = coal.toNat then 0 else 16))]))) ∧
  (∀ (h : Bool) (s t : State), exec (.coldReset h) s = .next t →
    t.params = { pendingExpiry := 90, liftLimit := 12, supervision := 300, batchCount := 8,
                 coalescing := 10 }) ∧
  ∀ (s : State) (tag : Octet), s.Carries tag [0x56] →
    ∃ t, exec .restart s = .next t ∧ t.params = s.params

/-! ### Management requests -/

/-- A request with an empty body is answered UNKNOWN REQUEST with code 0x00, and one with a code that
R162's table has not with its own code. A request whose body has another length than the table gives is
answered LENGTH: one of one length, one with an action, whose length for LOAD CONTAINER is that of the
action, one too short to hold the action, and LOAD CARDS, whose length is that of its count of 1 to 8.
LOAD CONTAINER with an action beyond the two is refused RANGE, whatever its length. None of these replies
carries data, and nothing else changes (R163; the command that answers is log entry 21's). -/
def Obligations.MalformedRequestsAnswered : Prop :=
  (∀ (s : State) (tag : Octet), s.Carries tag [] →
    exec .unknownRequest s = .next (s.replied tag 0x00 .unknownRequest [])) ∧
  (∀ (s : State) (tag c : Octet) (args : List Octet), s.Carries tag (c :: args) →
    c ∉ ([0x01, 0x02, 0x03, 0x04, 0x05, 0x06, 0x10, 0x11, 0x12, 0x13, 0x14, 0x20, 0x21, 0x22, 0x23,
      0x24, 0x30, 0x31, 0x32, 0x33, 0x40, 0x41, 0x50, 0x51, 0x52, 0x53, 0x54, 0x55, 0x56] :
      List Octet) →
    exec .unknownRequest s = .next (s.replied tag c .unknownRequest [])) ∧
  (∀ (code : Octet) (n : Nat) (cmd : Instr),
    (code, n, cmd) ∈ ([(0x01, 6, .loadStation), (0x02, 1, .removeStation), (0x03, 1, .readStation),
      (0x04, 3, .clearStationErrors), (0x05, 4, .setSegment), (0x13, 1, .readContainer),
      (0x14, 3, .clearContainerFlags), (0x20, 8, .loadSeries), (0x21, 5, .loadWindow),
      (0x23, 5, .adjustBalance), (0x24, 2, .readCard), (0x30, 9, .giveTicket),
      (0x31, 1, .recallTicket), (0x32, 1, .retireTicket), (0x33, 1, .readTicket),
      (0x40, 1, .readJournal), (0x41, 4, .releaseJournal), (0x50, 2, .loadKind),
      (0x51, 1, .setUnknownRoute), (0x52, 4, .setClock), (0x53, 7, .setParameters),
      (0x54, 1, .readStatus), (0x55, 0, .readFaultCapture), (0x56, 0, .restart)] :
      List (Octet × Nat × Instr)) →
    ∀ (s : State) (tag : Octet) (args : List Octet), s.Settled → args.length ≠ n →
      s.Carries tag (code :: args) → exec cmd s = .next (s.replied tag code .length [])) ∧
  (∀ (code a last : Octet) (n : Nat) (cmd : Instr),
    (code, a, last, n, cmd) ∈ ([(0x06, 0, 3, 2, .pollControlNone), (0x06, 1, 3, 2, .pollControlStopNow),
      (0x06, 2, 3, 2, .pollControlStopAfterCycle), (0x06, 3, 3, 2, .pollControlStart),
      (0x10, 0, 1, 3, .loadStreamLoad), (0x10, 1, 1, 3, .loadStreamUnload),
      (0x12, 0, 1, 2, .setContainerServiceOut), (0x12, 1, 1, 2, .setContainerServiceIn),
      (0x11, 0, 255, 26, .loadContainerLoad), (0x11, 1, 255, 2, .loadContainerUnload)] :
      List (Octet × Octet × Octet × Nat × Instr)) →
    ∀ (s : State) (tag : Octet), s.Settled →
      (∀ args : List Octet, args.length < 2 → s.Carries tag (code :: args) →
        exec cmd s = .next (s.replied tag code .length [])) ∧
      (∀ (x action : Octet) (rest : List Octet), action = a ∨ last.toNat < action.toNat →
        rest.length + 2 ≠ n → s.Carries tag (code :: x :: action :: rest) →
        exec cmd s = .next (s.replied tag code .length []))) ∧
  (∀ (s : State) (tag x action : Octet) (rest : List Octet), s.Settled → 1 < action.toNat →
    s.Carries tag (0x11 :: x :: action :: rest) →
    exec .loadContainerLoad s = .next (s.replied tag 0x11 .range []) ∧
    exec .loadContainerUnload s = .next (s.replied tag 0x11 .range [])) ∧
  (∀ (s : State) (tag : Octet), s.Carries tag [0x22] →
    exec .loadCards s = .next (s.replied tag 0x22 .length [])) ∧
  ∀ (s : State) (tag count : Octet) (rest : List Octet),
    count = 0 ∨ 8 < count.toNat ∨ rest.length ≠ 10 * count.toNat →
    s.Carries tag (0x22 :: count :: rest) →
    exec .loadCards s = .next (s.replied tag 0x22 .length [])

/-- LOAD KIND writes one route of the Kind Table under fresh parity, or is refused RANGE outside 0x10 to
0x3F, and SET UNKNOWN ROUTE writes the unknown-kind route (R168; replies: log entry 8). A reply of kind
0x10 to 0x3F from a station IN SERVICE is dropped by route 0, uncounted; on an entry that reads faulty
it is dropped and counted as discarded, the fault captured and the entry written back with route 0;
one of another upward kind is dropped and counted by an unknown-kind route of 0. A nonzero route places
a RELAY at the end of the queue of 16, or drops and counts it where that is full (R152, R153). -/
def Obligations.RoutesLoadedAndFollowed : Prop :=
  ((∀ (s : State) (tag kind route : Octet), s.Carries tag [0x50, kind, route] →
     (0x10 ≤ kind.toNat ∧ kind.toNat ≤ 0x3F →
       ∃ t, exec .loadKind s = .next t ∧
         (∀ k, t.kindRow k =
           if k = kind.toNat then { data := route.toNat, bad := false } else s.kindRow k) ∧
         { t with kinds := s.kinds } = s.replied tag 0x50 .accepted [kind, route]) ∧
     (¬ (0x10 ≤ kind.toNat ∧ kind.toNat ≤ 0x3F) →
       exec .loadKind s = .next (s.replied tag 0x50 .range []))) ∧
   ∀ (s : State) (tag route : Octet), s.Carries tag [0x51, route] →
     exec .setUnknownRoute s =
       .next (({ s with mgmt := { s.mgmt with unknownRoute := route.toNat } } : State).replied tag
         0x51 .accepted [route])) ∧
  ∀ (s : State) (addr : Nat) (kind : Octet) (payload : List Octet), s.Serving addr →
    payload.length ≤ 24 → 6 < kind.toNat →
    let hears (t : State) : Prop :=
      exec (.segmentFrameReceived (segOf addr) (stationFrame addr kind payload)) s = .next t
    let h := s.heard addr
    let discards (u : State) : State :=
      u.editStation addr fun e => { e with discarded := min (e.discarded + 1) 65535 }
    let relays (route : Nat) : State :=
      if s.link.relays.length < 16 then
        { h with link := { s.link with relays := s.link.relays ++
            [{ addr := addr, route := route, kind := kind, payload := payload }] } }
      else
        { h with link := { s.link with counters := { s.link.counters with
            uplinkDrops := min (s.link.counters.uplinkDrops + 1) 65535 } } }
    (0x10 ≤ kind.toNat → kind.toNat ≤ 0x3F →
      ((s.kindRow kind.toNat).bad = false →
        ((s.kindRow kind.toNat).data = 0 → hears h) ∧
        ((s.kindRow kind.toNat).data ≠ 0 → hears (relays (s.kindRow kind.toNat).data))) ∧
      ((s.kindRow kind.toNat).bad = true →
        hears (discards (((h.captureFault .kind kind.toNat).raise .tableFault kind.toNat
          [5]).writeKind kind.toNat 0)))) ∧
    (kind.toNat < 0x10 ∨ 0x3F < kind.toNat →
      (s.mgmt.unknownRoute = 0 → hears (discards h)) ∧
      (s.mgmt.unknownRoute ≠ 0 → hears (relays s.mgmt.unknownRoute)))

/-- READ STATUS replies with the status in R171's order, and clears the link counters, when asked, after
they have been taken; nothing else changes. A request whose yes/no octet lies beyond the two is refused
RANGE (R163). The widths are log entry 8's, the yes/no octets log entry 6's, those of ISLANDED, LINE LOW
and the link rate log entry 7's, and the codes of the segment states log entry 31's. -/
def Obligations.ReadStatusReports : Prop :=
  ∀ (s : State) (tag clear : Octet), s.Carries tag [0x54, clear] →
    (1 < clear.toNat → exec .readStatus s = .next (s.replied tag 0x54 .range [])) ∧
    (clear = 0 ∨ clear = 1 →
    exec .readStatus s =
      .next (({ s with
          link := { s.link with
            counters := if clear = 0 then
                { received := 0, lengthErrors := 0, checkErrors := 0, framingErrors := 0,
                  unrouted := 0, overflow := 0, uplinkDrops := 0, downlinkDrops := 0, sent := 0 }
              else s.link.counters } } : State).replied tag 0x54 .accepted
        (be32 s.seconds ++ optional 4 (s.clock.map fun k => be16 k.day ++ be16 k.minute) ++
          [if s.link.rateHigh then 1 else 0, if s.link.islanded then 1 else 0] ++
          be16 s.params.supervision ++
          be16 ((s.link.supervision.map s.remaining).getD 0) ++
          (be16 s.link.counters.received ++ be16 s.link.counters.lengthErrors ++
            be16 s.link.counters.checkErrors ++ be16 s.link.counters.framingErrors ++
            be16 s.link.counters.unrouted ++ be16 s.link.counters.overflow ++
            be16 s.link.counters.uplinkDrops ++ be16 s.link.counters.downlinkDrops ++
            be16 s.link.counters.sent) ++
          [octet s.link.requests.length, octet s.link.relays.length] ++
          [s.segA.state.code, s.segA.polling.code, if s.segA.lineLow then 1 else 0] ++
          [s.segB.state.code, s.segB.polling.code, if s.segB.lineLow then 1 else 0] ++
          [octet s.deposits.length, octet (s.deposits.countP (·.charged))] ++
          be16 s.journal.records.length ++ be32 s.journal.counter ++
          be16 s.dispatch.list.length ++ [if s.running then 0 else 1] ++
          be16 s.dispatch.missedFull ++ [octet s.notices.queue.length] ++ be16 s.notices.lost ++
          [if s.capture.isSome then 0 else 1] ++
          (be16 s.params.pendingExpiry ++ [octet s.params.liftLimit] ++
            be16 s.params.supervision ++ [octet s.params.batchCount, octet s.params.coalescing]))))

/-- READ FAULT CAPTURE replies with presence, table code, row, stamp and further-faults count, all 0
when empty, and empties the record; and what a captured fault does to the record (R179). -/
def Obligations.FaultCaptureHeldAndRead : Prop :=
  (∀ (s : State) (tag : Octet), s.Carries tag [0x55] →
    exec .readFaultCapture s =
      .next (({ s with capture := none } : State).replied tag 0x55 .accepted
        (match s.capture with
          | some f => [1, f.table.code] ++ be16 f.row ++ be32 f.stamp ++ [octet f.further]
          | none => [0, 0, 0, 0, 0, 0, 0, 0, 0]))) ∧
  (∀ (s : State) (x : FaultTable) (row : Nat), s.capture = none →
    s.captureFault x row =
      { s with capture := some { table := x, row := row, stamp := s.seconds, further := 0 } }) ∧
  ∀ (s : State) (x : FaultTable) (row : Nat) (f : CapturedFault), s.capture = some f →
    f.further ≤ 255 →
    s.captureFault x row =
      { s with capture := some { f with further := if f.further < 255 then f.further + 1 else 255 } }

/-- Reads that fail their parity check. READ CARD reports the row as read, marked (log entries 7, 8;
available units beyond two octets 14), and leaves it (R54); ADJUST BALANCE does as it does once the row
has been rebuilt (R57, log entry 29). A Station Entry read as loaded is rebuilt, and one read as not
loaded becomes ABSENT with its containers unloaded (R156, R10; to the values of log entry 5; those whose
entries read faulty too, log entry 13, the order of whose notices, entry 28's, is not stated), a send turn
falling due on an idle segment (log entry 11); LOAD STATION, REMOVE STATION, READ STATION, CLEAR STATION
ERRORS, READ CONTAINER, LOAD CONTAINER and STOP AFTER CYCLE then go on with it. READ CONTAINER goes on
with what R15 leaves of the container, whose report is written out for one without deposit, stop or place
in the list (yes and no are log entry 6's, the layout 8's, which of the two entries is read first 17's);
GIVE TICKET on the stream is refused STATE (R16, R98); READ JOURNAL marks each faulty record, takes its
sequence number from its position and leaves it (R86, R89). Each fault is captured with its table and row
and raises TABLE FAULT. -/
def Obligations.FaultyReadsCapturedAndRepaired : Prop :=
  (∀ (s : State) (tag rh rl : Octet), s.Carries tag [0x24, rh, rl] →
    let row := u16 rh rl
    let c := s.card row
    row ≤ 8191 → (s.cardRow row).bad = true →
    exec .readCard s =
      .next (((s.captureFault .card row).raise .tableFault row [4]).replied tag 0x24 .accepted
        ([rh, rl, c.state.code, c.streamRights, c.zoneRights] ++ be16s c.balance ++
          [octet c.limit, octet c.reserved] ++ be16 c.periodDeposits ++
          [if c.clamped then 1 else 0] ++ availableOctets (c.balance - c.reserved) ++
          [octet (s.deposits.countP fun d => d.cardRow = row), 1])) ∧
    (-32768 ≤ c.balance - c.reserved →
      availableOctets (c.balance - c.reserved) = be16s (c.balance - c.reserved))) ∧
  (∀ (s : State) (tag rh rl ah al zero : Octet), s.Carries tag [0x23, rh, rl, ah, al, zero] →
    zero.toNat ≤ 1 →
    let row := u16 rh rl
    let c := s.card row
    row ≤ 8191 → (s.cardRow row).bad = true →
    exec .adjustBalance s = exec .adjustBalance
      (((s.captureFault .card row).raise .tableFault row [4]).writeCard row
        { c with state := .blocked, reserved := unitsNaming s.deposits row,
                 balance := max (-255) c.balance,
                 clamped := c.clamped || c.balance < -255 })) ∧
  (∀ (s : State) (a : Nat), 1 ≤ a → a ≤ 64 → (s.stationRow a).bad = true →
    let e := s.station a
    let listed : State := ((s.captureFault .station a).raise .tableFault a [0]).editSeg (segOf a)
      fun x => { x with cfgList := x.cfgList.filter (· ≠ a) }
    (e.loaded = true →
      s.readStation a =
        (listed.editSeg (segOf a) fun x =>
          { x with turnDue := x.turnDue ||
              (x.state = .up && x.window.isNone && x.pollOut.isNone) }).putStation a
          (Row.good { e with
            state := if (s.seg (segOf a)).state = .down then .cutOff else .unconfigured
            misses := 0
            attempts := 0
            awaiting := false })) ∧
    (e.loaded = false →
      (listed.putStation a
        { data := { loaded := false, count := 0, sampleInterval := 0, deadline := 0,
                    state := .absent, misses := 0, attempts := 0, awaiting := false,
                    lastAnnounce := none, errors := 0, lateAnswers := 0, discarded := 0 },
          bad := false }).UnloadsStation a (s.readStation a))) ∧
  (∀ (s : State) (tag addr count ih il dh dl named counts : Octet),
    let a := addr.toNat
    1 ≤ a → a ≤ 64 → (s.stationRow a).bad = true →
    (s.Carries tag [0x01, addr, count, ih, il, dh, dl] → 1 ≤ count.toNat → count.toNat ≤ 4 →
      60 ≤ u16 ih il → u16 ih il ≤ 3600 → 500 ≤ u16 dh dl → u16 dh dl ≤ 5000 →
      exec .loadStation s = exec .loadStation (s.readStation a)) ∧
    (s.Carries tag [0x02, addr] → exec .removeStation s = exec .removeStation (s.readStation a)) ∧
    (s.Carries tag [0x03, addr] → exec .readStation s = exec .readStation (s.readStation a)) ∧
    (s.Carries tag [0x04, addr, named, counts] → counts.toNat ≤ 1 →
      exec .clearStationErrors s = exec .clearStationErrors (s.readStation a))) ∧
  (∀ (s : State) (tag row : Octet) (fields : List Octet),
    let a := rowStation row.toNat
    (s.stationRow a).bad = true →
    (s.Carries tag [0x13, row] →
      exec .readContainer s = exec .readContainer (s.readStation a)) ∧
    ∀ cfg grant, s.Carries tag (0x11 :: row :: 0 :: fields) →
      parseConfig fields = some (cfg, grant) → grant.toNat ≤ 1 → cfg.inRange = true →
      (s.streamRow cfg.stream).bad = false → (s.streamRow cfg.stream).data.loaded = true →
      exec .loadContainerLoad s = exec .loadContainerLoad (s.readStation a)) ∧
  (∀ (s : State) (tag seg : Octet),
    let g : Seg := if seg = 0 then .a else .b
    s.Carries tag [0x06, seg, 2] → seg.toNat ≤ 1 → (s.seg g).polling = .running →
    exec .pollControlStopAfterCycle s =
      exec .pollControlStopAfterCycle ((segAddrs g).foldl State.readStation s)) ∧
  (∀ (s : State) (tag x : Octet), s.Carries tag [0x13, x] →
    (s.stationRow (rowStation x.toNat)).bad = false → (s.containerRow x.toNat).bad = true →
    exec .readContainer s = exec .readContainer (s.readContainer x.toNat)) ∧
  (∀ (s : State) (tag x : Octet), s.Settled → s.Carries tag [0x13, x] →
    let row := x.toNat
    let c := s.container row
    (s.stationRow (rowStation row)).bad = false → (s.containerRow row).bad = true →
    c.loaded = true → s.depositAt row = none → row ∉ s.dispatch.list →
    (∀ n < 16, ∀ p ∈ (s.ticket n).stops, p.row ≠ row) →
    ∃ t, exec .readContainer s = .next t ∧
      (∀ r, t.containerRow r =
        if r = row then
          { data := { c with service := .outOfService, estimate := none, fill := .none,
                             suspect := none, hasPending := false, assignment := none,
                             liftTimer := none, liftStage := .none }, bad := false }
        else s.containerRow r) ∧
      { t with containers := s.containers } =
        let k := c.cfg
        ((s.captureFault .container row).raise .tableFault row [1]).replied tag 0x13 .accepted
          ([x, 0, if (s.station (rowStation row)).state = .inService then 0 else 1] ++
            ([octet k.stream] ++ be16 k.capacity ++ be16 k.depth ++ be16 k.deadZone ++
              [octet k.hatchVolume, octet k.unitCost, octet k.zone] ++ be16 k.warn ++ be16 k.full ++
              be16 k.hysteresis ++ [octet k.gain] ++ be16 k.spikeLimit ++ [octet k.qualityMin] ++
              be16 k.residue ++ [if k.grantUnknown then 0 else 1, k.reportMask]) ++
            [3, 0, 0, 0, 0xFF, 0xFF, 0, 0, 0] ++ [0, 0, 0, 0, 0, 0, 0, 0] ++ [255] ++
            [0, 0, 0, 0, 0] ++ [c.flags] ++ be16 c.deposits ++ [octet c.rejected])) ∧
  (∀ (s : State) (tag nh nl stream ch cl stops vh vl hold : Octet),
    s.Carries tag [0x30, nh, nl, stream, ch, cl, stops, vh, vl, hold] →
    stream.toNat ≤ 7 → 100 ≤ u16 ch cl → u16 ch cl ≤ 60000 → 1 ≤ stops.toNat → stops.toNat ≤ 24 →
    u16 vh vl ≤ 5000 → (s.streamRow stream.toNat).bad = true →
    exec .giveTicket s =
      .next (((s.captureFault .stream stream.toNat).raise .tableFault stream.toNat [2]).replied tag
        0x30 .state [])) ∧
  ∀ (s : State) (tag n : Octet), s.Carries tag [0x40, n] → 1 ≤ n.toNat → n.toNat ≤ 8 →
    let count := s.journal.records.length
    let read := (s.journal.records.take n.toNat).zipIdx
    let seqAt (i : Nat) : Word32 := s.journal.counter - BitVec.ofNat 32 (count - 1 - i)
    let slotAt (i : Nat) : Nat := (s.journal.nextSlot + (1024 - count) + i) % 1024
    count ≤ 1024 →
    exec .readJournal s =
      .next ((read.foldl (fun u p =>
          if p.1.bad then
            (u.captureFault .journal (slotAt p.2)).raise .tableFault (slotAt p.2)
              (6 :: be32 (seqAt p.2))
          else u) s).replied tag 0x40 .accepted
        (be16 count ++ be32 s.journal.counter ++ octet read.length ::
          read.flatMap fun p =>
            let r := p.1.data
            be32 (if p.1.bad then seqAt p.2 else r.seq) ++
              [(if r.stamp.isSome then 1 else 0) ||| if p.1.bad then 2 else 0] ++
              cardOctets r.card ++ [octet r.row, octet r.units] ++ be16s r.balance ++
              (match r.stamp with
                | some m => be16 m.day ++ be16 m.minute
                | none => [0, 0, 0, 0])))

/-- Faulty reads inside events and requests. What R15 does to a container entry read as loaded, and R57 to
a card row. A presentation is refused TABLE FAULT by a faulty container, stream, series or window, or card
row, the last three left as they are (R15, R16, R55, R56). A commit or a release, LOAD CARDS, LOAD STREAM
with UNLOAD, which reads every entry, and a request, sample, lift report or unmatched deposit at a faulty
container go on as they do on the row once it is rebuilt (R57, R15; that the fault is reported before the
forcing is log entry 13's, and which reads are checked, and in which order LOAD CARDS and LOAD STREAM read
theirs, 17's); the walk of a pass goes on without it (R101). A commit that finds the container faulty has
charged the card and removed the deposit, and counts it (R75, R29). A window's outcome, a relay arrival,
and a send turn at a faulty Station Entry go on as they do on the entry once it is rebuilt (R156): the
turn where it would send its CONFIGURE (log entry 25), and where its search comes to it, above the cycle
position, or with none to poll above it. -/
def Obligations.FaultyReadsInEvents : Prop :=
  (∀ (s : State) (row : Nat), (s.containerRow row).bad = true → (s.container row).loaded = true →
    (∀ d, s.depositAt row = some d → s.Holds d) →
    let f := (s.captureFault .container row).raise .tableFault row [1]
    let base : State :=
      match s.depositAt row with
      | some d => f.returned d
      | none => f
    (∀ r, (s.readContainer row).containerRow r =
      if r = row then
        { data := { s.container row with
            service := .outOfService, estimate := none, fill := .none, suspect := none,
            hasPending := false, assignment := none, liftTimer := none, liftStage := .none },
          bad := false }
      else s.containerRow r) ∧
    { s.readContainer row with containers := s.containers } =
      { base.skipStop row (s.plannedSlot row) with
        containers := s.containers
        dispatch := { s.dispatch with list := s.dispatch.list.filter (· ≠ row) } }) ∧
  (∀ (s : State) (row : Nat), (s.cardRow row).bad = true →
    let c := s.card row
    s.repairCard row = ((s.captureFault .card row).raise .tableFault row [4]).writeCard row
      { c with state := .blocked, reserved := unitsNaming s.deposits row,
               balance := max (-255) c.balance, clamped := c.clamped || c.balance < -255 }) ∧
  (∀ (s : State) (tag count : Octet) (rest : List Octet) (rs : List CardRecord),
    s.Carries tag (0x22 :: count :: rest) → 1 ≤ count.toNat → count.toNat ≤ 8 →
    parseRecords count.toNat rest = some rs → (∀ r ∈ rs, r.inRange = true) →
    exec .loadCards s = exec .loadCards (rs.foldl (fun u r => u.repairCard r.row) s)) ∧
  (∀ (s : State) (tag row : Octet) (fields : List Octet) (code action : Octet) (cmd : Instr),
    (code, action, cmd) ∈ ([(0x11, 0, .loadContainerLoad), (0x11, 1, .loadContainerUnload),
      (0x12, 0, .setContainerServiceOut), (0x12, 1, .setContainerServiceIn)] :
      List (Octet × Octet × Instr)) → s.Settled →
    s.Carries tag (code :: row :: action :: fields) → (s.containerRow row.toNat).bad = true →
    (s.stationRow (rowStation row.toNat)).bad = false →
    (code = 0x11 ∧ action = 0 → ∃ cfg grant, parseConfig fields = some (cfg, grant) ∧
      grant.toNat ≤ 1 ∧ cfg.inRange = true ∧ (s.streamRow cfg.stream).bad = false ∧
      (s.streamRow cfg.stream).data.loaded = true ∧
      (s.station (rowStation row.toNat)).loaded = true ∧
      rowSlot row.toNat < (s.station (rowStation row.toNat)).count) →
    (code = 0x11 ∧ action = 0 ∨ fields = []) →
    exec cmd s = exec cmd (s.readContainer row.toNat)) ∧
  (∀ (s : State) (tag row named count : Octet), s.Settled →
    s.Carries tag [0x14, row, named, count] → count.toNat ≤ 1 →
    (s.containerRow row.toNat).bad = true →
    exec .clearContainerFlags s = exec .clearContainerFlags (s.readContainer row.toNat)) ∧
  (∀ (s : State) (tag stream charged : Octet), s.Settled →
    s.Carries tag [0x10, stream, 1, charged] → stream.toNat ≤ 7 →
    exec .loadStreamUnload s =
      exec .loadStreamUnload ((List.range 256).foldl State.readContainer s)) ∧
  (∀ (s : State) (row : Nat) (rows : List Nat), (s.containerRow row).bad = true →
    s.currentTicket.stops.length < s.currentTicket.maxStops →
    State.walk (row :: rows) s = State.walk rows (s.readContainer row)) ∧
  (∀ (s : State) (addr : Nat) (kind : Octet) (payload : List Octet), 1 ≤ addr → addr ≤ 64 →
    s.Awaits (segOf addr) addr → (s.stationRow addr).bad = true → payload.length ≤ 24 →
    exec (.segmentFrameReceived (segOf addr) (stationFrame addr kind payload)) s =
      exec (.segmentFrameReceived (segOf addr) (stationFrame addr kind payload))
        (s.readStation addr) ∧
    exec (.replyTimeout (segOf addr)) s = exec (.replyTimeout (segOf addr)) (s.readStation addr)) ∧
  (∀ (s : State) (addr tag kind : Octet) (payload : List Octet), s.link.rx = .hunting →
    1 ≤ addr.toNat → addr.toNat ≤ 64 → payload.length ≤ 24 →
    (s.stationRow addr.toNat).bad = true →
    let frame := linkChars (linkFrame addr.toNat 4 tag (kind :: payload))
    exec (.downlinkFrameReceived frame) s =
      exec (.downlinkFrameReceived frame) (s.readStation addr.toNat)) ∧
  (∀ (s : State) (g : Seg) (a : Nat),
    let x := s.seg g
    x.state = .up → x.turnDue = true → x.atSpace = false → x.pollOut = none → x.window = none →
    a ∈ segAddrs g → (s.stationRow a).bad = true →
    let goesOn := exec (.sendTurn g) s = exec (.sendTurn g) (s.readStation a)
    let passed (b : Nat) : Prop :=
      (s.stationRow b).bad = false ∧ (s.station b).state.polled x.cycleCount = false
    (∀ rest, x.cfgList = a :: rest → a ∉ rest → goesOn) ∧
    (x.polling ≠ .stopped →
      (∀ b, x.cfgList.head? = some b → b ∈ segAddrs g ∧ (s.stationRow b).bad = false) →
      (x.position < a → (∀ b ∈ segAddrs g, x.position < b → b < a → passed b) → goesOn) ∧
      (a ≤ x.position → (∀ b ∈ segAddrs g, x.position < b → passed b) →
        (∀ b ∈ segAddrs g, b < a → (s.stationRow b).bad = false) → goesOn))) ∧
  ∀ (s : State) (addr : Nat) (slot : Octet), s.Serving addr →
    slot.toNat < 4 → slot.toNat < (s.station addr).count →
    let row := rowOf addr slot.toNat
    let k := s.container row
    let h := s.heard addr
    let hears (kind : Octet) (payload : List Octet) (u : State) :=
      exec (.segmentFrameReceived (segOf addr) (stationFrame addr kind payload)) u
    let refused (u : State) : State := u.editSeg (segOf addr) fun y =>
      { y with answers := y.answers ++ [{ addr := addr, slot := slot,
                                          body := .refuse .tableFault }] }
    (s.depositAt row = none → ∀ a b c : Octet,
      let card := cardOf a b c
      let presents := hears 0x02 [slot, a, b, c] s
      ((s.containerRow row).bad = true → presents = .next (refused (h.readContainer row))) ∧
      ((s.containerRow row).bad = false → k.loaded = true → k.service = .inService →
        ((s.streamRow k.cfg.stream).bad = true →
          presents = .next (refused ((h.captureFault .stream k.cfg.stream).raise .tableFault
            k.cfg.stream [2]))) ∧
        ((s.streamRow k.cfg.stream).bad = false →
          (s.seriesFaulty card = true →
            presents = .next (refused ((h.captureFault .series (cardSeries card)).raise
              .tableFault (cardSeries card) [3, a, b, c]))) ∧
          (s.seriesFaulty card = false → (s.seriesOf card).valid = true →
            (s.seriesOf card).barred = false → cardSerial card < (s.seriesOf card).span →
            ((s.seriesOf card).onlineOnly = false ∨ s.link.islanded = false) →
            let cr := (s.seriesOf card).base + cardSerial card
            (s.cardRow cr).bad = true →
            presents = .next (refused ((h.captureFault .card cr).raise .tableFault cr
              [4, a, b, c])))))) ∧
    (∀ d, s.depositAt row = some d → (s.cardRow d.cardRow).bad = true → k.loaded = true →
      ∀ outcome, 1 ≤ outcome.toNat → outcome.toNat ≤ 3 →
        hears 0x03 [slot, outcome] s = hears 0x03 [slot, outcome] (s.repairCard d.cardRow)) ∧
    ((s.containerRow row).bad = true →
      (∀ dh dl q, hears 0x04 [slot, dh, dl, q] s =
        hears 0x04 [slot, dh, dl, q] (s.readContainer row)) ∧
      hears 0x05 [slot] s = hears 0x05 [slot] (s.readContainer row) ∧
      (∀ mh ml, hears 0x06 [slot, mh, ml] s = hears 0x06 [slot, mh, ml] (s.readContainer row)) ∧
      (k.loaded = true → s.depositAt row = none →
        hears 0x03 [slot, 0x01] s = hears 0x03 [slot, 0x01] (s.readContainer row)) ∧
      (∀ d, k.loaded = true → d.row = row → s.Holds d →
        (∀ x ∈ s.deposits.eraseP (fun x => x.row = row), x.row ≠ row) →
        ∃ t, hears 0x03 [slot, 0x01] s = .next t ∧
          t.containerRow row =
            { data := { k with
                service := .outOfService, estimate := none, fill := .none, suspect := none,
                hasPending := false, assignment := none, liftTimer := none, liftStage := .none,
                deposits := min (k.deposits + 1) 65535 }, bad := false } ∧
          t.capture = (s.captureFault .container row).capture ∧
          t.deposits = s.deposits.eraseP (fun x => x.row = row) ∧
          (t.card d.cardRow).balance = max (-255) ((s.card d.cardRow).balance - (d.units : Int)) ∧
          (t.card d.cardRow).reserved = (s.card d.cardRow).reserved - d.units ∧
          t.journal.records.length = s.journal.records.length + (if d.charged then 1 else 0)))

/-! ### Streams and containers -/

/-- LOAD STREAM. Action LOAD writes the entry whole, whether or not it was loaded, or is refused RANGE
above stream 7 (R3), or for a charged octet beyond yes (0) and no (1) (R163). Action UNLOAD is refused
RANGE above stream 7, and, where every Container Entry reads good, STATE while a loaded container names
the stream, and else unloads the entry (R4); its charged octet is not read. An action beyond the two is
refused RANGE (R163), by whichever of the two commands carries the request out (log entry 21). -/
def Obligations.StreamsLoadAndUnload : Prop :=
  (∀ (s : State) (tag stream charged : Octet), s.Carries tag [0x10, stream, 0, charged] →
    (stream.toNat ≤ 7 ∧ charged.toNat ≤ 1 →
      ∃ t, exec .loadStreamLoad s = .next t ∧
        (∀ k, t.streamRow k =
          if k = stream.toNat then
            { data := { loaded := true, charged := charged = 0 }, bad := false }
          else s.streamRow k) ∧
        { t with streams := s.streams } = s.replied tag 0x10 .accepted [stream, charged]) ∧
    (7 < stream.toNat ∨ 1 < charged.toNat →
      exec .loadStreamLoad s = .next (s.replied tag 0x10 .range []))) ∧
  (∀ (s : State) (tag stream action charged : Octet), s.Settled →
    s.Carries tag [0x10, stream, action, charged] →
    (1 < action.toNat →
      exec .loadStreamLoad s = .next (s.replied tag 0x10 .range []) ∧
      exec .loadStreamUnload s = .next (s.replied tag 0x10 .range [])) ∧
    (action = 1 → 7 < stream.toNat →
      exec .loadStreamUnload s = .next (s.replied tag 0x10 .range []))) ∧
  ∀ (s : State) (tag stream charged : Octet), s.Settled →
    s.Carries tag [0x10, stream, 1, charged] →
    (∀ row < 256, (s.containerRow row).bad = false) →
    (stream.toNat ≤ 7 →
      (∃ row < 256, (s.container row).loaded = true ∧ (s.container row).cfg.stream = stream.toNat) →
      exec .loadStreamUnload s = .next (s.replied tag 0x10 .state [])) ∧
    (stream.toNat ≤ 7 →
      (∀ row < 256, (s.container row).loaded = true →
        (s.container row).cfg.stream ≠ stream.toNat) →
      ∃ t, exec .loadStreamUnload s = .next t ∧
        (∀ k, t.streamRow k =
          if k = stream.toNat then { data := { loaded := false, charged := false }, bad := false }
          else s.streamRow k) ∧
        { t with streams := s.streams } = s.replied tag 0x10 .accepted [])

/-- LOAD CONTAINER with action LOAD, its checks passed and its reads good. A first load writes the
configuration as given and the dynamic part of R6, with the unloaded row's join sequence (R17), and
nothing else but the REPLY. A reload releases the pending deposit, if there is one, replaces the
configuration whole and keeps the service state, the flags, both counts and the join sequence (R7); with
D, Z and V unchanged the estimate and the suspect record are kept and the fill state evaluated afresh,
with its notice, and otherwise they are made absent (R8); then the Dispatch Unit is told, and a pass it
makes due is run. The replies carry the row and the estimate after the load (log entry 8); the octet of
grant-when-unknown, yes 0 and no 1, is log entry 6's. -/
def Obligations.LoadContainerWritesEntry : Prop :=
  (∀ (s : State) (tag row : Octet) (fields : List Octet) (cfg : ContainerConfig) (grant : Octet)
    (e : Station), s.Settled →
    s.Carries tag (0x11 :: row :: 0 :: fields) → parseConfig fields = some (cfg, grant) →
    grant.toNat ≤ 1 → cfg.inRange = true →
    s.streamRow cfg.stream = Row.good (s.streamRow cfg.stream).data →
    (s.streamRow cfg.stream).data.loaded = true →
    s.stationRow (rowStation row.toNat) = Row.good e → e.loaded = true →
    rowSlot row.toNat < e.count →
    (s.containerRow row.toNat).bad = false → (s.container row.toNat).loaded = false →
    ∃ t, exec .loadContainerLoad s = .next t ∧
      (∀ r, t.containerRow r =
        if r = row.toNat then
          { data := { loaded := true, cfg := cfg, service := .inService, estimate := none,
                      suspect := none, fill := .none, hasPending := false, assignment := none,
                      joinSeq := 0, flags := 0, deposits := 0, rejected := 0, liftTimer := none,
                      liftStage := .none }, bad := false }
        else s.containerRow r) ∧
      { t with containers := s.containers } = s.replied tag 0x11 .accepted [row, 0, 0, 0, 0]) ∧
  ∀ (s : State) (tag row : Octet) (fields : List Octet) (cfg : ContainerConfig) (grant : Octet)
    (e : Station),
    s.Carries tag (0x11 :: row :: 0 :: fields) → parseConfig fields = some (cfg, grant) →
    grant.toNat ≤ 1 → cfg.inRange = true →
    (s.streamRow cfg.stream).bad = false → (s.streamRow cfg.stream).data.loaded = true →
    s.stationRow (rowStation row.toNat) = Row.good e → e.loaded = true →
    rowSlot row.toNat < e.count →
    (s.containerRow row.toNat).bad = false → (s.container row.toNat).loaded = true →
    ((s.container row.toNat).service = .inService ∨
      (s.container row.toNat).service = .outOfService) →
    (s.container row.toNat).assignment = none →
    (∀ d, s.depositAt row.toNat = some d → s.Holds d) →
    let k := s.container row.toNat
    let same : Bool :=
      k.cfg.depth = cfg.depth && k.cfg.deadZone = cfg.deadZone && k.cfg.capacity = cfg.capacity
    let base : State :=
      match s.depositAt row.toNat with
      | some d => s.returned d
      | none => s
    let fill : FillState :=
      match same, k.estimate with
      | true, some x => evaluateFill cfg k.fill x
      | true, none => k.fill
      | false, _ => .none
    let notes : List Raised :=
      match same, k.estimate with
      | true, some x => fillNotice k.fill fill x
      | true, none => []
      | false, _ => []
    let after : Container :=
      { k with cfg := cfg, hasPending := k.hasPending && (s.depositAt row.toNat).isNone,
               estimate := if same then k.estimate else none,
               suspect := if same then k.suspect else none, fill := fill }
    exec .loadContainerLoad s =
      .next ((((base.writeContainer row.toNat after).raiseAll row.toNat notes).tell row.toNat
          k).replied tag 0x11 .accepted
        (row :: match after.estimate with
          | some x => 1 :: (be16 x ++ [fill.code])
          | none => [0, 0, 0, 0])).endEvent

/-- LOAD CONTAINER's checks (R5). The ranges of a configuration that its first check takes, but for the
loading of the stream: each field's own, Z at most D − 200, Tw below Tf, Hy below Tw, and the residue
below Tw − Hy. With action LOAD the request is refused, and writes nothing, by the first of its checks
that fails, where every read is good: RANGE for a field or the stream, STATE for the station or the
slot, STATE for a container that is LIFTING, STALLED or assigned. The octets that grant-when-unknown has
are log entry 6's. -/
def Obligations.LoadContainerRefusals : Prop :=
  (∀ c : ContainerConfig, c.inRange = true ↔
     c.stream ≤ 7 ∧ (500 ≤ c.capacity ∧ c.capacity ≤ 5000) ∧ (500 ≤ c.depth ∧ c.depth ≤ 4000) ∧
     (100 ≤ c.deadZone ∧ c.deadZone ≤ 600) ∧ (10 ≤ c.hatchVolume ∧ c.hatchVolume ≤ 200) ∧
     (1 ≤ c.unitCost ∧ c.unitCost ≤ 4) ∧ c.zone ≤ 7 ∧ (1000 ≤ c.warn ∧ c.warn ≤ 9800) ∧
     (1000 ≤ c.full ∧ c.full ≤ 9800) ∧ c.hysteresis ≤ 1000 ∧ (1 ≤ c.gain ∧ c.gain ≤ 16) ∧
     (500 ≤ c.spikeLimit ∧ c.spikeLimit ≤ 10000) ∧ c.qualityMin ≤ 15 ∧ c.residue ≤ 2000 ∧
     (c.deadZone : Int) ≤ (c.depth : Int) - 200 ∧ c.warn < c.full ∧ c.hysteresis < c.warn ∧
     (c.residue : Int) < (c.warn : Int) - (c.hysteresis : Int)) ∧
  ∀ (s : State) (tag row : Octet) (fields : List Octet) (cfg : ContainerConfig) (grant : Octet)
    (e : Station), s.Settled →
    s.Carries tag (0x11 :: row :: 0 :: fields) → parseConfig fields = some (cfg, grant) →
    (s.streamRow cfg.stream).bad = false →
    s.stationRow (rowStation row.toNat) = Row.good e →
    (s.containerRow row.toNat).bad = false →
    ((1 < grant.toNat ∨ cfg.inRange = false ∨ (s.streamRow cfg.stream).data.loaded = false) →
      exec .loadContainerLoad s = .next (s.replied tag 0x11 .range [])) ∧
    (grant.toNat ≤ 1 → cfg.inRange = true → (s.streamRow cfg.stream).data.loaded = true →
      (e.loaded = false ∨ e.count ≤ rowSlot row.toNat ∨
        ((s.container row.toNat).loaded = true ∧
          ((s.container row.toNat).service = .lifting ∨
            (s.container row.toNat).service = .stalled ∨
            (s.container row.toNat).assignment.isSome = true))) →
      exec .loadContainerLoad s = .next (s.replied tag 0x11 .state []))

/-- LOAD CONTAINER with action UNLOAD on an entry read good (R9): refused STATE while assigned or
LIFTING; otherwise the row holds the unloaded values (those no rule gives are log entry 5's) and is in no
list, the others keeping their order. The deposit it held, if any, has left the list. -/
def Obligations.UnloadClearsRow : Prop :=
  ∀ (s : State) (tag row : Octet), s.Settled → s.Carries tag [0x11, row, 1] →
    (s.containerRow row.toNat).bad = false →
    ((s.container row.toNat).assignment.isSome = true ∨
      (s.container row.toNat).service = .lifting →
      exec .loadContainerUnload s = .next (s.replied tag 0x11 .state [])) ∧
    ((s.container row.toNat).assignment = none → (s.container row.toNat).service ≠ .lifting →
      (s.container row.toNat).loaded = false →
      exec .loadContainerUnload s = .next (s.replied tag 0x11 .accepted [])) ∧
    ((s.container row.toNat).assignment = none → (s.container row.toNat).service ≠ .lifting →
      (s.container row.toNat).loaded = true →
      ∃ t, exec .loadContainerUnload s = .next t ∧
        t.containerRow row.toNat = Row.good Container.unloaded ∧
        t.dispatch = { s.dispatch with
          list := s.dispatch.list.filter (· ≠ row.toNat) } ∧
        t.deposits = s.deposits.eraseP (fun d => d.row = row.toNat) ∧
        (s.depositAt row.toNat = none → t.cards = s.cards ∧ t.notices = s.notices) ∧
        (∀ d, s.depositAt row.toNat = some d → s.Holds d →
          t.cards = (s.returned d).cards ∧ t.notices = s.notices) ∧
        (∀ r, r ≠ row.toNat → t.containerRow r = s.containerRow r) ∧
        t.mgmt = (s.replied tag 0x11 .accepted []).mgmt ∧
        { t with containers := s.containers, dispatch := s.dispatch, deposits := s.deposits,
                 cards := s.cards, notices := s.notices, capture := s.capture,
                 mgmt := s.mgmt } = s)

/-- SET CONTAINER SERVICE on an entry read good. OUT on a loaded one (R11): no deposit, no assignment, no
timer, no estimate, OUT OF SERVICE and in no list, with no notice but TICKET COMPLETE where a HANDED
ticket loses its last PLANNED stop (R105); the configuration, flags and counts stay, and so does every
other container; the reply carries the service state before. IN (R12): from OUT OF SERVICE the container
is IN SERVICE, its estimate still absent; from any other state the request is refused STATE with the state
held. Both directions are refused STATE on an unloaded row, without data (log entry 8), and a direction
beyond the two is refused RANGE, whatever the row reads as (R163), by whichever of the two commands
carries the request out (log entry 21). -/
def Obligations.ServiceOutAndIn : Prop :=
  (∀ (s : State) (tag row : Octet), s.Settled → s.Carries tag [0x12, row, 0] →
     (s.containerRow row.toNat).bad = false → (s.container row.toNat).loaded = true →
     ∃ t, exec .setContainerServiceOut s = .next t ∧
       t.containerRow row.toNat = Row.good
         { s.container row.toNat with
           service := .outOfService
           estimate := none
           fill := .none
           suspect := none
           hasPending := false
           assignment := none
           liftTimer := none
           liftStage := .none } ∧
       t.dispatch = { s.dispatch with list := s.dispatch.list.filter (· ≠ row.toNat) } ∧
       t.deposits = s.deposits.eraseP (fun d => d.row = row.toNat) ∧
       ((∀ d, s.depositAt row.toNat = some d → (s.cardRow d.cardRow).bad = false) →
         t.capture = s.capture ∧
         ((s.container row.toNat).assignment = none → t.notices = s.notices) ∧
         ∀ n, (s.container row.toNat).assignment = some n →
           let stops := endStop row.toNat .skipped none (s.ticket n).stops
           t.notices =
             if (s.ticket n).state = .handed ∧ ∀ p ∈ stops, p.status ≠ .planned then
               (s.raise .ticketComplete n (be16 (s.ticket n).number ++
                 [octet (stops.countP fun p => p.status = .done),
                   octet (stops.countP fun p => p.status = .skipped)])).notices
             else s.notices) ∧
       (∀ r, r ≠ row.toNat → t.containerRow r = s.containerRow r) ∧
       (s.depositAt row.toNat = none → t.cards = s.cards) ∧
       (∀ d, s.depositAt row.toNat = some d → s.Holds d → t.cards = (s.returned d).cards) ∧
       (∀ slot, some slot ≠ (s.container row.toNat).assignment → t.ticket slot = s.ticket slot) ∧
       (∀ n, (s.container row.toNat).assignment = some n →
         let w := s.ticket n
         let stops := endStop row.toNat .skipped none w.stops
         t.ticket n = { w with
           stops := stops
           state := if w.state = .handed ∧ ∀ p ∈ stops, p.status ≠ .planned then .complete
             else w.state }) ∧
       t.mgmt = (s.replied tag 0x12 .accepted [(s.container row.toNat).service.code]).mgmt ∧
       { t with containers := s.containers, dispatch := s.dispatch, deposits := s.deposits,
                tickets := s.tickets, cards := s.cards, notices := s.notices,
                capture := s.capture, mgmt := s.mgmt } = s) ∧
  (∀ (s : State) (tag row : Octet), s.Settled → s.Carries tag [0x12, row, 1] →
    (s.containerRow row.toNat).bad = false → (s.container row.toNat).loaded = true →
    ((s.container row.toNat).service ≠ .outOfService →
      exec .setContainerServiceIn s =
        .next (s.replied tag 0x12 .state [(s.container row.toNat).service.code])) ∧
    ((s.container row.toNat).service = .outOfService →
      (s.container row.toNat).estimate = none → row.toNat ∉ s.dispatch.list →
      ∃ t, exec .setContainerServiceIn s = .next t ∧
        (∀ r, t.containerRow r =
          if r = row.toNat then Row.good { s.container row.toNat with service := .inService }
          else s.containerRow r) ∧
        { t with containers := s.containers } = s.replied tag 0x12 .accepted [0])) ∧
  (∀ (s : State) (tag row direction : Octet), s.Settled →
    s.Carries tag [0x12, row, direction] → 1 < direction.toNat →
    exec .setContainerServiceOut s = .next (s.replied tag 0x12 .range []) ∧
    exec .setContainerServiceIn s = .next (s.replied tag 0x12 .range [])) ∧
  ∀ (s : State) (tag row direction : Octet) (cmd : Instr), s.Settled →
    s.Carries tag [0x12, row, direction] →
    (direction = 0 ∧ cmd = .setContainerServiceOut ∨
      direction = 1 ∧ cmd = .setContainerServiceIn) →
    (s.containerRow row.toNat).bad = false → (s.container row.toNat).loaded = false →
    exec cmd s = .next (s.replied tag 0x12 .state [])

/-- CLEAR CONTAINER FLAGS and CLEAR STATION ERRORS on an entry that reads good: refused STATE on an
unloaded row or an ABSENT entry, the second RANGE outside stations 1 to 64; else the named flags are
cleared and the others kept, the counts zeroed when asked, and nothing else changed. The replies
carry the flags after, and for a station its counts before (R14, R155). A request whose yes/no octet (log
entry 6) lies beyond the two is refused RANGE, whatever the entry reads as (R163). -/
def Obligations.FlagsAreCleared : Prop :=
  (∀ (s : State) (tag x named count : Octet), s.Settled → 1 < count.toNat →
    (s.Carries tag [0x14, x, named, count] →
      exec .clearContainerFlags s = .next (s.replied tag 0x14 .range [])) ∧
    (s.Carries tag [0x04, x, named, count] →
      exec .clearStationErrors s = .next (s.replied tag 0x04 .range []))) ∧
  (∀ (s : State) (tag row named count : Octet), s.Settled →
    s.Carries tag [0x14, row, named, count] → count = 0 ∨ count = 1 →
    (s.containerRow row.toNat).bad = false →
    ((s.container row.toNat).loaded = true →
      ∃ t, exec .clearContainerFlags s = .next t ∧
        (∀ r, t.containerRow r =
          if r = row.toNat then Row.good
            { s.container row.toNat with
              flags := (s.container row.toNat).flags &&& ~~~named
              rejected := if count = 0 then 0 else (s.container row.toNat).rejected }
          else s.containerRow r) ∧
        { t with containers := s.containers } =
          s.replied tag 0x14 .accepted [(s.container row.toNat).flags &&& ~~~named]) ∧
    ((s.container row.toNat).loaded = false →
      exec .clearContainerFlags s = .next (s.replied tag 0x14 .state []))) ∧
  ∀ (s : State) (tag addr named counts : Octet), s.Settled →
    s.Carries tag [0x04, addr, named, counts] → counts.toNat ≤ 1 →
    let e := s.station addr.toNat
    (addr.toNat = 0 ∨ 64 < addr.toNat →
      exec .clearStationErrors s = .next (s.replied tag 0x04 .range [])) ∧
    (1 ≤ addr.toNat → addr.toNat ≤ 64 → (s.stationRow addr.toNat).bad = false →
      (e.loaded = false → exec .clearStationErrors s = .next (s.replied tag 0x04 .state [])) ∧
      (e.loaded = true →
        ∃ t, exec .clearStationErrors s = .next t ∧
          (∀ a, t.stationRow a =
            if a = addr.toNat then
              { data := { e with errors := e.errors &&& ~~~named,
                                 lateAnswers := if counts = 0 then 0 else e.lateAnswers,
                                 discarded := if counts = 0 then 0 else e.discarded },
                bad := false }
            else s.stationRow a) ∧
          { t with stations := s.stations } = s.replied tag 0x04 .accepted
            ((e.errors &&& ~~~named) :: (be16 e.lateAnswers ++ be16 e.discarded))))

/-! ### Cards -/

/-- LOAD SERIES: refused RANGE outside the ranges, valid or not; else the entry is written whole with the
fields as given and reported, and no Card Row is touched; valid no withdraws the series (R42). LOAD
WINDOW likewise (R43). Yes is 0 and no is 1 (log entry 6). -/
def Obligations.SeriesAndWindowLoaded : Prop :=
  (∀ (s : State) (tag n v b o bh bl sh sl : Octet),
    s.Carries tag [0x20, n, v, b, o, bh, bl, sh, sl] →
    (n = 255 ∨ 8191 < u16 bh bl ∨ u16 sh sl = 0 ∨ 8192 < u16 sh sl ∨
        8192 < u16 bh bl + u16 sh sl ∨ 1 < v.toNat ∨ 1 < b.toNat ∨ 1 < o.toNat →
      exec .loadSeries s = .next (s.replied tag 0x20 .range [])) ∧
    (n ≠ 255 → u16 bh bl ≤ 8191 → 1 ≤ u16 sh sl → u16 sh sl ≤ 8192 →
      u16 bh bl + u16 sh sl ≤ 8192 → v.toNat ≤ 1 → b.toNat ≤ 1 → o.toNat ≤ 1 →
      ∃ t, exec .loadSeries s = .next t ∧
        (∀ k, t.seriesRow k =
          if k = n.toNat then
            { data := { valid := v = 0, barred := b = 0, onlineOnly := o = 0, base := u16 bh bl,
                        span := u16 sh sl }, bad := false }
          else s.seriesRow k) ∧
        { t with series := s.series } =
          s.replied tag 0x20 .accepted [n, v, b, o, bh, bl, sh, sl])) ∧
  (∀ (e : SeriesEntry) (serial : Nat),
    ({ e with valid := false } : SeriesEntry).resolve serial = .refuse .unknownSeries ∧
    (e.barred = false → serial < e.span →
      ({ e with valid := true } : SeriesEntry).resolve serial =
        .row (e.base + serial) e.onlineOnly)) ∧
  ∀ (s : State) (tag bh bl sh sl o : Octet), s.Carries tag [0x21, bh, bl, sh, sl, o] →
    (8191 < u16 bh bl ∨ u16 sh sl = 0 ∨ 8192 < u16 sh sl ∨ 8192 < u16 bh bl + u16 sh sl ∨
        1 < o.toNat →
      exec .loadWindow s = .next (s.replied tag 0x21 .range [])) ∧
    (u16 bh bl ≤ 8191 → 1 ≤ u16 sh sl → u16 sh sl ≤ 8192 → u16 bh bl + u16 sh sl ≤ 8192 →
      o.toNat ≤ 1 →
      exec .loadWindow s =
        .next (({ s with window := { data := { base := u16 bh bl, span := u16 sh sl,
                                               onlineOnly := o = 0 },
                                     bad := false } } : State).replied tag 0x21 .accepted
          [bh, bl, sh, sl, o]))

/-- LOAD CARDS and ADJUST BALANCE on rows that read good. LOAD CARDS (R49, R50): refused RANGE with the
position of the first record out of range, refused BUSY with the row of the first record that empties a
row holding reserved units, and no record written; otherwise every row is as the last record that names it
has it, its reserved units and CLAMPED kept. ADJUST BALANCE (R52): refused RANGE above row 8191 and STATE
on an EMPTY row; otherwise the balance takes the sum within −255 and 32767, and a zero-period flag of yes
zeroes the period deposits count and clears CLAMPED; a flag beyond yes and no is refused RANGE, whatever
the row reads as (R163). The single octets of the replies are log entry 8's, but for CLAMPED, which is log
entry 7's, and the zero-period flag log entry 6's. -/
def Obligations.CardRowsLoadedAndAdjusted : Prop :=
  (∀ (s : State) (tag count : Octet) (rest : List Octet) (rs : List CardRecord),
     s.Carries tag (0x22 :: count :: rest) → 1 ≤ count.toNat → count.toNat ≤ 8 →
     parseRecords count.toNat rest = some rs →
     (∀ r ∈ rs, (s.cardRow r.row).bad = false) →
     let fits (r : CardRecord) : Bool :=
       r.row ≤ 8191 && r.state.toNat ≤ 3 && -255 ≤ r.balance && r.balance ≤ 32767
     let empties (r : CardRecord) : Bool := r.state = 0 && 0 < (s.card r.row).reserved
     (∀ i r, rs[i]? = some r → fits r = false → (∀ j q, j < i → rs[j]? = some q → fits q = true) →
       exec .loadCards s = .next (s.replied tag 0x22 .range [octet (i + 1)])) ∧
     ((∀ r ∈ rs, fits r = true) → ∀ r, rs.find? empties = some r →
       exec .loadCards s = .next (s.replied tag 0x22 .busy (be16 r.row))) ∧
     ((∀ r ∈ rs, fits r = true) → (∀ r ∈ rs, empties r = false) →
       ∃ t, exec .loadCards s = .next t ∧
         (∀ row, t.cardRow row =
           match rs.reverse.find? (fun r => r.row = row) with
           | some r =>
             { data := { state := (parseCardState r.state).getD .empty,
                         streamRights := r.streamRights, zoneRights := r.zoneRights,
                         balance := r.balance, limit := r.limit, reserved := (s.card row).reserved,
                         periodDeposits := r.periodDeposits, clamped := (s.card row).clamped },
               bad := false }
           | none => s.cardRow row) ∧
         { t with cards := s.cards } = s.replied tag 0x22 .accepted [count])) ∧
  ∀ (s : State) (tag rh rl ah al zero : Octet), s.Carries tag [0x23, rh, rl, ah, al, zero] →
    (1 < zero.toNat → exec .adjustBalance s = .next (s.replied tag 0x23 .range [])) ∧
    (zero.toNat ≤ 1 →
    let row := u16 rh rl
    let c := s.card row
    let sum := c.balance + (BitVec.ofNat 16 (u16 ah al)).toInt
    let after := max (-255) (min sum 32767)
    let period := if zero = 0 then 0 else c.periodDeposits
    (8191 < row → exec .adjustBalance s = .next (s.replied tag 0x23 .range [])) ∧
    (row ≤ 8191 → (s.cardRow row).bad = false → c.state = .empty →
      exec .adjustBalance s = .next (s.replied tag 0x23 .state [])) ∧
    (row ≤ 8191 → (s.cardRow row).bad = false → c.state ≠ .empty →
      ∃ t, exec .adjustBalance s = .next t ∧
        (∀ r, t.cardRow r =
          if r = row then
            { data := { c with balance := after, periodDeposits := period,
                               clamped := if zero = 0 then false else c.clamped }, bad := false }
          else s.cardRow r) ∧
        { t with cards := s.cards } = s.replied tag 0x23 .accepted
          ([rh, rl] ++ be16s c.balance ++ be16s after ++
            [if sum < -255 then 0 else if 32767 < sum then 2 else 1, octet c.reserved] ++
            be16 period ++ [if c.clamped then 1 else 0])))

/-! ### Reads -/

/-- READ CONTAINER, READ STATION, READ CARD, READ TICKET and READ JOURNAL, where every row read is good,
change nothing but the REPLY (R13, R155, R54, R109, R86). What each carries is written out; the orders are
the spec's, but for the places log entry 8 names, the widths log entry 8's, the yes/no octets log entry
6's, that of CLAMPED log entry 7's, and the available units of a row beyond them log entry 14's. -/
def Obligations.ReadsChangeNothing : Prop :=
  ∀ (s : State) (tag x : Octet), s.Settled →
    let left (expiry : Word32) : Nat :=
      if (s.seconds - expiry).toNat < 2147483648 then 0 else (expiry - s.seconds).toNat
    (s.Carries tag [0x13, x] → (s.containerRow x.toNat).bad = false →
      (s.stationRow (rowStation x.toNat)).bad = false →
      let reach : Octet := if (s.station (rowStation x.toNat)).state = .inService then 0 else 1
      ((s.container x.toNat).loaded = false →
        exec .readContainer s = .next (s.replied tag 0x13 .accepted [x, 1, reach])) ∧
      ((s.container x.toNat).loaded = true →
        exec .readContainer s =
          let c := s.container x.toNat
          let k := c.cfg
          .next (s.replied tag 0x13 .accepted ([x, 0, reach] ++
            ([octet k.stream] ++ be16 k.capacity ++ be16 k.depth ++ be16 k.deadZone ++
              [octet k.hatchVolume, octet k.unitCost, octet k.zone] ++ be16 k.warn ++ be16 k.full ++
              be16 k.hysteresis ++ [octet k.gain] ++ be16 k.spikeLimit ++ [octet k.qualityMin] ++
              be16 k.residue ++ [if k.grantUnknown then 0 else 1, k.reportMask]) ++
            [c.service.code, c.liftStage.code] ++ be16 ((c.liftTimer.map left).getD 0) ++
            be16 (c.estimate.getD 65535) ++ [c.fill.code] ++
            (match c.suspect with
              | some d => [1, d.code]
              | none => [0, 0]) ++
            (match s.depositAt x.toNat with
              | some d => 1 :: (cardOctets d.card ++ be32 d.expiry)
              | none => [0, 0, 0, 0, 0, 0, 0, 0]) ++
            [octet (c.assignment.getD 255)] ++
            (if x.toNat ∈ s.dispatch.list then 1 :: be32 c.joinSeq else [0, 0, 0, 0, 0]) ++
            [c.flags] ++ be16 c.deposits ++ [octet c.rejected])))) ∧
    (s.Carries tag [0x03, x] →
      (x.toNat = 0 ∨ 64 < x.toNat → exec .readStation s = .next (s.replied tag 0x03 .range [])) ∧
      (1 ≤ x.toNat → x.toNat ≤ 64 → (s.stationRow x.toNat).bad = false →
        ((s.station x.toNat).loaded = false →
          exec .readStation s = .next (s.replied tag 0x03 .accepted [x, 1, 0])) ∧
        ((s.station x.toNat).loaded = true →
          let e := s.station x.toNat
          exec .readStation s =
            .next (s.replied tag 0x03 .accepted ([x, 0, octet e.count] ++ be16 e.sampleInterval ++
              be16 e.deadline ++
              [e.state.code, octet e.misses, octet e.attempts, if e.awaiting then 0 else 1] ++
              (match e.lastAnnounce with
                | some m => [1, m.model, m.count]
                | none => [0, 0, 0]) ++
              [e.errors] ++ be16 e.lateAnswers ++ be16 e.discarded ++
              [octet ((List.range 4).countP fun slot => (s.container (rowOf x.toNat slot)).loaded),
                octet (s.deposits.countP fun d => d.row / 4 + 1 = x.toNat)]))))) ∧
    (∀ y, s.Carries tag [0x24, x, y] →
      (8191 < u16 x y → exec .readCard s = .next (s.replied tag 0x24 .range [])) ∧
      (u16 x y ≤ 8191 → (s.cardRow (u16 x y)).bad = false →
        let c := s.card (u16 x y)
        exec .readCard s = .next (s.replied tag 0x24 .accepted
          ([x, y, c.state.code, c.streamRights, c.zoneRights] ++ be16s c.balance ++
            [octet c.limit, octet c.reserved] ++ be16 c.periodDeposits ++
            [if c.clamped then 1 else 0] ++ availableOctets (c.balance - c.reserved) ++
            [octet (s.deposits.countP fun d => d.cardRow = u16 x y), 0])) ∧
        (-32768 ≤ c.balance - c.reserved →
          availableOctets (c.balance - c.reserved) = be16s (c.balance - c.reserved)))) ∧
    (s.Carries tag [0x33, x] →
      (15 < x.toNat → exec .readTicket s = .next (s.replied tag 0x33 .range [])) ∧
      (x.toNat ≤ 15 →
        let ring := [octet s.dispatch.fillIndex, octet s.dispatch.dispatchIndex,
            if s.running then 0 else 1] ++ be16 s.dispatch.list.length ++
          be16 (s.dispatch.list.countP fun row => (s.container row).fill = .full) ++
          be16 s.dispatch.missedFull
        ((s.ticket x.toNat).state = .free →
          exec .readTicket s = .next (s.replied tag 0x33 .accepted (ring ++ [0]))) ∧
        ((s.ticket x.toNat).state ≠ .free →
          let k := s.ticket x.toNat
          exec .readTicket s = .next (s.replied tag 0x33 .accepted (ring ++ [k.state.code] ++
            be16 k.number ++ [octet k.stream] ++ be16 k.capacity ++ be16 k.remaining ++
            [octet k.maxStops] ++ be16 k.minVolume ++ [octet k.hold] ++
            (match k.cause with
              | some c => [1, c.code]
              | none => [0, 0]) ++
            (match k.holdStart with
              | some h => 1 :: be32 h
              | none => [0, 0, 0, 0, 0]) ++
            octet k.stops.length ::
            (k.stops.flatMap fun p => [octet p.row] ++ be16 p.volume ++ [p.status.code] ++
              match p.mass with
              | some m => 1 :: be16 m
              | none => [0, 0, 0]) ++
            (match k.holdStart with
              | some h =>
                if x.toNat = s.dispatch.dispatchIndex ∧ k.state = .opened ∧ k.hold ≠ 0 then
                  1 :: be16 (left (h + BitVec.ofNat 32 (k.hold * 60)))
                else [0, 0, 0]
              | none => [0, 0, 0])))))) ∧
    (s.Carries tag [0x40, x] →
      (x.toNat = 0 ∨ 8 < x.toNat → exec .readJournal s = .next (s.replied tag 0x40 .range [])) ∧
      (1 ≤ x.toNat → x.toNat ≤ 8 → (∀ r ∈ s.journal.records.take x.toNat, r.bad = false) →
        exec .readJournal s = .next (s.replied tag 0x40 .accepted
          (be16 s.journal.records.length ++ be32 s.journal.counter ++
            octet (min x.toNat s.journal.records.length) ::
            (s.journal.records.take x.toNat).flatMap fun r =>
              be32 r.data.seq ++ (if r.data.stamp.isSome then 1 else 0) ::
                (cardOctets r.data.card ++ [octet r.data.row, octet r.data.units] ++
                  be16s r.data.balance ++
                  (match r.data.stamp with
                    | some m => be16 m.day ++ be16 m.minute
                    | none => [0, 0, 0, 0]))))))

/-! ### Tickets and the Journal -/

/-- GIVE TICKET: refused by the first of R98's checks that fails; accepted while RUNNING the ticket waits
OPEN in the slot at the fill index, which moves on (R99); accepted while SUSPENDED it becomes current,
its hold starts, and its pass is run (R97, R99). With nothing in the list that pass hands it back for
CAPACITY where its minimum volume is above its capacity, else for NO HOLD where its hold is 0, and it
is COMPLETE at once (R102, R103); else it stays current. -/
def Obligations.GiveTicketTakesSlot : Prop :=
  ∀ (s : State) (tag nh nl stream ch cl stops vh vl hold : Octet), s.Settled →
    s.Carries tag [0x30, nh, nl, stream, ch, cl, stops, vh, vl, hold] →
    let capacity := u16 ch cl
    let given : Ticket :=
      { state := .opened, number := u16 nh nl, stream := stream.toNat, capacity := capacity,
        remaining := capacity, maxStops := stops.toNat, minVolume := u16 vh vl,
        hold := hold.toNat, cause := none, holdStart := none, stops := [] }
    let fits := stream.toNat ≤ 7 ∧ 100 ≤ capacity ∧ capacity ≤ 60000 ∧ 1 ≤ stops.toNat ∧
      stops.toNat ≤ 24 ∧ u16 vh vl ≤ 5000
    let slot := s.dispatch.fillIndex
    (¬ fits → exec .giveTicket s = .next (s.replied tag 0x30 .range [])) ∧
    (fits → (s.streamRow stream.toNat).bad = false →
      ((s.streamRow stream.toNat).data.loaded = false →
        exec .giveTicket s = .next (s.replied tag 0x30 .range [])) ∧
      ((s.streamRow stream.toNat).data.loaded = true → (s.ticket slot).state ≠ .free →
        exec .giveTicket s = .next (s.replied tag 0x30 .ringFull [])) ∧
      ((s.streamRow stream.toNat).data.loaded = true → (s.ticket slot).state = .free →
        (s.running = true →
          ∃ t, exec .giveTicket s = .next t ∧
            (∀ k, t.ticket k = if k = slot then given else s.ticket k) ∧
            { t with tickets := s.tickets } =
              ({ s with dispatch := { s.dispatch with fillIndex := (slot + 1) % 16 } } :
                State).replied tag 0x30 .accepted [octet slot, 0]) ∧
        (s.running = false → s.dispatch.dispatchIndex = slot →
          let current : Ticket := { given with holdStart := some s.seconds }
          let u := ({ s with dispatch := { s.dispatch with
            fillIndex := (slot + 1) % 16, passDue := true } } : State).putTicket slot current
          exec .giveTicket s = .next (u.endEvent.replied tag 0x30 .accepted
            [octet slot, if u.endEvent.running then 0 else 1]) ∧
          (s.dispatch.list = [] → u16 vh vl ≤ capacity → 1 ≤ hold.toNat →
            ∃ t, exec .giveTicket s = .next t ∧
              (∀ k, t.ticket k = if k = slot then current else s.ticket k) ∧
              { t with tickets := s.tickets } =
                ({ s with dispatch := { s.dispatch with fillIndex := (slot + 1) % 16 } } :
                  State).replied tag 0x30 .accepted [octet slot, 0]) ∧
          (s.dispatch.list = [] → capacity < u16 vh vl ∨ hold = 0 →
            (s.ticket ((slot + 1) % 16)).state ≠ .opened →
            let cause : HandBackCause := if capacity < u16 vh vl then .capacity else .noHold
            ∃ t, exec .giveTicket s = .next t ∧
              (∀ k, t.ticket k =
                if k = slot then { current with state := .complete, cause := some cause }
                else s.ticket k) ∧
              { t with tickets := s.tickets } =
                ((({ s with dispatch := { s.dispatch with
                    fillIndex := (slot + 1) % 16, dispatchIndex := (slot + 1) % 16 } } :
                  State).raise .ticketReady slot [nh, nl, 0, cause.code]).raise .ticketComplete slot
                    [nh, nl, 0, 0]).replied tag 0x30 .accepted [octet slot, 1]))))

/-- RECALL TICKET: refused RANGE above slot 15 and STATE on a FREE or COMPLETE slot; while SUSPENDED, or
on a ticket that is not current and has no PLANNED stop, the PLANNED stops become SKIPPED, their
containers lose their assignment, and the ticket is COMPLETE with cause RECALLED if it was OPEN and its
own cause if it was HANDED; the current ticket, with nothing planned and no OPEN ticket behind it, leaves
the dispatch index at the fill index (R106, R107, R97). In every form the containers are told of in stop
order, by R94, once the ticket is COMPLETE; the recall of the current ticket then moves the index to the
next OPEN ticket, which becomes current, or to the fill index; and a pass that is due by then is run
before the reply (R99). -/
def Obligations.RecallTicketSkipsStops : Prop :=
  ∀ (s : State) (tag slot : Octet), s.Settled → s.Carries tag [0x31, slot] →
    let k := s.ticket slot.toNat
    let rows := (k.stops.filter fun p => p.status = .planned).map (·.row)
    (15 < slot.toNat → exec .recallTicket s = .next (s.replied tag 0x31 .range [])) ∧
    (slot.toNat ≤ 15 → k.state = .free ∨ k.state = .complete →
      exec .recallTicket s = .next (s.replied tag 0x31 .state [])) ∧
    (slot.toNat ≤ 15 → s.running = true → s.dispatch.dispatchIndex = slot.toNat →
      s.dispatch.fillIndex < 16 → rows = [] → (∀ m, m ≠ slot.toNat → (s.ticket m).state ≠ .opened) →
      ∃ t, exec .recallTicket s = .next t ∧
        (∀ n, t.ticket n =
          if n = slot.toNat then { k with state := .complete, cause := some .recalled }
          else s.ticket n) ∧
        t.dispatch = { s.dispatch with dispatchIndex := s.dispatch.fillIndex } ∧
        { t with tickets := s.tickets, dispatch := s.dispatch } =
          s.replied tag 0x31 .accepted [1, 0]) ∧
    (slot.toNat ≤ 15 → k.state = .opened ∨ k.state = .handed →
      s.running = false ∨ (s.dispatch.dispatchIndex ≠ slot.toNat ∧ rows = []) →
      ∃ t, exec .recallTicket s = .next t ∧
        (∀ n, t.ticket n =
          if n = slot.toNat then
            { k with state := .complete,
                     cause := if k.state = .opened then some .recalled else k.cause,
                     stops := k.stops.map fun p =>
                       if p.status = .planned then { p with status := .skipped } else p }
          else s.ticket n) ∧
        (∀ row, (t.container row).assignment =
          if row ∈ rows then none else (s.container row).assignment) ∧
        (∀ row, row ∉ rows → t.containerRow row = s.containerRow row) ∧
        t.dispatch.fillIndex = s.dispatch.fillIndex ∧
        t.dispatch.dispatchIndex = s.dispatch.dispatchIndex ∧
        t.notices = s.notices ∧
        { t with tickets := s.tickets, containers := s.containers, dispatch := s.dispatch } =
          s.replied tag 0x31 .accepted [k.state.code, octet rows.length]) ∧
    (slot.toNat ≤ 15 → k.state = .opened ∨ k.state = .handed →
      let unassigned := rows.foldl
        (fun u row => u.editContainer row fun c => { c with assignment := none }) s
      let ended := unassigned.putTicket slot.toNat
        { k with state := .complete,
                 cause := if k.state = .opened then some .recalled else k.cause,
                 stops := k.stops.map fun p =>
                   if p.status = .planned then { p with status := .skipped } else p }
      let told := rows.foldl (fun u row => u.tell row (u.container row)) ended
      let answered (u : State) : State :=
        u.endEvent.replied tag 0x31 .accepted [k.state.code, octet rows.length]
      (s.running = false ∨ s.dispatch.dispatchIndex ≠ slot.toNat →
        exec .recallTicket s = .next (answered told)) ∧
      (s.running = true → s.dispatch.dispatchIndex = slot.toNat → ∀ m j,
        let opened (x : Nat) : Bool := x != slot.toNat && (s.ticket x).state = .opened
        let rests (x : Nat) : Bool := opened x || x = s.dispatch.fillIndex
        1 ≤ j → j ≤ 16 → m = (slot.toNat + j) % 16 → rests m = true →
        (∀ i, 1 ≤ i → i < j → rests ((slot.toNat + i) % 16) = false) →
        exec .recallTicket s = .next (answered
          (if opened m then
            { told.putTicket m { s.ticket m with holdStart := some s.seconds } with
              dispatch := { told.dispatch with dispatchIndex := m, passDue := true } }
          else { told with dispatch := { told.dispatch with dispatchIndex := m } }))))

/-- RETIRE TICKET: refused RANGE above slot 15; a COMPLETE ticket becomes FREE with every field cleared,
and nothing else moves; a slot in any other state is refused STATE (R108). -/
def Obligations.RetireTicketFreesSlot : Prop :=
  ∀ (s : State) (tag slot : Octet), s.Carries tag [0x32, slot] →
    (15 < slot.toNat → exec .retireTicket s = .next (s.replied tag 0x32 .range [])) ∧
    (slot.toNat ≤ 15 → (s.ticket slot.toNat).state ≠ .complete →
      exec .retireTicket s = .next (s.replied tag 0x32 .state [])) ∧
    (slot.toNat ≤ 15 → (s.ticket slot.toNat).state = .complete →
      ∃ t, exec .retireTicket s = .next t ∧
        (∀ k, t.ticket k =
          if k = slot.toNat then
            { state := .free, number := 0, stream := 0, capacity := 0, remaining := 0,
              maxStops := 0, minVolume := 0, hold := 0, cause := none, holdStart := none,
              stops := [] }
          else s.ticket k) ∧
        { t with tickets := s.tickets } = s.replied tag 0x32 .accepted [])

/-- A hand-back, whatever its cause (R103): the current ticket is HANDED with its cause and TICKET READY,
or COMPLETE with TICKET COMPLETE as well where it holds no PLANNED stop; then the dispatch index moves
slot by slot to the first OPEN ticket, which becomes current, its hold starting and its pass due, or comes
to rest at the fill index (R97). HOLD_EXPIRY makes one with cause HOLD EXPIRED, and runs the pass it makes
due, once the current ticket's hold has run out (R104); before that, and where no hold runs, it does
nothing (log entry 1). -/
def Obligations.HoldExpiryHandsBack : Prop :=
  (∀ s : State, s.Settled →
    let k := s.currentTicket
    (s.running = false ∨ k.hold = 0 ∨ k.holdStart = none → exec .holdExpiry s = .next s) ∧
    ∀ start, s.running = true → 1 ≤ k.hold → k.holdStart = some start →
      let expiry := start + BitVec.ofNat 32 (k.hold * 60)
      (2147483648 ≤ (s.seconds - expiry).toNat → exec .holdExpiry s = .next s) ∧
      ((s.seconds - expiry).toNat < 2147483648 →
        exec .holdExpiry s = .next (s.handBack .holdExpired).endEvent)) ∧
  ∀ (s : State) (cause : HandBackCause) (m j : Nat),
    let n := s.dispatch.dispatchIndex
    let k := s.ticket n
    let opened (x : Nat) : Bool := x != n && (s.ticket x).state = .opened
    let rests (x : Nat) : Bool := opened x || x = s.dispatch.fillIndex
    n < 16 → 1 ≤ j → m = (n + j) % 16 → rests m = true →
    (∀ i, 1 ≤ i → i < j → rests ((n + i) % 16) = false) → j ≤ 16 →
    let planned := k.stops.any fun p => p.status = .planned
    let ready := s.raise .ticketReady n (be16 k.number ++ [octet k.stops.length, cause.code])
    let told :=
      if planned then ready
      else ready.raise .ticketComplete n (be16 k.number ++
        [octet (k.stops.countP fun p => p.status = .done),
          octet (k.stops.countP fun p => p.status = .skipped)])
    (∀ x, (s.handBack cause).ticket x =
      if x = n then { k with state := if planned then .handed else .complete, cause := some cause }
      else if x = m && opened m then { s.ticket m with holdStart := some s.seconds }
      else s.ticket x) ∧
    { s.handBack cause with tickets := s.tickets } =
      { told with dispatch := { s.dispatch with
          dispatchIndex := m, passDue := s.dispatch.passDue || opened m } }

/-- The Dispatch Unit is told of a container that stood as `was` before a change (R94). One that meets
R92's conditions joins the list with the next join sequence, or is placed afresh where its estimate or
fill state has changed, and makes a pass due; one that does not meet them leaves, the others keeping
their order. Its place is behind every entry more urgent than it and before the first that is less so:
FULL before WARN, then the higher estimate, then the earlier join (R93). A container that has become
FULL while SUSPENDED is counted (R95). -/
def Obligations.TellingKeepsList : Prop :=
  ∀ (s : State) (row : Nat) (was : Container),
    let c := s.container row
    let meets : Bool := c.loaded && c.service = .inService && c.estimate.isSome &&
      (c.fill = .warn || c.fill = .full) && c.assignment.isNone
    let list := s.dispatch.list
    let others := list.filter (· ≠ row)
    let counted : Dispatch := { s.dispatch with
      missedFull := if c.fill = .full && was.fill != .full && !s.running then
          min (s.dispatch.missedFull + 1) 65535
        else s.dispatch.missedFull }
    let t := s.tell row was
    let age (x : Nat) : Nat := (t.dispatch.joinCounter - (t.container x).joinSeq).toNat
    let full (x : Nat) : Bool := (t.container x).fill = .full
    let volume (x : Nat) : Nat := (t.container x).estimate.getD 0
    let urgent (x y : Nat) : Prop :=
      (full x = true ∧ full y = false) ∨ (full x = full y ∧
        (volume y < volume x ∨ (volume x = volume y ∧ age y < age x)))
    let placed : Prop := ∃ ahead behind,
      t.dispatch.list = ahead ++ row :: behind ∧ others = ahead ++ behind ∧
      (∀ x ∈ ahead, ¬ urgent row x) ∧ ∀ x, behind.head? = some x → urgent row x
    (row ∉ list → meets = false → t = { s with dispatch := counted }) ∧
    (row ∉ list → meets = true →
      let drawn := s.dispatch.joinCounter + 1
      (∀ r, t.containerRow r =
        if r = row then { data := { c with joinSeq := drawn }, bad := (s.containerRow row).bad }
        else s.containerRow r) ∧
      placed ∧
      { t with containers := s.containers } = { s with dispatch := { counted with
          joinCounter := drawn, passDue := true, list := t.dispatch.list } }) ∧
    (row ∈ list → meets = false → t = { s with dispatch := { counted with list := others } }) ∧
    (row ∈ list → meets = true →
      (c.estimate = was.estimate ∧ c.fill = was.fill → t = { s with dispatch := counted }) ∧
      (¬ (c.estimate = was.estimate ∧ c.fill = was.fill) →
        placed ∧
        t = { s with dispatch := { counted with passDue := true, list := t.dispatch.list } }))

/-- A pass. Its walk, entry by entry, over entries that read good, ends with the list or when the current
ticket's stops are full; a container of the ticket's stream whose dispatch volume is at least its
minimum and at most what remains is assigned and leaves the list, and any other is passed over (R100,
R34). At its end the first of three conditions hands the ticket back, for STOPS, CAPACITY or NO HOLD, or
it stays current (R102). A pass made due in an event is run at its end, for the ticket then current and
only while RUNNING, and after it the passes it makes due in turn (R99, R103). -/
def Obligations.PassAssignsFirstFit : Prop :=
  (∀ s : State, State.walk [] s = s) ∧
  (∀ (s : State) (row : Nat) (rows : List Nat), (s.containerRow row).bad = false →
     let n := s.dispatch.dispatchIndex
     let k := s.ticket n
     let c := s.container row
     let vol := (c.estimate.getD 0 * c.cfg.capacity + 9999) / 10000
     (k.maxStops ≤ k.stops.length → State.walk (row :: rows) s = s) ∧
     (k.stops.length < k.maxStops →
       ¬ (c.cfg.stream = k.stream ∧ k.minVolume ≤ vol ∧ vol ≤ k.remaining) →
       State.walk (row :: rows) s = State.walk rows s) ∧
     (k.stops.length < k.maxStops → c.cfg.stream = k.stream → k.minVolume ≤ vol →
       vol ≤ k.remaining →
       ∃ t, State.walk (row :: rows) s = State.walk rows t ∧
         (∀ m, t.ticket m =
           if m = n then
             { k with stops := k.stops ++ [{ row := row, volume := vol, status := .planned,
                                             mass := none }],
                      remaining := k.remaining - vol }
           else s.ticket m) ∧
         (∀ r, t.containerRow r =
           if r = row then { data := { c with assignment := some n }, bad := false }
           else s.containerRow r) ∧
         t.dispatch = { s.dispatch with list := s.dispatch.list.filter (· ≠ row) } ∧
         { t with tickets := s.tickets, containers := s.containers, dispatch := s.dispatch } = s)) ∧
  (∀ s : State,
    let w := State.walk s.dispatch.list s
    let k := w.currentTicket
    s.pass =
      if k.stops.length = k.maxStops then w.handBack .stops
      else if k.remaining < k.minVolume then w.handBack .capacity
      else if k.hold = 0 then w.handBack .noHold
      else w) ∧
  ∀ s : State,
    let taken : State := { s with dispatch := { s.dispatch with passDue := false } }
    s.endEvent = State.runPasses 17 s ∧
    ∀ left,
      (s.dispatch.passDue = false → State.runPasses (left + 1) s = s) ∧
      (s.dispatch.passDue = true → s.running = false → State.runPasses (left + 1) s = taken) ∧
      (s.dispatch.passDue = true → s.running = true →
        State.runPasses (left + 1) s = State.runPasses left taken.pass)

/-- RELEASE JOURNAL, by the distance of its sequence number from the counter: below the record count the
records up to it are removed; up to 2147483647 none; beyond that RANGE and none. The reply carries
the number released, the record count after and the counter, which is not changed (R87). -/
def Obligations.ReleaseJournalDropsRecords : Prop :=
  ∀ (s : State) (tag a b c d : Octet), s.Carries tag [0x41, a, b, c, d] →
    let distance := (s.journal.counter -
      BitVec.ofNat 32 (a.toNat * 16777216 + b.toNat * 65536 + c.toNat * 256 + d.toNat)).toNat
    let held := s.journal.records.length
    (distance < held → held ≤ 1024 →
      exec .releaseJournal s =
        .next (({ s with journal := { s.journal with
                    records := s.journal.records.drop (held - distance) } } : State).replied tag
          0x41 .accepted (be16 (held - distance) ++ be16 distance ++ be32 s.journal.counter))) ∧
    (held ≤ distance → distance ≤ 2147483647 →
      exec .releaseJournal s =
        .next (s.replied tag 0x41 .accepted (be16 0 ++ be16 held ++ be32 s.journal.counter))) ∧
    (2147483648 ≤ distance → held ≤ 1024 →
      exec .releaseJournal s =
        .next (s.replied tag 0x41 .range (be16 0 ++ be16 held ++ be32 s.journal.counter)))

/-! ### Stations -/

/-- LOAD STATION on an entry that reads good (R142): refused RANGE outside the ranges and STATE while a
slot at or beyond the new count holds a loaded container; otherwise the settings are written, the state is
CUT OFF on a DOWN segment and UNCONFIGURED else, misses and attempts are 0, the station leaves the
configure list, a send turn falls due on an idle segment (log entry 11), and flags, counts and
announcement are kept only if it was loaded; the look at those slots is no checked read (log entry 17).
REMOVE STATION (R143): refused RANGE outside 1 to 64; nothing changes at an ABSENT entry; a loaded one
goes back to its cold-reset values and leaves the configure list, and the reply carries how many loaded
containers are unloaded (R10): each row is cleared to the unloaded values (log entry 5) and leaves the
Emptying Request list; its deposit is released, the others keeping their places (R81, R48); its PLANNED
stop is SKIPPED, and a HANDED ticket left with none is COMPLETE, with TICKET COMPLETE, in row order
(R105). A Container Entry that reads faulty goes with them (log entry 13), a Card Row that reads faulty is
rebuilt (R57), the order of its notice (log entry 28) left unstated. The laws that every step keeps are
premises where they are needed. Every row of another station stays. -/
def Obligations.StationsLoadedAndRemoved : Prop :=
  (∀ (s : State) (tag addr count ih il dh dl : Octet), s.Settled →
     s.Carries tag [0x01, addr, count, ih, il, dh, dl] →
     let fits := 1 ≤ addr.toNat ∧ addr.toNat ≤ 64 ∧ 1 ≤ count.toNat ∧ count.toNat ≤ 4 ∧
       60 ≤ u16 ih il ∧ u16 ih il ≤ 3600 ∧ 500 ≤ u16 dh dl ∧ u16 dh dl ≤ 5000
     let e := s.station addr.toNat
     let g := segOf addr.toNat
     let beyond := ∃ slot, count.toNat ≤ slot ∧ slot < 4 ∧
       (s.container (rowOf addr.toNat slot)).loaded = true
     let after : StationState := if (s.seg g).state = .down then .cutOff else .unconfigured
     (¬ fits → exec .loadStation s = .next (s.replied tag 0x01 .range [])) ∧
     (fits → (s.stationRow addr.toNat).bad = false → e.loaded = true → beyond →
       exec .loadStation s = .next (s.replied tag 0x01 .state [])) ∧
     (fits → (s.stationRow addr.toNat).bad = false → ¬ (e.loaded = true ∧ beyond) →
       ∃ t, exec .loadStation s = .next t ∧
         (∀ a, t.stationRow a =
           if a = addr.toNat then
             { data := { loaded := true, count := count.toNat, sampleInterval := u16 ih il,
                         deadline := u16 dh dl, state := after, misses := 0, attempts := 0,
                         awaiting := false,
                         lastAnnounce := if e.loaded then e.lastAnnounce else none,
                         errors := if e.loaded then e.errors else 0,
                         lateAnswers := if e.loaded then e.lateAnswers else 0,
                         discarded := if e.loaded then e.discarded else 0 }, bad := false }
           else s.stationRow a) ∧
         { t with stations := s.stations } =
           (s.editSeg g fun x =>
             { x with cfgList := x.cfgList.filter (· ≠ addr.toNat),
                      turnDue := x.turnDue ||
                        (x.state = .up && x.window.isNone && x.pollOut.isNone) }).replied tag 0x01
             .accepted [addr, after.code])) ∧
  ∀ (s : State) (tag addr : Octet), s.Settled → s.Carries tag [0x02, addr] →
    let a := addr.toNat
    (a = 0 ∨ 64 < a → exec .removeStation s = .next (s.replied tag 0x02 .range [])) ∧
    (1 ≤ a → a ≤ 64 → (s.stationRow a).bad = false → (s.station a).loaded = false →
      exec .removeStation s = .next (s.replied tag 0x02 .accepted [0])) ∧
    (1 ≤ a → a ≤ 64 → (s.stationRow a).bad = false → (s.station a).loaded = true →
      ∃ u t, s.UnloadsStation a u ∧ exec .removeStation s = .next t ∧
        (∀ b, t.stationRow b =
          if b = a then
            { data := { loaded := false, count := 0, sampleInterval := 0, deadline := 0,
                        state := .absent, misses := 0, attempts := 0, awaiting := false,
                        lastAnnounce := none, errors := 0, lateAnswers := 0, discarded := 0 },
              bad := false }
          else s.stationRow b) ∧
        { t with stations := s.stations } =
          (u.editSeg (segOf a) fun x =>
            { x with cfgList := x.cfgList.filter (· ≠ a) }).replied tag 0x02 .accepted [octet
              ((List.range 4).countP fun slot => (s.container (rowOf a slot)).loaded)])

/-! ### Segments -/

/-- SET SEGMENT (R138): refused RANGE outside its ranges, refused BUSY unless polling is STOPPED, else the
bit rate and the reply timeout are written and LINE LOW cleared, whatever the segment state; the reply
carries LINE LOW as it stood, 1 or 0 (log entry 7), and the segment state (code: log entry 31). A line-low
measurement begins again (R139; log entry 24). -/
def Obligations.SetSegmentWhileStopped : Prop :=
  ∀ (s : State) (tag seg rh rl timeout : Octet), s.Carries tag [0x05, seg, rh, rl, timeout] →
    let rate := u16 rh rl
    let fits := seg.toNat ≤ 1 ∧ (rate = 9600 ∨ rate = 19200 ∨ rate = 38400) ∧
      5 ≤ timeout.toNat ∧ timeout.toNat ≤ 250
    let g : Seg := if seg = 0 then .a else .b
    let x := s.seg g
    (¬ fits → exec .setSegment s = .next (s.replied tag 0x05 .range [])) ∧
    (fits → x.polling ≠ .stopped → exec .setSegment s = .next (s.replied tag 0x05 .busy [])) ∧
    (fits → x.polling = .stopped →
      exec .setSegment s =
        .next ((s.editSeg g fun x =>
            { x with bitRate := rate, replyTimeout := timeout.toNat, lineLow := false,
                     lowMeasured := false }).replied tag 0x05 .accepted
          ([rh, rl, timeout, x.state.code, 2, if x.lineLow then 1 else 0] ++ be16 x.stray)))

/-- POLL CONTROL on stations that read good (R145's table): the four actions from every polling state, a
window counting as open while its POLL is on the line (log entry 9), START making a send turn due on an
idle segment (log entry 11); an undefined segment or action is refused RANGE, an undefined action by
whichever of the four commands carries the request out (log entry 21). The reply reports the segment after
the action, in R145's order (widths: log entry 8; codes of the segment states: log entry 31). -/
def Obligations.PollControlActions : Prop :=
  ∀ (s : State) (tag seg action : Octet), s.Settled → s.Carries tag [0x06, seg, action] →
    let g : Seg := if seg = 0 then .a else .b
    let x := s.seg g
    let open_ := x.window.isSome || x.pollOut.isSome
    let live : Prop := ∃ a ∈ segAddrs g, (s.station a).state ≠ .absent ∧
      (s.station a).state ≠ .cutOff
    let answer (y : Segment) : State :=
      (s.editSeg g fun _ => y).replied tag 0x06 .accepted
        ((match y.polling with
          | .running => [y.state.code, 0, 0, 0]
          | .stopping p => [y.state.code, 1, 1, p.code]
          | .stopped => [y.state.code, 2, 0, 0]) ++
          be16 y.cycleCount ++ [octet y.position] ++ be16 y.stray ++
          [octet y.answers.length, octet y.relays.length, octet y.cfgList.length])
    (∀ (code : Octet) (cmd : Instr),
      (code, cmd) ∈ ([(0, .pollControlNone), (1, .pollControlStopNow),
        (2, .pollControlStopAfterCycle), (3, .pollControlStart)] : List (Octet × Instr)) →
      (3 < action.toNat ∨ (action = code ∧ 1 < seg.toNat)) →
      exec cmd s = .next (s.replied tag 0x06 .range [])) ∧
    (seg.toNat ≤ 1 →
      (action = 0 → exec .pollControlNone s = .next (answer x)) ∧
      (action = 1 → exec .pollControlStopNow s = .next (answer
        (if x.polling = .stopped then x
         else if open_ then { x with polling := .stopping .window }
         else { x with polling := .stopped }))) ∧
      (action = 2 → (∀ a ∈ segAddrs g, (s.stationRow a).bad = false) →
        (x.polling ≠ .running → exec .pollControlStopAfterCycle s = .next (answer x)) ∧
        (x.polling = .running → open_ = true ∨ live →
          exec .pollControlStopAfterCycle s =
            .next (answer { x with polling := .stopping .cycle })) ∧
        (x.polling = .running → open_ = false → ¬ live →
          exec .pollControlStopAfterCycle s = .next (answer { x with polling := .stopped }))) ∧
      (action = 3 → exec .pollControlStart s = .next (answer
        (if x.polling = .running then x
         else { x with polling := .running,
                       turnDue := x.turnDue || (x.state = .up && !open_) }))))

/-! ### Expiries -/

/-- PENDING_EXPIRY, where the deposit law holds: every deposit whose expiry second is reached (log entry
15) leaves the list, its units are returned to its Card Row, its container's reference is cleared, and
PENDING EXPIRED is raised for each in list order (R79, R81, R48). A Card Row that reads faulty is rebuilt
at the first release that reads it, its fault captured and reported before that deposit's notice (R57). -/
def Obligations.PendingExpiryReleases : Prop :=
  ∀ s : State, s.Settled → s.depositLaw →
    let due := s.deposits.filter fun d => (s.seconds - d.expiry).toNat < 2147483648
    let left := s.deposits.filter fun d => 2147483648 ≤ (s.seconds - d.expiry).toNat
    let rebuilt (row : Nat) : CardRow :=
      let c := s.card row
      if (s.cardRow row).bad then
        { c with state := .blocked, balance := max (-255) c.balance,
                 clamped := c.clamped || c.balance < -255 }
      else c
    let reports (u : State) (d : Deposit) (i : Nat) : State :=
      if (s.cardRow d.cardRow).bad && !(due.take i).any fun x => x.cardRow = d.cardRow then
        (u.captureFault .card d.cardRow).raise .tableFault d.cardRow [4]
      else u
    let told : State := due.zipIdx.foldl (fun u p =>
      (reports u p.1 p.2).raise .pendingExpired p.1.row (cardOctets p.1.card ++ [octet p.1.units])) s
    ∃ t, exec .pendingExpiry s = .next t ∧
      t.deposits = left ∧
      (∀ row, t.cardRow row =
        if due.any fun d => d.cardRow = row then
          { data := { rebuilt row with reserved := unitsNaming left row }, bad := false }
        else s.cardRow row) ∧
      (∀ row, t.containerRow row =
        { data := { s.container row with
                    hasPending := (s.container row).hasPending && !due.any fun d => d.row = row },
          bad := (s.containerRow row).bad }) ∧
      t.notices = told.notices ∧ t.capture = told.capture ∧
      { t with deposits := s.deposits, cards := s.cards, containers := s.containers,
               notices := s.notices, capture := s.capture } = s

/-- FIRST_LIFT_EXPIRY and SECOND_LIFT_EXPIRY (R122, R123). On an entry that reads good the first leaves
the container STALLED with its timer restarted and raises LIFT STALLED; the second leaves it OUT OF
SERVICE with no estimate, its PLANNED stop SKIPPED, and raises CONTAINER OUT. On one that reads faulty an
expiry that is due is handled by R15 alone, whatever the service state and stage it is found with (log
entry 13). Where no such expiry is due nothing happens (log entries 1 and 15). -/
def Obligations.LiftTimerExpires : Prop :=
  (∀ (s : State) (row : Nat), s.Settled → (s.containerRow row).bad = true →
    let due := ∃ x, (s.container row).liftTimer = some x ∧ (s.seconds - x).toNat < 2147483648
    (due → exec (.firstLiftExpiry row) s = .next (s.readContainer row) ∧
      exec (.secondLiftExpiry row) s = .next (s.readContainer row)) ∧
    (¬ due → exec (.firstLiftExpiry row) s = .next s ∧ exec (.secondLiftExpiry row) s = .next s)) ∧
  ∀ (s : State) (row : Nat), s.Settled → (s.containerRow row).bad = false →
    let c := s.container row
    let due := ∃ x, c.liftTimer = some x ∧ (s.seconds - x).toNat < 2147483648
    (¬ (c.loaded = true ∧ c.service = .lifting ∧ c.liftStage = .first ∧ due) →
      exec (.firstLiftExpiry row) s = .next s) ∧
    (c.loaded = true → c.service = .lifting → c.liftStage = .first → due →
      exec (.firstLiftExpiry row) s =
        .next ((s.writeContainer row
            { c with service := .stalled, liftStage := .second,
                     liftTimer := some (s.seconds + BitVec.ofNat 32 (s.params.liftLimit * 60)) }).raise
          .liftStalled row [octet (c.assignment.getD 255)])) ∧
    (¬ (c.loaded = true ∧ c.service = .stalled ∧ c.liftStage = .second ∧ due) →
      exec (.secondLiftExpiry row) s = .next s) ∧
    (c.loaded = true → c.service = .stalled → c.liftStage = .second → due →
      row ∉ s.dispatch.list →
      ∃ t, exec (.secondLiftExpiry row) s = .next t ∧
        (∀ r, t.containerRow r =
          if r = row then
            { data := { c with service := .outOfService, estimate := none, fill := .none,
                               suspect := none, liftTimer := none, liftStage := .none,
                               assignment := none }, bad := false }
          else s.containerRow r) ∧
        (c.assignment = none →
          t.notices = (s.raise .containerOut row [255]).notices ∧ t.tickets = s.tickets) ∧
        (∀ n, c.assignment = some n →
          let k := s.ticket n
          let stops := endStop row .skipped none k.stops
          let done := k.state = .handed ∧ ∀ p ∈ stops, p.status ≠ .planned
          (∀ m, m ≠ n → t.ticket m = s.ticket m) ∧
          (done → t.ticket n = { k with stops := stops, state := .complete } ∧
            t.notices = ((s.raise .ticketComplete n (be16 k.number ++
              [octet (stops.countP fun p => p.status = .done),
                octet (stops.countP fun p => p.status = .skipped)])).raise
              .containerOut row [octet n]).notices) ∧
          (¬ done → t.ticket n = { k with stops := stops } ∧
            t.notices = (s.raise .containerOut row [octet n]).notices)) ∧
        { t with containers := s.containers, tickets := s.tickets, notices := s.notices } = s)

/-- SUPERVISION_EXPIRY sets ISLANDED with its second and its ALERT notice if it was clear, and stops the
timer (R170); COALESCING_EXPIRY stops its timer and marks the interval ended (R176). Neither does
anything before its expiry second or while its timer is stopped. -/
def Obligations.LinkTimersExpire : Prop :=
  ∀ s : State,
    (s.link.supervision = none → exec .supervisionExpiry s = .next s) ∧
    (∀ x, s.link.supervision = some x →
      (2147483648 ≤ (s.seconds - x).toNat → exec .supervisionExpiry s = .next s) ∧
      ((s.seconds - x).toNat < 2147483648 → s.link.islanded = false →
        exec .supervisionExpiry s =
          .next (({ s with link := { s.link with islanded := true,
                                                 islandedSince := some s.seconds,
                                                 supervision := none } } : State).raise .islanded 0
            (be16 s.params.supervision))) ∧
      ((s.seconds - x).toNat < 2147483648 → s.link.islanded = true →
        exec .supervisionExpiry s =
          .next { s with link := { s.link with supervision := none } })) ∧
    (s.notices.coalescing = none → exec .coalescingExpiry s = .next s) ∧
    ∀ x, s.notices.coalescing = some x →
      (2147483648 ≤ (s.seconds - x).toNat → exec .coalescingExpiry s = .next s) ∧
      ((s.seconds - x).toNat < 2147483648 →
        exec .coalescingExpiry s =
          .next { s with notices := { s.notices with coalescing := none, intervalEnded := true } })

/-! ### The link -/

/-- DOWNLINK_FRAME_RECEIVED of one frame by a hunting receiver, which hunts again after it (R159, R160,
R162, R164, R169, R170): one whose length lies outside 3 to 259, whose check fails, or with a framing
error from its first length octet to its last check octet is only counted; a framing error before that
is not. A MANAGEMENT frame for address 0 restarts supervision, clears ISLANDED, and is taken, queued, or
lost as overflow; a frame of no route is counted. That the islanded since second is none once ISLANDED is
cleared is the model's choice (log entry 27). -/
def Obligations.DownlinkFramesRouted : Prop :=
  ∀ (s : State) (addr cls tag : Octet) (body : List Octet), s.Settled → s.link.rx = .hunting →
    body.length ≤ 256 →
    let frame := linkChars (linkFrame addr.toNat cls tag body)
    let covered := be16 (body.length + 3) ++ [addr, cls, tag] ++ body
    let counted (f : LinkCounters → LinkCounters) : State :=
      { s with link := { s.link with counters := f s.link.counters } }
    (∀ lh ll : Octet, u16 lh ll < 3 ∨ 259 < u16 lh ll →
      exec (.downlinkFrameReceived (linkChars [0xA5, 0x5A, lh, ll])) s =
        .next (counted fun c => { c with lengthErrors := min (c.lengthErrors + 1) 65535 })) ∧
    (∀ (x a b : Octet) (n : Nat), n < body.length + 7 →
      exec (.downlinkFrameReceived (linkChars ([0xA5, 0x5A] ++ (covered ++ [a, b]).take n) ++
        [{ data := x, stopGood := false }])) s =
        .next (counted fun c => { c with framingErrors := min (c.framingErrors + 1) 65535 })) ∧
    (∀ x : Octet,
      exec (.downlinkFrameReceived [{ data := x, stopGood := false }]) s = .next s ∧
      exec (.downlinkFrameReceived (linkChars [0xA5] ++ [{ data := x, stopGood := false }])) s =
        .next s) ∧
    (∀ a b : Octet, [a, b] ≠ be16 (checkSequence covered).toNat →
      exec (.downlinkFrameReceived (linkChars ([0xA5, 0x5A] ++ covered ++ [a, b]))) s =
        .next (counted fun c => { c with checkErrors := min (c.checkErrors + 1) 65535 })) ∧
    (¬ (cls = 1 ∧ addr = 0) → ¬ (cls = 4 ∧ 1 ≤ addr.toNat ∧ addr.toNat ≤ 64) →
      exec (.downlinkFrameReceived frame) s =
        .next (counted fun c => { c with received := min (c.received + 1) 65535,
                                         unrouted := min (c.unrouted + 1) 65535 })) ∧
    (cls = 1 → addr = 0 →
      let r : Request := { tag := tag, body := body }
      let lk : Link := { s.link with
        counters := { s.link.counters with received := min (s.link.counters.received + 1) 65535 }
        supervision := if s.params.supervision = 0 then none
          else some (s.seconds + BitVec.ofNat 32 s.params.supervision)
        islanded := false
        islandedSince := if s.link.islanded then none else s.link.islandedSince }
      let heard (l : Link) (m : Management) : State :=
        let u : State := { s with link := l, mgmt := m }
        if s.link.islanded then
          u.raise .linkResumed 0 (be32 (s.seconds - s.link.islandedSince.getD 0))
        else u
      (s.mgmt.taken = none → s.mgmt.reply = none → s.link.requests = [] →
        exec (.downlinkFrameReceived frame) s =
          .next (heard lk { s.mgmt with taken := some r })) ∧
      (s.mgmt.taken.isSome = true ∨ s.mgmt.reply.isSome = true → s.link.requests.length < 4 →
        exec (.downlinkFrameReceived frame) s =
          .next (heard { lk with requests := s.link.requests ++ [r] } s.mgmt)) ∧
      (4 ≤ s.link.requests.length →
        exec (.downlinkFrameReceived frame) s =
          .next (heard { lk with counters := { lk.counters with
            overflow := min (s.link.counters.overflow + 1) 65535 } } s.mgmt)))

/-- A RELAY frame from the centre for a station whose entry reads good (R154): queued at the station's
segment when the body holds a kind and at most 24 octets more, the station is IN SERVICE and the
queue holds fewer than 8; dropped and counted otherwise. A turn falls due where it joins an empty
queue of an idle segment (R135). -/
def Obligations.DownlinkRelaysTested : Prop :=
  ∀ (s : State) (addr tag : Octet) (body : List Octet), s.Settled → s.link.rx = .hunting →
    body.length ≤ 256 → 1 ≤ addr.toNat → addr.toNat ≤ 64 →
    (s.stationRow addr.toNat).bad = false →
    let frame := linkChars (linkFrame addr.toNat 4 tag body)
    let g := segOf addr.toNat
    let counted (drops : Nat) : State :=
      { s with link := { s.link with counters := { s.link.counters with
          received := min (s.link.counters.received + 1) 65535
          downlinkDrops := drops } } }
    (body = [] ∨ 25 < body.length ∨ (s.station addr.toNat).state ≠ .inService ∨
        8 ≤ (s.seg g).relays.length →
      exec (.downlinkFrameReceived frame) s =
        .next (counted (min (s.link.counters.downlinkDrops + 1) 65535))) ∧
    (∀ kind payload, body = kind :: payload → payload.length ≤ 24 →
      (s.station addr.toNat).state = .inService → (s.seg g).relays.length < 8 →
      exec (.downlinkFrameReceived frame) s =
        .next ((counted s.link.counters.downlinkDrops).editSeg g fun x =>
          { x with relays := x.relays ++ [{ addr := addr.toNat, kind := kind,
                                            payload := payload }],
                   turnDue := x.turnDue || (x.relays.isEmpty && x.state = .up &&
                     x.window.isNone && x.pollOut.isNone) }))

/-- UPLINK_SEND: a ready REPLY goes first, and the next request is taken as it begins; else a due batch of
up to eight notices, under the next batch number; else the oldest relay frame; else the line rests
(R161, R162, R176, R177). Each frame begun is counted as sent (log entry 16). -/
def Obligations.UplinkArbiterOrder : Prop :=
  ∀ s : State,
    let sent (l : Link) (frame : List Octet) : Link :=
      { l with onLine := some frame
               counters := { l.counters with sent := min (l.counters.sent + 1) 65535 } }
    let q := s.notices.queue
    let due := q ≠ [] ∧ ((∃ n ∈ q, n.kind.cls ≠ .status) ∨ s.params.batchCount ≤ q.length ∨
      s.notices.intervalEnded = true)
    (∀ r, s.mgmt.reply = some r → s.mgmt.taken = none →
      let frame := linkFrame 0 2 r.tag (r.code :: r.result.code :: r.data)
      (s.link.requests = [] → exec .uplinkSend s =
        .next { s with link := sent s.link frame, mgmt := { s.mgmt with reply := none } }) ∧
      (∀ x rest, s.link.requests = x :: rest → exec .uplinkSend s =
        .next { s with link := sent { s.link with requests := rest } frame
                       mgmt := { s.mgmt with reply := none, taken := some x } })) ∧
    (s.mgmt.reply = none → due →
      exec .uplinkSend s =
        .next { s with
          link := sent s.link (linkFrame 0 3 (s.notices.batchNumber + 1)
            (octet (min 8 q.length) :: (be16 s.notices.lost ++ (q.take 8).flatMap fun n =>
              [n.kind.cls.code, n.kind.code, octet (n.subject / 65536), octet (n.subject / 256),
                octet n.subject] ++ be32 n.stamp ++ (octet n.payload.length :: n.payload))))
          notices := { s.notices with
            queue := q.drop 8
            intervalEnded := false
            batchNumber := s.notices.batchNumber + 1
            coalescing := if q.length ≤ 8 then none
              else some (s.seconds + BitVec.ofNat 32 s.params.coalescing) } }) ∧
    (s.mgmt.reply = none → ¬ due →
      (∀ r rest, s.link.relays = r :: rest →
        exec .uplinkSend s =
          .next { s with
            link := sent { s.link with relays := rest }
              (linkFrame r.addr 4 (octet r.route) (r.kind :: r.payload)) }) ∧
      (s.link.relays = [] →
        exec .uplinkSend s = .next { s with link := { s.link with onLine := none } }))

/-! ### Frames on a segment -/

/-- SEGMENT_FRAME_RECEIVED by a hunting receiver of an UP segment (R129 to R131). A valid frame with no
window open, or from another address, is counted as stray. A frame with a length above 24, or whose
check fails, is a check error, and one with a character of bad stop bit a framing error: with no window
open it is discarded without a count, and otherwise it marks the window, which stays open. A frame that
ends so in a window held open past its timeout, or that a new address character cuts short, closes it as
a miss, as REPLY_TIMEOUT does. NOTHING from the polled station IN SERVICE closes the window, clears its
misses, and makes a send turn due. -/
def Obligations.SegmentFramesFindTheirWindow : Prop :=
  (∀ (s : State) (g : Seg) (addr : Nat) (kind : Octet) (payload : List Octet),
    addr < 256 → payload.length ≤ 24 →
    (s.seg g).state = .up → (s.seg g).pollOut = none → (s.seg g).atSpace = false →
    (s.seg g).rx = none →
    let hears := exec (.segmentFrameReceived g (stationFrame addr kind payload)) s
    let stray : State := s.editSeg g fun x => { x with stray := min (x.stray + 1) 65535 }
    ((s.seg g).window = none ∨
      (∃ w, (s.seg g).window = some w ∧ w.addr ≠ addr ∧ w.heldOpen = false) → hears = .next stray) ∧
    (∀ w, (s.seg g).window = some w → w.addr ≠ addr → w.heldOpen = true →
      hears = exec (.replyTimeout g) stray)) ∧
  (∀ (s : State) (g : Seg) (addr kind c d : Octet) (payload : List Octet), payload.length ≤ 24 →
    (s.seg g).state = .up → (s.seg g).pollOut = none → (s.seg g).atSpace = false →
    (s.seg g).rx = none →
    let covered := [addr, kind, octet payload.length] ++ payload
    let ends (chars : List SegChar) (check framing : Bool) : Prop :=
      let marked (w : Window) : State := s.editSeg g fun x =>
        { x with window := some { w with checkError := w.checkError || check,
                                         framingError := w.framingError || framing } }
      let hears := exec (.segmentFrameReceived g chars) s
      ((s.seg g).window = none → hears = .next s) ∧
      ∀ w, (s.seg g).window = some w →
        (w.heldOpen = false → hears = .next (marked w)) ∧
        (w.heldOpen = true → hears = exec (.replyTimeout g) (marked w))
    ([c, d] ≠ be16 (checkSequence covered).toNat → ends (markFirst (covered ++ [c, d])) true false) ∧
    (∀ n : Octet, 24 < n.toNat → ends (markFirst [addr, kind, n]) true false) ∧
    (∀ (n : Nat) (x : Octet) (m : Bool), 1 ≤ n → n < payload.length + 5 →
      ends (markFirst ((covered ++ [c, d]).take n) ++ [{ mark := m, data := x, stopGood := false }])
        false true) ∧
    ∀ (n : Nat) (x : Octet), 1 ≤ n → n < payload.length + 5 →
      let begun : State := s.editSeg g fun y => { y with rx := some [x] }
      exec (.segmentFrameReceived g (markFirst ((covered ++ [c, d]).take n) ++
        [{ mark := true, data := x, stopGood := true }])) s =
        .next (if (s.seg g).window.any (·.heldOpen) then begun.closeMiss g else begun)) ∧
  (∀ (s : State) (g : Seg), (s.seg g).rx = none → exec (.replyTimeout g) s = .next (s.closeMiss g)) ∧
  ∀ (s : State) (addr : Nat), s.Serving addr →
    exec (.segmentFrameReceived (segOf addr) (stationFrame addr 0x00 [])) s = .next (s.heard addr)

/-- A reply, by the state of the polled station, whose entry reads good (R146, R149, R150): from
UNCONFIGURED or SILENT to CONFIGURING and the configure list; from CONFIGURING, once its CONFIGURE is
sent, to IN SERVICE, with its notice before the reply is acted on as one from a station IN SERVICE, or
with an ANNOUNCE to one more attempt and at the fourth to SILENT; from IN SERVICE with an ANNOUNCE to
CONFIGURING, every deposit at the station being released and its units returned, a faulty Card Row rebuilt
first (R81, R57); stray, whatever its kind, where ABSENT or CUT OFF. A malformed reply is discarded and
counted in every state, and is not an ANNOUNCE (log entry 12). -/
def Obligations.RepliesMoveStations : Prop :=
  ∀ (s : State) (addr : Nat), 1 ≤ addr → addr ≤ 64 → s.Settled → s.Awaits (segOf addr) addr →
    (s.stationRow addr).bad = false →
    let g := segOf addr
    let e := { s.station addr with misses := 0 }
    let announced (m n : Octet) : Station :=
      { e with lastAnnounce := some { model := m, count := n },
               errors := if n.toNat = e.count then e.errors else e.errors ||| 8 }
    let discarded : Station := { e with discarded := min (e.discarded + 1) 65535 }
    let shut : State := s.editSeg g Segment.closed
    let joined : State := shut.editSeg g fun x =>
      { x with cfgList := if addr ∈ x.cfgList then x.cfgList else x.cfgList ++ [addr] }
    let wrong (kind : Octet) (payload : List Octet) : Prop :=
      kind.toNat ≤ 6 ∧ payload.length ≤ 24 ∧
        (kind.toNat, payload.length) ∉ [(0, 0), (1, 2), (2, 4), (3, 2), (4, 4), (5, 1), (6, 3)]
    let stray : State := shut.editSeg g fun x => { x with stray := min (x.stray + 1) 65535 }
    let held := s.deposits.filter fun d => d.row / 4 + 1 = addr
    let left := s.deposits.filter fun d => d.row / 4 + 1 ≠ addr
    let rebuilt (row : Nat) : CardRow :=
      let c := s.card row
      if (s.cardRow row).bad then
        { c with state := .blocked, balance := max (-255) c.balance,
                 clamped := c.clamped || c.balance < -255 }
      else c
    let hears (kind : Octet) (payload : List Octet) (after : Station) (base : State) : Prop :=
      ∃ t, exec (.segmentFrameReceived g (stationFrame addr kind payload)) s = .next t ∧
        (∀ a, t.stationRow a =
          if a = addr then { data := after, bad := false } else s.stationRow a) ∧
        { t with stations := s.stations } = base
    (e.state = .unconfigured ∨ e.state = .silent →
      (∀ kind payload, kind ≠ 0x01 ∨ payload.length ≠ 2 → payload.length ≤ 24 →
        hears kind payload { discarded with state := .configuring, attempts := 0, awaiting := true }
          joined) ∧
      ∀ m n, hears 0x01 [m, n]
        { announced m n with state := .configuring, attempts := 0, awaiting := true } joined) ∧
    (e.state = .configuring → e.awaiting = true →
      (∀ kind payload, kind ≠ 0x01 ∨ payload.length ≠ 2 → payload.length ≤ 24 →
        hears kind payload discarded shut) ∧
      ∀ m n, hears 0x01 [m, n] (announced m n) shut) ∧
    (e.state = .configuring → e.awaiting = false →
      hears 0x00 [] { e with state := .inService, attempts := 0 }
        (shut.raise .stationInService addr []) ∧
      (∀ kind payload, kind ≠ 0x01 ∨ payload.length ≠ 2 → payload.length ≤ 24 →
        exec (.segmentFrameReceived g (stationFrame addr kind payload)) s =
          exec (.segmentFrameReceived g (stationFrame addr kind payload))
            ((s.putStation addr (Row.good { e with state := .inService, attempts := 0 })).raise
              .stationInService addr [])) ∧
      (∀ m n, e.attempts < 3 →
        hears 0x01 [m, n] { announced m n with attempts := e.attempts + 1, awaiting := true }
          joined) ∧
      ∀ m n, 3 ≤ e.attempts →
        hears 0x01 [m, n]
          { announced m n with attempts := e.attempts + 1, state := .silent,
                               errors := (announced m n).errors ||| 16 }
          (shut.raise .configFail addr [m, n])) ∧
    (e.state = .inService → (∀ d ∈ s.deposits, rowStation d.row ≠ addr) →
      ∀ m n, hears 0x01 [m, n]
        { announced m n with state := .configuring, attempts := 0, awaiting := true } joined) ∧
    (e.state = .inService → s.depositLaw → ∀ m n,
      ∃ t, exec (.segmentFrameReceived g (stationFrame addr 0x01 [m, n])) s = .next t ∧
        (∀ a, t.stationRow a =
          if a = addr then
            { data := { announced m n with state := .configuring, attempts := 0, awaiting := true },
              bad := false }
          else s.stationRow a) ∧
        t.deposits = left ∧
        (∀ row, t.cardRow row =
          if held.any (fun d => d.cardRow = row) then
            { data := { rebuilt row with reserved := unitsNaming left row }, bad := false }
          else s.cardRow row) ∧
        (∀ row, t.containerRow row =
          { data := { s.container row with
              hasPending := (s.container row).hasPending && !held.any fun d => d.row = row },
            bad := (s.containerRow row).bad }) ∧
        ((∀ d ∈ held, (s.cardRow d.cardRow).bad = false) →
          t.notices = s.notices ∧ t.capture = s.capture) ∧
        { t with stations := s.stations, deposits := s.deposits, cards := s.cards,
                 containers := s.containers, notices := s.notices, capture := s.capture } =
          joined) ∧
    (e.state = .inService → ∀ kind payload, wrong kind payload →
      hears kind payload discarded shut) ∧
    (e.state = .absent ∨ e.state = .cutOff →
      (∀ kind payload, payload.length ≤ 24 → ¬ wrong kind payload →
        hears kind payload (s.station addr) stray) ∧
      ∀ kind payload, wrong kind payload →
        hears kind payload
          { s.station addr with discarded := min ((s.station addr).discarded + 1) 65535 } stray)

/-- A PRESENTATION from a station IN SERVICE, at a container that holds no deposit, on rows that read good
(R62 to R71): CONTAINER CLOSED at a slot the station has not, and at a container that is unloaded or not
IN SERVICE, whatever the stream, series and card read as; else the first of the checks that fails, in
their order, gives the reason of one REFUSE and nothing else changes but LOST CARD USED; when none fails
the deposit joins the list, its units are reserved, the container refers to it, and one GRANT is placed. A
stream or a zone above 7, which a spoiled configuration alone can name, is one that no card has the right
of (log entry 35). -/
def Obligations.PresentationDecidedInOrder : Prop :=
  ∀ (s : State) (addr : Nat) (slot a b c : Octet), s.Serving addr →
    let hears (t : State) : Prop :=
      exec (.segmentFrameReceived (segOf addr) (stationFrame addr 0x02 [slot, a, b, c])) s = .next t
    let answer (u : State) (x : AnswerBody) : State :=
      u.editSeg (segOf addr) fun y =>
        { y with answers := y.answers ++ [{ addr := addr, slot := slot, body := x }] }
    let h := s.heard addr
    let row := rowOf addr slot.toNat
    let k := s.container row
    let card := cardOf a b c
    let e := s.seriesOf card
    let cr := e.base + cardSerial card
    let r := s.card cr
    let charged := (s.streamRow k.cfg.stream).data.charged
    let u := k.cfg.unitCost
    let i := (k.cfg.hatchVolume * 10000 + k.cfg.capacity / 2) / k.cfg.capacity
    let checks : List (Bool × RefuseReason) :=
      [(!k.loaded || k.service != .inService, .containerClosed),
        (!e.valid, .unknownSeries), (e.barred, .barred),
        (e.span ≤ cardSerial card, .unknownCard),
        (e.onlineOnly && s.link.islanded, .offline),
        (r.state = .empty, .unknownCard), (r.state = .blocked, .cardBlocked),
        (r.state = .lost, .cardLost),
        (!(r.streamRights.getLsbD k.cfg.stream && r.zoneRights.getLsbD k.cfg.zone), .noRight),
        (k.estimate.isSome && (k.fill = .full || k.cfg.full < k.estimate.getD 0 + i),
          .containerFull),
        (k.estimate.isNone && !k.cfg.grantUnknown, .containerClosed),
        (32 ≤ s.deposits.length, .busy),
        (charged && 1024 ≤ s.journal.records.length + s.deposits.countP (·.charged),
          .journalFull),
        (charged && 255 < r.reserved + u, .busy),
        (charged && r.balance - r.reserved - u < -(r.limit : Int), .noAllowance)]
    (4 ≤ slot.toNat ∨ (s.station addr).count ≤ slot.toNat →
      hears (answer h (.refuse .containerClosed))) ∧
    (slot.toNat < 4 → slot.toNat < (s.station addr).count → s.depositAt row = none →
      (s.containerRow row).bad = false → k.loaded = false ∨ k.service ≠ .inService →
      hears (answer h (.refuse .containerClosed))) ∧
    (slot.toNat < 4 → slot.toNat < (s.station addr).count → s.depositAt row = none →
      (s.containerRow row).bad = false → (s.streamRow k.cfg.stream).bad = false →
      s.seriesFaulty card = false → (s.cardRow cr).bad = false →
      (k.estimate.isSome = true → k.fill ≠ .full → 0 < k.cfg.capacity) →
      (∀ x, firstReason checks = some x → x ≠ .cardLost → hears (answer h (.refuse x))) ∧
      (firstReason checks = some .cardLost →
        hears (answer (h.raise .lostCardUsed card.toNat [octet row]) (.refuse .cardLost))) ∧
      (firstReason checks = none →
        let units := if charged then u else 0
        hears (answer
          ((({ h with deposits := s.deposits ++
                [{ row := row, cardRow := cr, card := card, units := units, charged := charged,
                   expiry := s.seconds + BitVec.ofNat 32 s.params.pendingExpiry }] } :
              State).writeCard cr { r with reserved := r.reserved + units }).editContainer row
            fun x => { x with hasPending := true })
          (.grant units (max (-255) (r.balance - ((r.reserved + units : Nat) : Int)))))))

/-- An overrun, and CONFIRM (R61, R74 to R78, R81). A presentation at a container that holds a deposit is
decided as it is once that deposit has been released, the OVERRUN flag set and its notice raised.
NOT DEPOSITED releases the deposit, ANSWER LATE counts it as well; either without a deposit, an
unknown outcome and a slot without a container are discarded and counted. A confirmation's look at the
Container Entry is no checked read, so that a faulty entry is taken as it is found (log entry 17). -/
def Obligations.DepositsOverrunAndConfirmed : Prop :=
  ∀ (s : State) (addr : Nat) (slot : Octet), s.Serving addr →
    let row := rowOf addr slot.toNat
    let confirms (outcome : Octet) (t : State) : Prop :=
      exec (.segmentFrameReceived (segOf addr) (stationFrame addr 0x03 [slot, outcome])) s = .next t
    let h := s.heard addr
    let discards : State :=
      h.editStation addr fun e => { e with discarded := min (e.discarded + 1) 65535 }
    (4 ≤ slot.toNat ∨ (s.station addr).count ≤ slot.toNat ∨ (s.container row).loaded = false →
      ∀ outcome, confirms outcome discards) ∧
    (slot.toNat < 4 → slot.toNat < (s.station addr).count →
      ((s.container row).loaded = true → ∀ outcome, outcome.toNat = 0 ∨ 3 < outcome.toNat →
        confirms outcome discards) ∧
      ((s.container row).loaded = true → s.depositAt row = none →
        confirms 0x02 discards ∧ confirms 0x03 discards) ∧
      (∀ d, (s.container row).loaded = true → d.row = row → s.Holds d →
        confirms 0x02 (h.returned d) ∧
        confirms 0x03 ((h.returned d).editStation addr fun e =>
          { e with lateAnswers := min (e.lateAnswers + 1) 65535 })) ∧
      ∀ d a b c, d.row = row → s.Holds d → s.depositLaw →
        exec (.segmentFrameReceived (segOf addr) (stationFrame addr 0x02 [slot, a, b, c])) s =
          exec (.segmentFrameReceived (segOf addr) (stationFrame addr 0x02 [slot, a, b, c]))
            (((s.returned d).editStation addr fun e => { e with errors := e.errors ||| 4 }).raise
              .overrun row (cardOctets d.card)))

/-- A DEPOSITED confirmation (R75, R77, R28, R29): with a deposit, the card row is charged, a charged
deposit is recorded in the Journal, and it leaves the list; without one, LATE CONFIRM is raised. In both
cases the container takes its increment, with SATURATED and its notice where that is cut at 10000 and
the notice of a changed fill state, and the Dispatch Unit is told of a change; a pass it makes due is
run at the end of the event (R99), which makes a send turn due. -/
def Obligations.DepositedConfirmationCommits : Prop :=
  ∀ (s : State) (addr : Nat) (slot : Octet), s.Serving addr →
    let row := rowOf addr slot.toNat
    let k := s.container row
    let i := (k.cfg.hatchVolume * 10000 + k.cfg.capacity / 2) / k.cfg.capacity
    let e := k.estimate.getD 0
    let raised : Bool := k.service = .inService && k.estimate.isSome
    let fill := evaluateFill k.cfg k.fill (min (e + i) 10000)
    let counted : Container := { k with deposits := min (k.deposits + 1) 65535 }
    let after : Container :=
      if raised then
        { counted with estimate := some (min (e + i) 10000), fill := fill,
                       flags := if e + i ≤ 10000 then k.flags else k.flags ||| 16 }
      else counted
    let notes : List Raised :=
      if raised then
        (if e + i ≤ 10000 then [] else arithNotice k .saturated i (some 10000)) ++
          fillNotice k.fill fill (min (e + i) 10000)
      else []
    let moved : Bool := !(after.estimate = k.estimate && after.fill = k.fill)
    let increments (u : State) (c : Container) : State :=
      let v := (u.writeContainer row c).raiseAll row notes
      if moved then v.tell row k else v
    let h : State := (s.editSeg (segOf addr) fun x =>
      { x with window := none,
               polling := if x.polling = .stopping .window then .stopped
                 else x.polling }).editStation addr fun x => { x with misses := 0 }
    let confirmed := exec (.segmentFrameReceived (segOf addr) (stationFrame addr 0x03 [slot, 0x01])) s
    slot.toNat < 4 → slot.toNat < (s.station addr).count → k.loaded = true →
    (s.containerRow row).bad = false → 0 < k.cfg.capacity →
    (∀ d, d.row = row → s.Holds d →
      let c := s.card d.cardRow
      let balance := max (-255) (c.balance - (d.units : Int))
      let record : JournalRecord :=
        { seq := s.journal.counter + 1, card := d.card, row := row, units := d.units,
          balance := balance, stamp := s.clock.map fun m => { day := m.day, minute := m.minute } }
      let charged : State := { h with
        deposits := s.deposits.eraseP (fun x => x.row = row)
        journal := if d.charged then
            { records := s.journal.records ++ [{ data := record, bad := false }],
              counter := s.journal.counter + 1, nextSlot := (s.journal.nextSlot + 1) % 1024 }
          else s.journal }
      confirmed = .next ((increments (charged.writeCard d.cardRow
          { c with balance := balance, reserved := c.reserved - d.units,
                   periodDeposits := min (c.periodDeposits + 1) 65535,
                   clamped := c.clamped || (c.balance - (d.units : Int) < -255) })
        { after with hasPending := false }).endEvent.turnDue (segOf addr))) ∧
    (s.depositAt row = none →
      confirmed = .next (((increments h after).raise .lateConfirm row []).endEvent.turnDue
        (segOf addr)))

/-- A SAMPLE (R20 to R26, R31 to R33): discarded and counted at a slot without a loaded container, ignored
at a container not IN SERVICE; rejected below the quality minimum; otherwise clamped, measured, and
taken as the first estimate, held or confirmed as a spike, or filtered, the estimate staying within
10000. The flags set raise their ARITHMETIC notices, before the notice of a changed fill state; the
Dispatch Unit is told of a change (R19), and a pass it makes due is run at the end of the event. -/
def Obligations.SamplesMoveEstimate : Prop :=
  ∀ (s : State) (addr : Nat) (slot dh dl q : Octet), s.Serving addr →
    let row := rowOf addr slot.toNat
    let k := s.container row
    let heard := exec (.segmentFrameReceived (segOf addr) (stationFrame addr 0x04 [slot, dh, dl, q])) s
    let h := s.heard addr
    let base : State := (s.editSeg (segOf addr) fun x =>
      { x with window := none,
               polling := if x.polling = .stopping .window then .stopped
                 else x.polling }).editStation addr fun x => { x with misses := 0 }
    (4 ≤ slot.toNat ∨ (s.station addr).count ≤ slot.toNat →
      heard = .next (h.editStation addr fun e =>
        { e with discarded := min (e.discarded + 1) 65535 })) ∧
    (slot.toNat < 4 → slot.toNat < (s.station addr).count → (s.containerRow row).bad = false →
      (k.loaded = false → heard = .next (h.editStation addr fun e =>
        { e with discarded := min (e.discarded + 1) 65535 })) ∧
      (k.loaded = true → k.service ≠ .inService → heard = .next h) ∧
      (k.loaded = true → k.service = .inService → min q.toNat 15 < k.cfg.qualityMin →
        ∃ t, heard = .next t ∧
          (∀ r, t.containerRow r =
            if r = row then
              { data := { k with flags := k.flags ||| 1, rejected := min (k.rejected + 1) 255 },
                bad := false }
            else s.containerRow r) ∧
          { t with containers := s.containers } =
            h.raiseAll row (arithNotice k .reject (min q.toNat 15) k.estimate)) ∧
      (k.loaded = true → k.service = .inService → k.cfg.qualityMin ≤ min q.toNat 15 →
        k.cfg.deadZone < k.cfg.depth → k.cfg.gain ≤ 16 → (∀ e, k.estimate = some e → e ≤ 10000) →
        let d := u16 dh dl
        let d' := max k.cfg.deadZone (min d k.cfg.depth)
        let m := (k.cfg.depth - d') * 10000 / (k.cfg.depth - k.cfg.deadZone)
        let b : Container := { k with flags := if d' = d then k.flags else k.flags ||| 2 }
        let took (e : Nat) : Container :=
          { b with estimate := some e, suspect := none, fill := evaluateFill k.cfg k.fill e }
        let step (e : Nat) : Nat := ((e : Int) + ((k.cfg.gain : Int) * ((m : Int) - e)).tdiv 16).toNat
        let outcome : Container × List Raised :=
          match k.estimate with
          | none => (took m, fillNotice k.fill (took m).fill m)
          | some e =>
            let dir : SpikeDir := if e < m then .up else .down
            if k.cfg.spikeLimit < ((m : Int) - e).natAbs then
              if k.suspect = some dir then
                ({ took m with flags := b.flags ||| 8 },
                  arithNotice b .jump m (some m) ++ fillNotice k.fill (took m).fill m)
              else
                ({ b with suspect := some dir, flags := b.flags ||| 4 },
                  arithNotice b .suspect m (some e))
            else (took (step e), fillNotice k.fill (took (step e)).fill (step e))
        let c := outcome.1
        let u := (base.writeContainer row c).raiseAll row
          ((if d' = d then [] else arithNotice k .range d c.estimate) ++ outcome.2)
        (∀ e, c.estimate = some e → e ≤ 10000) ∧
        heard = .next ((if c.estimate = k.estimate ∧ c.fill = k.fill then u
          else u.tell row k).endEvent.turnDue (segOf addr))))

/-- LIFT START and LIFT END (R115 to R121): a start begins a lift IN SERVICE, is ignored LIFTING and
resumes a STALLED lift; an end, of a lift or from IN SERVICE, stops the timer, sets the residue as the
estimate and the deposits to 0, which under thresholds that R5 takes gives NORMAL, takes the container off
the list, and ends the stop or records an unplanned lift. From IN SERVICE both release a pending deposit
first (R116, R121). Both are discarded and counted OUT OF SERVICE, at an unloaded row and at a slot
without a container, of which the entry is read first where the slot has a row (R115, R15). -/
def Obligations.LiftReportsTaken : Prop :=
  ∀ (s : State) (addr : Nat) (slot mh ml : Octet), s.Serving addr →
    let row := rowOf addr slot.toNat
    let k := s.container row
    let starts := exec (.segmentFrameReceived (segOf addr) (stationFrame addr 0x05 [slot])) s
    let ends := exec (.segmentFrameReceived (segOf addr) (stationFrame addr 0x06 [slot, mh, ml])) s
    let h := s.heard addr
    let discards : State :=
      h.editStation addr fun e => { e with discarded := min (e.discarded + 1) 65535 }
    let lifting : Container :=
      { k with service := .lifting, liftStage := .first,
               liftTimer := some (s.seconds + BitVec.ofNat 32 (s.params.liftLimit * 60)) }
    (4 ≤ slot.toNat → starts = .next discards ∧ ends = .next discards) ∧
    (slot.toNat < 4 → (s.station addr).count ≤ slot.toNat →
      ((s.containerRow row).bad = false → starts = .next discards ∧ ends = .next discards) ∧
      ((s.containerRow row).bad = true →
        exec (.segmentFrameReceived (segOf addr) (stationFrame addr 0x05 [slot])) s =
          exec (.segmentFrameReceived (segOf addr) (stationFrame addr 0x05 [slot]))
            (s.readContainer row) ∧
        exec (.segmentFrameReceived (segOf addr) (stationFrame addr 0x06 [slot, mh, ml])) s =
          exec (.segmentFrameReceived (segOf addr) (stationFrame addr 0x06 [slot, mh, ml]))
            (s.readContainer row))) ∧
    (slot.toNat < 4 → slot.toNat < (s.station addr).count → (s.containerRow row).bad = false →
      (k.loaded = false ∨ k.service = .outOfService →
        starts = .next discards ∧ ends = .next discards) ∧
      (k.loaded = true → k.service = .lifting → starts = .next h) ∧
      (k.loaded = true → k.service = .stalled → starts = .next (h.writeContainer row lifting)) ∧
      (k.loaded = true → k.service = .inService → s.depositAt row = none →
        ∃ t, starts = .next t ∧
          (∀ r, t.containerRow r =
            if r = row then { data := lifting, bad := false } else s.containerRow r) ∧
          { t with containers := s.containers } =
            { h with dispatch := { s.dispatch with
                list := s.dispatch.list.filter (· ≠ row) } }) ∧
      (∀ d, k.loaded = true → k.service = .inService → d.row = row → s.Holds d →
        ∃ t, starts = .next t ∧
          (∀ r, t.containerRow r =
            if r = row then { data := { lifting with hasPending := false }, bad := false }
            else s.containerRow r) ∧
          { t with containers := s.containers } =
            { h.returned d with
              containers := s.containers
              dispatch := { s.dispatch with list := s.dispatch.list.filter (· ≠ row) } }) ∧
      (∀ d : Option Deposit, k.loaded = true → k.service ≠ .outOfService →
        (match d with
          | none => k.service = .inService → s.depositAt row = none
          | some d => k.service = .inService ∧ d.row = row ∧ s.Holds d) →
        (row ∈ s.dispatch.list → k.fill = .warn ∨ k.fill = .full) →
        k.cfg.residue ≤ 10000 → k.cfg.residue + k.cfg.hysteresis < k.cfg.warn →
        k.cfg.warn < k.cfg.full →
        let unlisted : State :=
          { (match d with | none => h | some d => h.returned d) with
              containers := s.containers
              dispatch := { s.dispatch with list := s.dispatch.list.filter (· ≠ row) } }
        let filled : State :=
          if k.fill = .normal then unlisted
          else unlisted.raise .fillNormal row (be16 k.cfg.residue ++ [k.fill.code])
        let emptied : Container :=
          { k with hasPending := k.hasPending && d.isNone, liftTimer := none, liftStage := .none,
                   service := .inService, deposits := 0,
                   estimate := some k.cfg.residue, suspect := none, fill := .normal }
        ∃ t, ends = .next t ∧ (∀ r, r ≠ row → t.containerRow r = s.containerRow r) ∧
          (k.assignment = none →
            t.containerRow row =
              { data := { emptied with flags := k.flags ||| 32 }, bad := false } ∧
            { t with containers := s.containers } =
              filled.raise .unplannedLift row ([mh, ml] ++ be16 k.deposits)) ∧
          ∀ n, k.assignment = some n →
            let w := s.ticket n
            let stops := endStop row .done
              (if u16 mh ml = 65535 then none else some (u16 mh ml)) w.stops
            let done := w.state = .handed ∧ ∀ p ∈ stops, p.status ≠ .planned
            t.containerRow row = { data := { emptied with assignment := none }, bad := false } ∧
            (∀ m, m ≠ n → t.ticket m = s.ticket m) ∧
            (done → t.ticket n = { w with stops := stops, state := .complete } ∧
              { t with containers := s.containers, tickets := s.tickets } =
                filled.raise .ticketComplete n (be16 w.number ++
                  [octet (stops.countP fun p => p.status = .done),
                    octet (stops.countP fun p => p.status = .skipped)])) ∧
            (¬ done → t.ticket n = { w with stops := stops } ∧
              { t with containers := s.containers, tickets := s.tickets } = filled)))

/-! ### Windows, breaks and turns -/

/-- REPLY_TIMEOUT and LINE_LOW (R131, R132, R147): a timeout with a frame in progress holds the window
open; else the window closes as a miss, whose errors set the station's flags; the third miss makes it
SILENT. LINE LOW sets its flag, raises its notice and closes the window as a timeout does; a frame in
progress ends first, with a framing error (log entry 10), and a window that was held open for it closes
then, before the notice. Where there is no window, or no break of an UP
segment to mark, nothing happens (log entry 1). -/
def Obligations.WindowsCloseAsMisses : Prop :=
  ∀ (s : State) (g : Seg), s.Settled →
    let x := s.seg g
    (x.window = none → exec (.replyTimeout g) s = .next s) ∧
    (∀ w, x.window = some w → x.rx.isSome = true →
      exec (.replyTimeout g) s =
        .next (s.editSeg g fun y => { y with window := some { w with heldOpen := true } })) ∧
    (∀ w, x.window = some w → x.rx = none → w.addr ∈ segAddrs g →
      (s.stationRow w.addr).bad = false →
      let e := s.station w.addr
      let flagged := e.errors ||| (if w.checkError then 1 else 0) |||
        (if w.framingError then 2 else 0)
      let shut : State := s.editSeg g Segment.closed
      (e.state = .absent ∨ e.state = .cutOff → exec (.replyTimeout g) s = .next shut) ∧
      (e.state = .silent → ∃ t, exec (.replyTimeout g) s = .next t ∧
        (∀ a, t.stationRow a =
          if a = w.addr then { data := { e with errors := flagged }, bad := false }
          else s.stationRow a) ∧
        { t with stations := s.stations } = shut) ∧
      (e.state = .unconfigured ∨ e.state = .configuring ∨ e.state = .inService →
        (e.misses < 2 → ∃ t, exec (.replyTimeout g) s = .next t ∧
          (∀ a, t.stationRow a =
            if a = w.addr then
              { data := { e with errors := flagged, misses := e.misses + 1 }, bad := false }
            else s.stationRow a) ∧
          { t with stations := s.stations } = shut) ∧
        (2 ≤ e.misses → ∃ t, exec (.replyTimeout g) s = .next t ∧
          (∀ a, t.stationRow a =
            if a = w.addr then
              { data := { e with errors := flagged, misses := 3, state := .silent,
                                 awaiting := false }, bad := false }
            else s.stationRow a) ∧
          { t with stations := s.stations } =
            (shut.editSeg g fun y =>
              { y with cfgList := y.cfgList.filter (· ≠ w.addr) }).raise .stationSilent w.addr
              [e.state.code]))) ∧
    (¬ (x.state = .up ∧ x.pollOut = none ∧ x.lowMeasured = false) →
      exec (.lineLow g) s = .next s) ∧
    (x.state = .up → x.pollOut = none → x.lowMeasured = false → x.rx = none →
      let low : State := (s.editSeg g fun y =>
        { y with atSpace := true, lowMeasured := true, lineLow := true }).raise .lineLow
          (if g = .a then 0 else 1) []
      (x.window = none → exec (.lineLow g) s = .next low) ∧
      (x.window.isSome = true → exec (.lineLow g) s = exec (.replyTimeout g) low)) ∧
    (x.state = .up → x.pollOut = none → x.lowMeasured = false → x.rx.isSome = true →
      (∀ w, x.window = some w → w.heldOpen = false) →
      exec (.lineLow g) s = exec (.lineLow g) (s.editSeg g fun y =>
        { y with rx := none, window := x.window.map fun w => { w with framingError := true } })) ∧
    ∀ w, x.state = .up → x.pollOut = none → x.lowMeasured = false → x.rx.isSome = true →
      x.window = some w → w.heldOpen = true →
      ∃ u, exec (.replyTimeout g) (s.editSeg g fun y =>
          { y with rx := none, window := some { w with framingError := true } }) = .next u ∧
        exec (.lineLow g) s = .next ((u.editSeg g fun y =>
          { y with atSpace := true, lowMeasured := true, lineLow := true }).raise .lineLow
            (if g = .a then 0 else 1) [])

/-- SEGMENT_DOWN, BUS_RESET_BREAK, BUS_RESET_BREAK_END and BREAK_OVER (R132 to R134, R141, R151): down,
the queues are emptied and the loaded stations CUT OFF; after the mark, RESTORING; after the break, UP
with the CUT OFF stations UNCONFIGURED and a send turn due; after a break, at mark, a frame in progress
having ended (log entry 10), and with it, as a miss, a window held open for it. That the wait of an empty
cycle ends as the segment goes DOWN is log entry 19's, that faulty Station Entries are edited unread and
keep their mark 17's, and that elsewhere none of the four does anything
is log entry 1's. -/
def Obligations.SegmentsGoDownAndComeBack : Prop :=
  ∀ (s : State) (g : Seg),
    let x := s.seg g
    let code : Nat := if g = .a then 0 else 1
    let addrs : List Nat := if g = .a then List.range' 1 32 else List.range' 33 32
    (x.state = .up → x.pollOut = none → x.atSpace = true → x.lowMeasured = true →
      ∃ t, exec (.segmentDown g) s = .next t ∧
        (∀ a, t.stationRow a =
          if a ∈ addrs ∧ (s.station a).loaded = true then
            { data := { s.station a with state := .cutOff, misses := 0, attempts := 0,
                                         awaiting := false }, bad := (s.stationRow a).bad }
          else s.stationRow a) ∧
        { t with stations := s.stations } =
          (s.editSeg g fun y =>
            { y with state := .down, answers := [], relays := [], cfgList := [], rx := none,
                     window := none, turnDue := false, emptyWait := false }).raise .segmentDown
            code []) ∧
    (¬ (x.state = .up ∧ x.pollOut = none ∧ x.atSpace = true ∧ x.lowMeasured = true) →
      exec (.segmentDown g) s = .next s) ∧
    (x.state = .down → exec (.busResetBreak g) s =
      .next (s.editSeg g fun y =>
        { y with state := .restoring, quietRestore := false, atSpace := false,
                 lowMeasured := false })) ∧
    (x.state ≠ .down → exec (.busResetBreak g) s = .next s) ∧
    (x.state = .restoring →
      ∃ t, exec (.busResetBreakEnd g) s = .next t ∧
        (∀ a, t.stationRow a =
          if a ∈ addrs ∧ (s.station a).state = .cutOff then
            { data := { s.station a with state := .unconfigured }, bad := (s.stationRow a).bad }
          else s.stationRow a) ∧
        { t with stations := s.stations } =
          let up : State := s.editSeg g fun y =>
            { y with state := .up, quietRestore := false, turnDue := true }
          if x.quietRestore then up else up.raise .segmentRestored code []) ∧
    (x.state ≠ .restoring → exec (.busResetBreakEnd g) s = .next s) ∧
    (x.state = .up → x.pollOut = none → x.rx = none → exec (.breakOver g) s =
      .next (s.editSeg g fun y => { y with atSpace := false, lowMeasured := false })) ∧
    (x.state = .up → x.pollOut = none → x.rx.isSome = true →
      (∀ w, x.window = some w → w.heldOpen = false) → exec (.breakOver g) s =
        .next (s.editSeg g fun y =>
          { y with rx := none, window := x.window.map fun w => { w with framingError := true },
                   atSpace := false, lowMeasured := false })) ∧
    (∀ w, x.state = .up → x.pollOut = none → x.rx.isSome = true → x.window = some w →
      w.heldOpen = true →
      ∃ u, exec (.replyTimeout g) (s.editSeg g fun y =>
          { y with rx := none, window := some { w with framingError := true } }) = .next u ∧
        exec (.breakOver g) s = .next (u.editSeg g fun y =>
          { y with atSpace := false, lowMeasured := false })) ∧
    (¬ (x.state = .up ∧ x.pollOut = none) → exec (.breakOver g) s = .next s)

/-- SEND_TURN where the segment's entries read good (R135 to R137, R144, R148): every answer, the oldest
CONFIGURE, the oldest relay frame, then a POLL unless STOPPED: the next station above the position,
else after a new cycle while RUNNING; STOPPING becomes STOPPED where the cycle ends or no station can
be polled. The cycles are counted as the steps of R144 have them (log entry 32). A turn that cannot begin
changes nothing (log entry 1). -/
def Obligations.SendTurnOrder : Prop :=
  ∀ (s : State) (g : Seg), s.Settled →
    let x := s.seg g
    let ready := x.state = .up ∧ x.turnDue = true ∧ x.atSpace = false ∧ x.pollOut = none ∧
      x.window = none
    (¬ ready → exec (.sendTurn g) s = .next s) ∧
    (ready → (∀ a ∈ segAddrs g, (s.stationRow a).bad = false) →
      (∀ a ∈ x.cfgList, a ∈ segAddrs g) →
      let configured : List Nat := x.cfgList.take 1
      let frames := x.answers.map Answer.frame ++
        configured.map (fun a => stationFrame a 0x82
          (octet (s.station a).count ::
            (be16 (s.station a).sampleInterval ++ be16 (s.station a).deadline))) ++
        (x.relays.take 1).map fun r => stationFrame r.addr r.kind r.payload
      let sent : Segment :=
        { x with answers := [], relays := x.relays.drop 1, sent := frames,
                 cfgList := x.cfgList.filter (fun a => a ∉ configured), turnDue := false,
                 emptyWait := false }
      let next (cycle above : Nat) : Option Nat :=
        ((segAddrs g).filter (above < ·)).find? fun a => (s.station a).state.polled cycle
      let live := (segAddrs g).any fun a =>
        (s.station a).state != .absent && (s.station a).state != .cutOff
      let poll (y : Segment) (a : Nat) : Segment :=
        { y with position := a, pollOut := some a, sent := y.sent ++ [stationFrame a 0x81 []] }
      let ended : Segment := { sent with cycleCount := (x.cycleCount + 1) % 65536, position := 0 }
      let after : Segment :=
        if x.polling = .stopped then sent
        else match next x.cycleCount x.position with
          | some a => poll sent a
          | none =>
            if !live then { sent with polling := if x.polling = .running then .running else .stopped }
            else if x.polling = .running then
              match next ended.cycleCount 0 with
              | some a => poll ended a
              | none => { ended with emptyWait := true }
            else { ended with polling := .stopped }
      ∃ t, exec (.sendTurn g) s = .next t ∧
        (∀ a, t.stationRow a =
          if a ∈ configured then
            { data := { s.station a with awaiting := false }, bad := (s.stationRow a).bad }
          else s.stationRow a) ∧
        { t with stations := s.stations } = s.editSeg g fun _ => after)

/-- REPLY_WINDOW_OPEN opens the window of the POLL on the line with the reply timeout in force (R131,
R139); EMPTY_CYCLE_END counts the cycle and makes a send turn due (R144, by its steps: log entry 32),
STOPPING becoming STOPPED (log entry 19). Neither does anything where there is no such POLL, or no empty
cycle (log entry 1). -/
def Obligations.WindowOpensAndEmptyCycleEnds : Prop :=
  ∀ (s : State) (g : Seg),
    let x := s.seg g
    (x.pollOut = none → exec (.replyWindowOpen g) s = .next s) ∧
    (∀ addr, x.pollOut = some addr → exec (.replyWindowOpen g) s =
      .next (s.editSeg g fun y =>
        { y with pollOut := none,
                 window := some { addr := addr, timeout := x.replyTimeout, heldOpen := false,
                                  checkError := false, framingError := false } })) ∧
    (x.emptyWait = false → exec (.emptyCycleEnd g) s = .next s) ∧
    (x.emptyWait = true → exec (.emptyCycleEnd g) s =
      .next (s.editSeg g fun y =>
        { y with emptyWait := false, cycleCount := (x.cycleCount + 1) % 65536, turnDue := true,
                 polling := match x.polling with
                   | .stopping _ => .stopped
                   | p => p }))

/-! ### The Fill Unit and the Notice Unit -/

/-- The fill state after a piece of work follows R30's table, from every fill state and at every estimate.
Where a spoiled configuration has Tw at or above Tf, two rows of the table can hold at once, and that
FULL is then taken at e of at least Tf, or from FULL at e of at least Tf − Hy, is the model's choice (log
entry 14); the other clauses hold or are stated for Tw below Tf. A change to FULL raises CONTAINER FULL,
to NORMAL FILL NORMAL, and to WARN from NONE or NORMAL FILL WARN, each with the estimate after and the
fill state before; no other change, and no evaluation that finds the state held, raises anything (R31).
An event raises ARITHMETIC where its flag was clear and is in the report mask, with its code, its value
and the estimate after or 0xFFFF (R32, R33). -/
def Obligations.FillStateAndNotices : Prop :=
  (∀ (cfg : ContainerConfig) (e : Nat),
     let low (x : Nat) : Int := (x : Int) - cfg.hysteresis
     (∀ f, f = .none ∨ f = .normal →
       (cfg.full ≤ e → evaluateFill cfg f e = .full) ∧
       (cfg.warn ≤ e → e < cfg.full → evaluateFill cfg f e = .warn) ∧
       (e < cfg.warn → cfg.warn < cfg.full → evaluateFill cfg f e = .normal)) ∧
     (cfg.full ≤ e → evaluateFill cfg .warn e = .full) ∧
     (low cfg.warn ≤ e → e < cfg.full → evaluateFill cfg .warn e = .warn) ∧
     ((e : Int) < low cfg.warn → cfg.warn < cfg.full → evaluateFill cfg .warn e = .normal) ∧
     (low cfg.full ≤ e → evaluateFill cfg .full e = .full) ∧
     (low cfg.warn ≤ e → (e : Int) < low cfg.full → evaluateFill cfg .full e = .warn) ∧
     ((e : Int) < low cfg.warn → cfg.warn < cfg.full → evaluateFill cfg .full e = .normal)) ∧
  (∀ (before after : FillState) (e : Nat), fillNotice before after e =
    let raised (kind : NoticeKind) : List Raised :=
      [{ kind := kind, payload := be16 e ++ [before.code] }]
    if before = after then []
    else if after = .full then raised .containerFull
    else if after = .normal then raised .fillNormal
    else if after = .warn ∧ before ≠ .full then raised .fillWarn
    else []) ∧
  (∀ (c : Container) (x : ArithEvent) (value : Nat) (e : Option Nat), value ≤ 65535 →
    arithNotice c x value e =
      if c.flags.getLsbD x.code = false ∧ c.cfg.reportMask.getLsbD x.code = true then
        [{ kind := .arithmetic, payload := [octet x.code] ++ be16 value ++ be16 (e.getD 65535) }]
      else []) ∧
  ∀ (s : State) (row : Nat), s.raiseAll row [] = s ∧ ∀ (n : Raised) (rest : List Raised),
    s.raiseAll row (n :: rest) = (s.raise n.kind row n.payload).raiseAll row rest

/-- A raised notice joins a queue of fewer than 64; at 64 it displaces the oldest STATUS notice, or for
ROUND and ALERT with none the oldest ROUND notice, or is dropped; each loss is counted, and the queue
never grows beyond 64 (R175). A notice that joins an empty queue starts the coalescing timer, no other
touches it, and nothing else of the state changes. -/
def Obligations.FullQueueDisplaces : Prop :=
  ∀ (s : State) (kind : NoticeKind) (subject : Nat) (payload : List Octet),
    let n : Notice := { kind := kind, subject := subject, payload := payload, stamp := s.seconds }
    let q := s.notices.queue
    let t := s.raise kind subject payload
    let counted := t.notices.lost = min (s.notices.lost + 1) 65535
    let without (c : NoticeClass) (before behind : List Notice) (x : Notice) : Prop :=
      q = before ++ x :: behind ∧ x.kind.cls = c ∧ ∀ y ∈ before, y.kind.cls ≠ c
    (q.length < 64 → t.notices.queue = q ++ [n] ∧ t.notices.lost = s.notices.lost) ∧
    (q.length = 64 →
      (∀ before behind x, without .status before behind x →
        t.notices.queue = before ++ behind ++ [n] ∧ counted) ∧
      ((∀ y ∈ q, y.kind.cls ≠ .status) → kind.cls = .status →
        t.notices.queue = q ∧ counted) ∧
      ((∀ y ∈ q, y.kind.cls ≠ .status) → kind.cls ≠ .status →
        (∀ before behind x, without .round before behind x →
          t.notices.queue = before ++ behind ++ [n] ∧ counted) ∧
        ((∀ y ∈ q, y.kind.cls ≠ .round) → t.notices.queue = q ∧ counted))) ∧
    (q.length ≤ 64 → t.notices.queue.length ≤ 64) ∧
    { t with notices := s.notices } = s ∧
    { t.notices with queue := q, lost := s.notices.lost } =
      { s.notices with
        coalescing := if q = [] then some (s.seconds + BitVec.ofNat 32 s.params.coalescing)
          else s.notices.coalescing }
end

