-- ==== Sys2Proof/Laws/State.lean ====
section
/-! SUPPORT. What each named update of the state leaves alone: one lemma for each field and each row
and each update, so that no proof unfolds a record update. -/

namespace Sys2Proof.Machine

/-! ### `State.putStation` -/

@[simp] theorem State.putStation_pending (s : State) (a : Nat) (r : Row Station) :
    (s.putStation a r).pending = s.pending := rfl
@[simp] theorem State.putStation_containers (s : State) (a : Nat) (r : Row Station) :
    (s.putStation a r).containers = s.containers := rfl
@[simp] theorem State.putStation_streams (s : State) (a : Nat) (r : Row Station) :
    (s.putStation a r).streams = s.streams := rfl
@[simp] theorem State.putStation_series (s : State) (a : Nat) (r : Row Station) :
    (s.putStation a r).series = s.series := rfl
@[simp] theorem State.putStation_window (s : State) (a : Nat) (r : Row Station) :
    (s.putStation a r).window = s.window := rfl
@[simp] theorem State.putStation_cards (s : State) (a : Nat) (r : Row Station) :
    (s.putStation a r).cards = s.cards := rfl
@[simp] theorem State.putStation_kinds (s : State) (a : Nat) (r : Row Station) :
    (s.putStation a r).kinds = s.kinds := rfl
@[simp] theorem State.putStation_segA (s : State) (a : Nat) (r : Row Station) :
    (s.putStation a r).segA = s.segA := rfl
@[simp] theorem State.putStation_segB (s : State) (a : Nat) (r : Row Station) :
    (s.putStation a r).segB = s.segB := rfl
@[simp] theorem State.putStation_deposits (s : State) (a : Nat) (r : Row Station) :
    (s.putStation a r).deposits = s.deposits := rfl
@[simp] theorem State.putStation_journal (s : State) (a : Nat) (r : Row Station) :
    (s.putStation a r).journal = s.journal := rfl
@[simp] theorem State.putStation_tickets (s : State) (a : Nat) (r : Row Station) :
    (s.putStation a r).tickets = s.tickets := rfl
@[simp] theorem State.putStation_dispatch (s : State) (a : Nat) (r : Row Station) :
    (s.putStation a r).dispatch = s.dispatch := rfl
@[simp] theorem State.putStation_link (s : State) (a : Nat) (r : Row Station) :
    (s.putStation a r).link = s.link := rfl
@[simp] theorem State.putStation_mgmt (s : State) (a : Nat) (r : Row Station) :
    (s.putStation a r).mgmt = s.mgmt := rfl
@[simp] theorem State.putStation_params (s : State) (a : Nat) (r : Row Station) :
    (s.putStation a r).params = s.params := rfl
@[simp] theorem State.putStation_seconds (s : State) (a : Nat) (r : Row Station) :
    (s.putStation a r).seconds = s.seconds := rfl
@[simp] theorem State.putStation_clock (s : State) (a : Nat) (r : Row Station) :
    (s.putStation a r).clock = s.clock := rfl
@[simp] theorem State.putStation_notices (s : State) (a : Nat) (r : Row Station) :
    (s.putStation a r).notices = s.notices := rfl
@[simp] theorem State.putStation_capture (s : State) (a : Nat) (r : Row Station) :
    (s.putStation a r).capture = s.capture := rfl
@[simp] theorem State.putStation_containerRow (s : State) (a : Nat) (r : Row Station) (n : Nat) :
    (s.putStation a r).containerRow n = s.containerRow n := rfl
@[simp] theorem State.putStation_container (s : State) (a : Nat) (r : Row Station) (n : Nat) :
    (s.putStation a r).container n = s.container n := rfl
@[simp] theorem State.putStation_streamRow (s : State) (a : Nat) (r : Row Station) (n : Nat) :
    (s.putStation a r).streamRow n = s.streamRow n := rfl
@[simp] theorem State.putStation_seriesRow (s : State) (a : Nat) (r : Row Station) (n : Nat) :
    (s.putStation a r).seriesRow n = s.seriesRow n := rfl
@[simp] theorem State.putStation_cardRow (s : State) (a : Nat) (r : Row Station) (n : Nat) :
    (s.putStation a r).cardRow n = s.cardRow n := rfl
@[simp] theorem State.putStation_card (s : State) (a : Nat) (r : Row Station) (n : Nat) :
    (s.putStation a r).card n = s.card n := rfl
@[simp] theorem State.putStation_kindRow (s : State) (a : Nat) (r : Row Station) (n : Nat) :
    (s.putStation a r).kindRow n = s.kindRow n := rfl
@[simp] theorem State.putStation_ticket (s : State) (a : Nat) (r : Row Station) (n : Nat) :
    (s.putStation a r).ticket n = s.ticket n := rfl
@[simp] theorem State.putStation_seg (s : State) (a : Nat) (r : Row Station) (h : Seg) :
    (s.putStation a r).seg h = s.seg h := by cases h <;> rfl

/-! ### `State.putContainer` -/

@[simp] theorem State.putContainer_pending (s : State) (a : Nat) (r : Row Container) :
    (s.putContainer a r).pending = s.pending := rfl
@[simp] theorem State.putContainer_stations (s : State) (a : Nat) (r : Row Container) :
    (s.putContainer a r).stations = s.stations := rfl
@[simp] theorem State.putContainer_streams (s : State) (a : Nat) (r : Row Container) :
    (s.putContainer a r).streams = s.streams := rfl
@[simp] theorem State.putContainer_series (s : State) (a : Nat) (r : Row Container) :
    (s.putContainer a r).series = s.series := rfl
@[simp] theorem State.putContainer_window (s : State) (a : Nat) (r : Row Container) :
    (s.putContainer a r).window = s.window := rfl
@[simp] theorem State.putContainer_cards (s : State) (a : Nat) (r : Row Container) :
    (s.putContainer a r).cards = s.cards := rfl
@[simp] theorem State.putContainer_kinds (s : State) (a : Nat) (r : Row Container) :
    (s.putContainer a r).kinds = s.kinds := rfl
@[simp] theorem State.putContainer_segA (s : State) (a : Nat) (r : Row Container) :
    (s.putContainer a r).segA = s.segA := rfl
@[simp] theorem State.putContainer_segB (s : State) (a : Nat) (r : Row Container) :
    (s.putContainer a r).segB = s.segB := rfl
@[simp] theorem State.putContainer_deposits (s : State) (a : Nat) (r : Row Container) :
    (s.putContainer a r).deposits = s.deposits := rfl
@[simp] theorem State.putContainer_journal (s : State) (a : Nat) (r : Row Container) :
    (s.putContainer a r).journal = s.journal := rfl
@[simp] theorem State.putContainer_tickets (s : State) (a : Nat) (r : Row Container) :
    (s.putContainer a r).tickets = s.tickets := rfl
@[simp] theorem State.putContainer_dispatch (s : State) (a : Nat) (r : Row Container) :
    (s.putContainer a r).dispatch = s.dispatch := rfl
@[simp] theorem State.putContainer_link (s : State) (a : Nat) (r : Row Container) :
    (s.putContainer a r).link = s.link := rfl
@[simp] theorem State.putContainer_mgmt (s : State) (a : Nat) (r : Row Container) :
    (s.putContainer a r).mgmt = s.mgmt := rfl
@[simp] theorem State.putContainer_params (s : State) (a : Nat) (r : Row Container) :
    (s.putContainer a r).params = s.params := rfl
@[simp] theorem State.putContainer_seconds (s : State) (a : Nat) (r : Row Container) :
    (s.putContainer a r).seconds = s.seconds := rfl
@[simp] theorem State.putContainer_clock (s : State) (a : Nat) (r : Row Container) :
    (s.putContainer a r).clock = s.clock := rfl
@[simp] theorem State.putContainer_notices (s : State) (a : Nat) (r : Row Container) :
    (s.putContainer a r).notices = s.notices := rfl
@[simp] theorem State.putContainer_capture (s : State) (a : Nat) (r : Row Container) :
    (s.putContainer a r).capture = s.capture := rfl
@[simp] theorem State.putContainer_stationRow (s : State) (a : Nat) (r : Row Container) (n : Nat) :
    (s.putContainer a r).stationRow n = s.stationRow n := rfl
@[simp] theorem State.putContainer_station (s : State) (a : Nat) (r : Row Container) (n : Nat) :
    (s.putContainer a r).station n = s.station n := rfl
@[simp] theorem State.putContainer_streamRow (s : State) (a : Nat) (r : Row Container) (n : Nat) :
    (s.putContainer a r).streamRow n = s.streamRow n := rfl
@[simp] theorem State.putContainer_seriesRow (s : State) (a : Nat) (r : Row Container) (n : Nat) :
    (s.putContainer a r).seriesRow n = s.seriesRow n := rfl
@[simp] theorem State.putContainer_cardRow (s : State) (a : Nat) (r : Row Container) (n : Nat) :
    (s.putContainer a r).cardRow n = s.cardRow n := rfl
@[simp] theorem State.putContainer_card (s : State) (a : Nat) (r : Row Container) (n : Nat) :
    (s.putContainer a r).card n = s.card n := rfl
@[simp] theorem State.putContainer_kindRow (s : State) (a : Nat) (r : Row Container) (n : Nat) :
    (s.putContainer a r).kindRow n = s.kindRow n := rfl
@[simp] theorem State.putContainer_ticket (s : State) (a : Nat) (r : Row Container) (n : Nat) :
    (s.putContainer a r).ticket n = s.ticket n := rfl
@[simp] theorem State.putContainer_seg (s : State) (a : Nat) (r : Row Container) (h : Seg) :
    (s.putContainer a r).seg h = s.seg h := by cases h <;> rfl

/-! ### `State.putStream` -/

@[simp] theorem State.putStream_pending (s : State) (a : Nat) (r : Row StreamEntry) :
    (s.putStream a r).pending = s.pending := rfl
@[simp] theorem State.putStream_stations (s : State) (a : Nat) (r : Row StreamEntry) :
    (s.putStream a r).stations = s.stations := rfl
@[simp] theorem State.putStream_containers (s : State) (a : Nat) (r : Row StreamEntry) :
    (s.putStream a r).containers = s.containers := rfl
@[simp] theorem State.putStream_series (s : State) (a : Nat) (r : Row StreamEntry) :
    (s.putStream a r).series = s.series := rfl
@[simp] theorem State.putStream_window (s : State) (a : Nat) (r : Row StreamEntry) :
    (s.putStream a r).window = s.window := rfl
@[simp] theorem State.putStream_cards (s : State) (a : Nat) (r : Row StreamEntry) :
    (s.putStream a r).cards = s.cards := rfl
@[simp] theorem State.putStream_kinds (s : State) (a : Nat) (r : Row StreamEntry) :
    (s.putStream a r).kinds = s.kinds := rfl
@[simp] theorem State.putStream_segA (s : State) (a : Nat) (r : Row StreamEntry) :
    (s.putStream a r).segA = s.segA := rfl
@[simp] theorem State.putStream_segB (s : State) (a : Nat) (r : Row StreamEntry) :
    (s.putStream a r).segB = s.segB := rfl
@[simp] theorem State.putStream_deposits (s : State) (a : Nat) (r : Row StreamEntry) :
    (s.putStream a r).deposits = s.deposits := rfl
@[simp] theorem State.putStream_journal (s : State) (a : Nat) (r : Row StreamEntry) :
    (s.putStream a r).journal = s.journal := rfl
@[simp] theorem State.putStream_tickets (s : State) (a : Nat) (r : Row StreamEntry) :
    (s.putStream a r).tickets = s.tickets := rfl
@[simp] theorem State.putStream_dispatch (s : State) (a : Nat) (r : Row StreamEntry) :
    (s.putStream a r).dispatch = s.dispatch := rfl
@[simp] theorem State.putStream_link (s : State) (a : Nat) (r : Row StreamEntry) :
    (s.putStream a r).link = s.link := rfl
@[simp] theorem State.putStream_mgmt (s : State) (a : Nat) (r : Row StreamEntry) :
    (s.putStream a r).mgmt = s.mgmt := rfl
@[simp] theorem State.putStream_params (s : State) (a : Nat) (r : Row StreamEntry) :
    (s.putStream a r).params = s.params := rfl
@[simp] theorem State.putStream_seconds (s : State) (a : Nat) (r : Row StreamEntry) :
    (s.putStream a r).seconds = s.seconds := rfl
@[simp] theorem State.putStream_clock (s : State) (a : Nat) (r : Row StreamEntry) :
    (s.putStream a r).clock = s.clock := rfl
@[simp] theorem State.putStream_notices (s : State) (a : Nat) (r : Row StreamEntry) :
    (s.putStream a r).notices = s.notices := rfl
@[simp] theorem State.putStream_capture (s : State) (a : Nat) (r : Row StreamEntry) :
    (s.putStream a r).capture = s.capture := rfl
@[simp] theorem State.putStream_stationRow (s : State) (a : Nat) (r : Row StreamEntry) (n : Nat) :
    (s.putStream a r).stationRow n = s.stationRow n := rfl
@[simp] theorem State.putStream_station (s : State) (a : Nat) (r : Row StreamEntry) (n : Nat) :
    (s.putStream a r).station n = s.station n := rfl
@[simp] theorem State.putStream_containerRow (s : State) (a : Nat) (r : Row StreamEntry) (n : Nat) :
    (s.putStream a r).containerRow n = s.containerRow n := rfl
@[simp] theorem State.putStream_container (s : State) (a : Nat) (r : Row StreamEntry) (n : Nat) :
    (s.putStream a r).container n = s.container n := rfl
@[simp] theorem State.putStream_seriesRow (s : State) (a : Nat) (r : Row StreamEntry) (n : Nat) :
    (s.putStream a r).seriesRow n = s.seriesRow n := rfl
@[simp] theorem State.putStream_cardRow (s : State) (a : Nat) (r : Row StreamEntry) (n : Nat) :
    (s.putStream a r).cardRow n = s.cardRow n := rfl
@[simp] theorem State.putStream_card (s : State) (a : Nat) (r : Row StreamEntry) (n : Nat) :
    (s.putStream a r).card n = s.card n := rfl
@[simp] theorem State.putStream_kindRow (s : State) (a : Nat) (r : Row StreamEntry) (n : Nat) :
    (s.putStream a r).kindRow n = s.kindRow n := rfl
@[simp] theorem State.putStream_ticket (s : State) (a : Nat) (r : Row StreamEntry) (n : Nat) :
    (s.putStream a r).ticket n = s.ticket n := rfl
@[simp] theorem State.putStream_seg (s : State) (a : Nat) (r : Row StreamEntry) (h : Seg) :
    (s.putStream a r).seg h = s.seg h := by cases h <;> rfl

/-! ### `State.putSeries` -/

@[simp] theorem State.putSeries_pending (s : State) (a : Nat) (r : Row SeriesEntry) :
    (s.putSeries a r).pending = s.pending := rfl
@[simp] theorem State.putSeries_stations (s : State) (a : Nat) (r : Row SeriesEntry) :
    (s.putSeries a r).stations = s.stations := rfl
@[simp] theorem State.putSeries_containers (s : State) (a : Nat) (r : Row SeriesEntry) :
    (s.putSeries a r).containers = s.containers := rfl
@[simp] theorem State.putSeries_streams (s : State) (a : Nat) (r : Row SeriesEntry) :
    (s.putSeries a r).streams = s.streams := rfl
@[simp] theorem State.putSeries_window (s : State) (a : Nat) (r : Row SeriesEntry) :
    (s.putSeries a r).window = s.window := rfl
@[simp] theorem State.putSeries_cards (s : State) (a : Nat) (r : Row SeriesEntry) :
    (s.putSeries a r).cards = s.cards := rfl
@[simp] theorem State.putSeries_kinds (s : State) (a : Nat) (r : Row SeriesEntry) :
    (s.putSeries a r).kinds = s.kinds := rfl
@[simp] theorem State.putSeries_segA (s : State) (a : Nat) (r : Row SeriesEntry) :
    (s.putSeries a r).segA = s.segA := rfl
@[simp] theorem State.putSeries_segB (s : State) (a : Nat) (r : Row SeriesEntry) :
    (s.putSeries a r).segB = s.segB := rfl
@[simp] theorem State.putSeries_deposits (s : State) (a : Nat) (r : Row SeriesEntry) :
    (s.putSeries a r).deposits = s.deposits := rfl
@[simp] theorem State.putSeries_journal (s : State) (a : Nat) (r : Row SeriesEntry) :
    (s.putSeries a r).journal = s.journal := rfl
@[simp] theorem State.putSeries_tickets (s : State) (a : Nat) (r : Row SeriesEntry) :
    (s.putSeries a r).tickets = s.tickets := rfl
@[simp] theorem State.putSeries_dispatch (s : State) (a : Nat) (r : Row SeriesEntry) :
    (s.putSeries a r).dispatch = s.dispatch := rfl
@[simp] theorem State.putSeries_link (s : State) (a : Nat) (r : Row SeriesEntry) :
    (s.putSeries a r).link = s.link := rfl
@[simp] theorem State.putSeries_mgmt (s : State) (a : Nat) (r : Row SeriesEntry) :
    (s.putSeries a r).mgmt = s.mgmt := rfl
@[simp] theorem State.putSeries_params (s : State) (a : Nat) (r : Row SeriesEntry) :
    (s.putSeries a r).params = s.params := rfl
@[simp] theorem State.putSeries_seconds (s : State) (a : Nat) (r : Row SeriesEntry) :
    (s.putSeries a r).seconds = s.seconds := rfl
@[simp] theorem State.putSeries_clock (s : State) (a : Nat) (r : Row SeriesEntry) :
    (s.putSeries a r).clock = s.clock := rfl
@[simp] theorem State.putSeries_notices (s : State) (a : Nat) (r : Row SeriesEntry) :
    (s.putSeries a r).notices = s.notices := rfl
@[simp] theorem State.putSeries_capture (s : State) (a : Nat) (r : Row SeriesEntry) :
    (s.putSeries a r).capture = s.capture := rfl
@[simp] theorem State.putSeries_stationRow (s : State) (a : Nat) (r : Row SeriesEntry) (n : Nat) :
    (s.putSeries a r).stationRow n = s.stationRow n := rfl
@[simp] theorem State.putSeries_station (s : State) (a : Nat) (r : Row SeriesEntry) (n : Nat) :
    (s.putSeries a r).station n = s.station n := rfl
@[simp] theorem State.putSeries_containerRow (s : State) (a : Nat) (r : Row SeriesEntry) (n : Nat) :
    (s.putSeries a r).containerRow n = s.containerRow n := rfl
@[simp] theorem State.putSeries_container (s : State) (a : Nat) (r : Row SeriesEntry) (n : Nat) :
    (s.putSeries a r).container n = s.container n := rfl
@[simp] theorem State.putSeries_streamRow (s : State) (a : Nat) (r : Row SeriesEntry) (n : Nat) :
    (s.putSeries a r).streamRow n = s.streamRow n := rfl
@[simp] theorem State.putSeries_cardRow (s : State) (a : Nat) (r : Row SeriesEntry) (n : Nat) :
    (s.putSeries a r).cardRow n = s.cardRow n := rfl
@[simp] theorem State.putSeries_card (s : State) (a : Nat) (r : Row SeriesEntry) (n : Nat) :
    (s.putSeries a r).card n = s.card n := rfl
@[simp] theorem State.putSeries_kindRow (s : State) (a : Nat) (r : Row SeriesEntry) (n : Nat) :
    (s.putSeries a r).kindRow n = s.kindRow n := rfl
@[simp] theorem State.putSeries_ticket (s : State) (a : Nat) (r : Row SeriesEntry) (n : Nat) :
    (s.putSeries a r).ticket n = s.ticket n := rfl
@[simp] theorem State.putSeries_seg (s : State) (a : Nat) (r : Row SeriesEntry) (h : Seg) :
    (s.putSeries a r).seg h = s.seg h := by cases h <;> rfl

/-! ### `State.putCard` -/

@[simp] theorem State.putCard_pending (s : State) (a : Nat) (r : Row CardRow) :
    (s.putCard a r).pending = s.pending := rfl
@[simp] theorem State.putCard_stations (s : State) (a : Nat) (r : Row CardRow) :
    (s.putCard a r).stations = s.stations := rfl
@[simp] theorem State.putCard_containers (s : State) (a : Nat) (r : Row CardRow) :
    (s.putCard a r).containers = s.containers := rfl
@[simp] theorem State.putCard_streams (s : State) (a : Nat) (r : Row CardRow) :
    (s.putCard a r).streams = s.streams := rfl
@[simp] theorem State.putCard_series (s : State) (a : Nat) (r : Row CardRow) :
    (s.putCard a r).series = s.series := rfl
@[simp] theorem State.putCard_window (s : State) (a : Nat) (r : Row CardRow) :
    (s.putCard a r).window = s.window := rfl
@[simp] theorem State.putCard_kinds (s : State) (a : Nat) (r : Row CardRow) :
    (s.putCard a r).kinds = s.kinds := rfl
@[simp] theorem State.putCard_segA (s : State) (a : Nat) (r : Row CardRow) :
    (s.putCard a r).segA = s.segA := rfl
@[simp] theorem State.putCard_segB (s : State) (a : Nat) (r : Row CardRow) :
    (s.putCard a r).segB = s.segB := rfl
@[simp] theorem State.putCard_deposits (s : State) (a : Nat) (r : Row CardRow) :
    (s.putCard a r).deposits = s.deposits := rfl
@[simp] theorem State.putCard_journal (s : State) (a : Nat) (r : Row CardRow) :
    (s.putCard a r).journal = s.journal := rfl
@[simp] theorem State.putCard_tickets (s : State) (a : Nat) (r : Row CardRow) :
    (s.putCard a r).tickets = s.tickets := rfl
@[simp] theorem State.putCard_dispatch (s : State) (a : Nat) (r : Row CardRow) :
    (s.putCard a r).dispatch = s.dispatch := rfl
@[simp] theorem State.putCard_link (s : State) (a : Nat) (r : Row CardRow) :
    (s.putCard a r).link = s.link := rfl
@[simp] theorem State.putCard_mgmt (s : State) (a : Nat) (r : Row CardRow) :
    (s.putCard a r).mgmt = s.mgmt := rfl
@[simp] theorem State.putCard_params (s : State) (a : Nat) (r : Row CardRow) :
    (s.putCard a r).params = s.params := rfl
@[simp] theorem State.putCard_seconds (s : State) (a : Nat) (r : Row CardRow) :
    (s.putCard a r).seconds = s.seconds := rfl
@[simp] theorem State.putCard_clock (s : State) (a : Nat) (r : Row CardRow) :
    (s.putCard a r).clock = s.clock := rfl
@[simp] theorem State.putCard_notices (s : State) (a : Nat) (r : Row CardRow) :
    (s.putCard a r).notices = s.notices := rfl
@[simp] theorem State.putCard_capture (s : State) (a : Nat) (r : Row CardRow) :
    (s.putCard a r).capture = s.capture := rfl
@[simp] theorem State.putCard_stationRow (s : State) (a : Nat) (r : Row CardRow) (n : Nat) :
    (s.putCard a r).stationRow n = s.stationRow n := rfl
@[simp] theorem State.putCard_station (s : State) (a : Nat) (r : Row CardRow) (n : Nat) :
    (s.putCard a r).station n = s.station n := rfl
@[simp] theorem State.putCard_containerRow (s : State) (a : Nat) (r : Row CardRow) (n : Nat) :
    (s.putCard a r).containerRow n = s.containerRow n := rfl
@[simp] theorem State.putCard_container (s : State) (a : Nat) (r : Row CardRow) (n : Nat) :
    (s.putCard a r).container n = s.container n := rfl
@[simp] theorem State.putCard_streamRow (s : State) (a : Nat) (r : Row CardRow) (n : Nat) :
    (s.putCard a r).streamRow n = s.streamRow n := rfl
@[simp] theorem State.putCard_seriesRow (s : State) (a : Nat) (r : Row CardRow) (n : Nat) :
    (s.putCard a r).seriesRow n = s.seriesRow n := rfl
@[simp] theorem State.putCard_kindRow (s : State) (a : Nat) (r : Row CardRow) (n : Nat) :
    (s.putCard a r).kindRow n = s.kindRow n := rfl
@[simp] theorem State.putCard_ticket (s : State) (a : Nat) (r : Row CardRow) (n : Nat) :
    (s.putCard a r).ticket n = s.ticket n := rfl
@[simp] theorem State.putCard_seg (s : State) (a : Nat) (r : Row CardRow) (h : Seg) :
    (s.putCard a r).seg h = s.seg h := by cases h <;> rfl

/-! ### `State.putKind` -/

@[simp] theorem State.putKind_pending (s : State) (a : Nat) (r : Row Nat) :
    (s.putKind a r).pending = s.pending := rfl
@[simp] theorem State.putKind_stations (s : State) (a : Nat) (r : Row Nat) :
    (s.putKind a r).stations = s.stations := rfl
@[simp] theorem State.putKind_containers (s : State) (a : Nat) (r : Row Nat) :
    (s.putKind a r).containers = s.containers := rfl
@[simp] theorem State.putKind_streams (s : State) (a : Nat) (r : Row Nat) :
    (s.putKind a r).streams = s.streams := rfl
@[simp] theorem State.putKind_series (s : State) (a : Nat) (r : Row Nat) :
    (s.putKind a r).series = s.series := rfl
@[simp] theorem State.putKind_window (s : State) (a : Nat) (r : Row Nat) :
    (s.putKind a r).window = s.window := rfl
@[simp] theorem State.putKind_cards (s : State) (a : Nat) (r : Row Nat) :
    (s.putKind a r).cards = s.cards := rfl
@[simp] theorem State.putKind_segA (s : State) (a : Nat) (r : Row Nat) :
    (s.putKind a r).segA = s.segA := rfl
@[simp] theorem State.putKind_segB (s : State) (a : Nat) (r : Row Nat) :
    (s.putKind a r).segB = s.segB := rfl
@[simp] theorem State.putKind_deposits (s : State) (a : Nat) (r : Row Nat) :
    (s.putKind a r).deposits = s.deposits := rfl
@[simp] theorem State.putKind_journal (s : State) (a : Nat) (r : Row Nat) :
    (s.putKind a r).journal = s.journal := rfl
@[simp] theorem State.putKind_tickets (s : State) (a : Nat) (r : Row Nat) :
    (s.putKind a r).tickets = s.tickets := rfl
@[simp] theorem State.putKind_dispatch (s : State) (a : Nat) (r : Row Nat) :
    (s.putKind a r).dispatch = s.dispatch := rfl
@[simp] theorem State.putKind_link (s : State) (a : Nat) (r : Row Nat) :
    (s.putKind a r).link = s.link := rfl
@[simp] theorem State.putKind_mgmt (s : State) (a : Nat) (r : Row Nat) :
    (s.putKind a r).mgmt = s.mgmt := rfl
@[simp] theorem State.putKind_params (s : State) (a : Nat) (r : Row Nat) :
    (s.putKind a r).params = s.params := rfl
@[simp] theorem State.putKind_seconds (s : State) (a : Nat) (r : Row Nat) :
    (s.putKind a r).seconds = s.seconds := rfl
@[simp] theorem State.putKind_clock (s : State) (a : Nat) (r : Row Nat) :
    (s.putKind a r).clock = s.clock := rfl
@[simp] theorem State.putKind_notices (s : State) (a : Nat) (r : Row Nat) :
    (s.putKind a r).notices = s.notices := rfl
@[simp] theorem State.putKind_capture (s : State) (a : Nat) (r : Row Nat) :
    (s.putKind a r).capture = s.capture := rfl
@[simp] theorem State.putKind_stationRow (s : State) (a : Nat) (r : Row Nat) (n : Nat) :
    (s.putKind a r).stationRow n = s.stationRow n := rfl
@[simp] theorem State.putKind_station (s : State) (a : Nat) (r : Row Nat) (n : Nat) :
    (s.putKind a r).station n = s.station n := rfl
@[simp] theorem State.putKind_containerRow (s : State) (a : Nat) (r : Row Nat) (n : Nat) :
    (s.putKind a r).containerRow n = s.containerRow n := rfl
@[simp] theorem State.putKind_container (s : State) (a : Nat) (r : Row Nat) (n : Nat) :
    (s.putKind a r).container n = s.container n := rfl
@[simp] theorem State.putKind_streamRow (s : State) (a : Nat) (r : Row Nat) (n : Nat) :
    (s.putKind a r).streamRow n = s.streamRow n := rfl
@[simp] theorem State.putKind_seriesRow (s : State) (a : Nat) (r : Row Nat) (n : Nat) :
    (s.putKind a r).seriesRow n = s.seriesRow n := rfl
@[simp] theorem State.putKind_cardRow (s : State) (a : Nat) (r : Row Nat) (n : Nat) :
    (s.putKind a r).cardRow n = s.cardRow n := rfl
@[simp] theorem State.putKind_card (s : State) (a : Nat) (r : Row Nat) (n : Nat) :
    (s.putKind a r).card n = s.card n := rfl
@[simp] theorem State.putKind_ticket (s : State) (a : Nat) (r : Row Nat) (n : Nat) :
    (s.putKind a r).ticket n = s.ticket n := rfl
@[simp] theorem State.putKind_seg (s : State) (a : Nat) (r : Row Nat) (h : Seg) :
    (s.putKind a r).seg h = s.seg h := by cases h <;> rfl

/-! ### `State.putTicket` -/

@[simp] theorem State.putTicket_pending (s : State) (a : Nat) (t : Ticket) :
    (s.putTicket a t).pending = s.pending := rfl
@[simp] theorem State.putTicket_stations (s : State) (a : Nat) (t : Ticket) :
    (s.putTicket a t).stations = s.stations := rfl
@[simp] theorem State.putTicket_containers (s : State) (a : Nat) (t : Ticket) :
    (s.putTicket a t).containers = s.containers := rfl
@[simp] theorem State.putTicket_streams (s : State) (a : Nat) (t : Ticket) :
    (s.putTicket a t).streams = s.streams := rfl
@[simp] theorem State.putTicket_series (s : State) (a : Nat) (t : Ticket) :
    (s.putTicket a t).series = s.series := rfl
@[simp] theorem State.putTicket_window (s : State) (a : Nat) (t : Ticket) :
    (s.putTicket a t).window = s.window := rfl
@[simp] theorem State.putTicket_cards (s : State) (a : Nat) (t : Ticket) :
    (s.putTicket a t).cards = s.cards := rfl
@[simp] theorem State.putTicket_kinds (s : State) (a : Nat) (t : Ticket) :
    (s.putTicket a t).kinds = s.kinds := rfl
@[simp] theorem State.putTicket_segA (s : State) (a : Nat) (t : Ticket) :
    (s.putTicket a t).segA = s.segA := rfl
@[simp] theorem State.putTicket_segB (s : State) (a : Nat) (t : Ticket) :
    (s.putTicket a t).segB = s.segB := rfl
@[simp] theorem State.putTicket_deposits (s : State) (a : Nat) (t : Ticket) :
    (s.putTicket a t).deposits = s.deposits := rfl
@[simp] theorem State.putTicket_journal (s : State) (a : Nat) (t : Ticket) :
    (s.putTicket a t).journal = s.journal := rfl
@[simp] theorem State.putTicket_dispatch (s : State) (a : Nat) (t : Ticket) :
    (s.putTicket a t).dispatch = s.dispatch := rfl
@[simp] theorem State.putTicket_link (s : State) (a : Nat) (t : Ticket) :
    (s.putTicket a t).link = s.link := rfl
@[simp] theorem State.putTicket_mgmt (s : State) (a : Nat) (t : Ticket) :
    (s.putTicket a t).mgmt = s.mgmt := rfl
@[simp] theorem State.putTicket_params (s : State) (a : Nat) (t : Ticket) :
    (s.putTicket a t).params = s.params := rfl
@[simp] theorem State.putTicket_seconds (s : State) (a : Nat) (t : Ticket) :
    (s.putTicket a t).seconds = s.seconds := rfl
@[simp] theorem State.putTicket_clock (s : State) (a : Nat) (t : Ticket) :
    (s.putTicket a t).clock = s.clock := rfl
@[simp] theorem State.putTicket_notices (s : State) (a : Nat) (t : Ticket) :
    (s.putTicket a t).notices = s.notices := rfl
@[simp] theorem State.putTicket_capture (s : State) (a : Nat) (t : Ticket) :
    (s.putTicket a t).capture = s.capture := rfl
@[simp] theorem State.putTicket_stationRow (s : State) (a : Nat) (t : Ticket) (n : Nat) :
    (s.putTicket a t).stationRow n = s.stationRow n := rfl
@[simp] theorem State.putTicket_station (s : State) (a : Nat) (t : Ticket) (n : Nat) :
    (s.putTicket a t).station n = s.station n := rfl
@[simp] theorem State.putTicket_containerRow (s : State) (a : Nat) (t : Ticket) (n : Nat) :
    (s.putTicket a t).containerRow n = s.containerRow n := rfl
@[simp] theorem State.putTicket_container (s : State) (a : Nat) (t : Ticket) (n : Nat) :
    (s.putTicket a t).container n = s.container n := rfl
@[simp] theorem State.putTicket_streamRow (s : State) (a : Nat) (t : Ticket) (n : Nat) :
    (s.putTicket a t).streamRow n = s.streamRow n := rfl
@[simp] theorem State.putTicket_seriesRow (s : State) (a : Nat) (t : Ticket) (n : Nat) :
    (s.putTicket a t).seriesRow n = s.seriesRow n := rfl
@[simp] theorem State.putTicket_cardRow (s : State) (a : Nat) (t : Ticket) (n : Nat) :
    (s.putTicket a t).cardRow n = s.cardRow n := rfl
@[simp] theorem State.putTicket_card (s : State) (a : Nat) (t : Ticket) (n : Nat) :
    (s.putTicket a t).card n = s.card n := rfl
@[simp] theorem State.putTicket_kindRow (s : State) (a : Nat) (t : Ticket) (n : Nat) :
    (s.putTicket a t).kindRow n = s.kindRow n := rfl
@[simp] theorem State.putTicket_seg (s : State) (a : Nat) (t : Ticket) (h : Seg) :
    (s.putTicket a t).seg h = s.seg h := by cases h <;> rfl

/-! ### `State.editSeg` -/

@[simp] theorem State.editSeg_pending (s : State) (g : Seg) (f : Segment → Segment) :
    (s.editSeg g f).pending = s.pending := by cases g <;> rfl
@[simp] theorem State.editSeg_stations (s : State) (g : Seg) (f : Segment → Segment) :
    (s.editSeg g f).stations = s.stations := by cases g <;> rfl
@[simp] theorem State.editSeg_containers (s : State) (g : Seg) (f : Segment → Segment) :
    (s.editSeg g f).containers = s.containers := by cases g <;> rfl
@[simp] theorem State.editSeg_streams (s : State) (g : Seg) (f : Segment → Segment) :
    (s.editSeg g f).streams = s.streams := by cases g <;> rfl
@[simp] theorem State.editSeg_series (s : State) (g : Seg) (f : Segment → Segment) :
    (s.editSeg g f).series = s.series := by cases g <;> rfl
@[simp] theorem State.editSeg_window (s : State) (g : Seg) (f : Segment → Segment) :
    (s.editSeg g f).window = s.window := by cases g <;> rfl
@[simp] theorem State.editSeg_cards (s : State) (g : Seg) (f : Segment → Segment) :
    (s.editSeg g f).cards = s.cards := by cases g <;> rfl
@[simp] theorem State.editSeg_kinds (s : State) (g : Seg) (f : Segment → Segment) :
    (s.editSeg g f).kinds = s.kinds := by cases g <;> rfl
@[simp] theorem State.editSeg_deposits (s : State) (g : Seg) (f : Segment → Segment) :
    (s.editSeg g f).deposits = s.deposits := by cases g <;> rfl
@[simp] theorem State.editSeg_journal (s : State) (g : Seg) (f : Segment → Segment) :
    (s.editSeg g f).journal = s.journal := by cases g <;> rfl
@[simp] theorem State.editSeg_tickets (s : State) (g : Seg) (f : Segment → Segment) :
    (s.editSeg g f).tickets = s.tickets := by cases g <;> rfl
@[simp] theorem State.editSeg_dispatch (s : State) (g : Seg) (f : Segment → Segment) :
    (s.editSeg g f).dispatch = s.dispatch := by cases g <;> rfl
@[simp] theorem State.editSeg_link (s : State) (g : Seg) (f : Segment → Segment) :
    (s.editSeg g f).link = s.link := by cases g <;> rfl
@[simp] theorem State.editSeg_mgmt (s : State) (g : Seg) (f : Segment → Segment) :
    (s.editSeg g f).mgmt = s.mgmt := by cases g <;> rfl
@[simp] theorem State.editSeg_params (s : State) (g : Seg) (f : Segment → Segment) :
    (s.editSeg g f).params = s.params := by cases g <;> rfl
@[simp] theorem State.editSeg_seconds (s : State) (g : Seg) (f : Segment → Segment) :
    (s.editSeg g f).seconds = s.seconds := by cases g <;> rfl
@[simp] theorem State.editSeg_clock (s : State) (g : Seg) (f : Segment → Segment) :
    (s.editSeg g f).clock = s.clock := by cases g <;> rfl
@[simp] theorem State.editSeg_notices (s : State) (g : Seg) (f : Segment → Segment) :
    (s.editSeg g f).notices = s.notices := by cases g <;> rfl
@[simp] theorem State.editSeg_capture (s : State) (g : Seg) (f : Segment → Segment) :
    (s.editSeg g f).capture = s.capture := by cases g <;> rfl
@[simp] theorem State.editSeg_stationRow (s : State) (g : Seg) (f : Segment → Segment) (n : Nat) :
    (s.editSeg g f).stationRow n = s.stationRow n := by cases g <;> rfl
@[simp] theorem State.editSeg_station (s : State) (g : Seg) (f : Segment → Segment) (n : Nat) :
    (s.editSeg g f).station n = s.station n := by cases g <;> rfl
@[simp] theorem State.editSeg_containerRow (s : State) (g : Seg) (f : Segment → Segment) (n : Nat) :
    (s.editSeg g f).containerRow n = s.containerRow n := by cases g <;> rfl
@[simp] theorem State.editSeg_container (s : State) (g : Seg) (f : Segment → Segment) (n : Nat) :
    (s.editSeg g f).container n = s.container n := by cases g <;> rfl
@[simp] theorem State.editSeg_streamRow (s : State) (g : Seg) (f : Segment → Segment) (n : Nat) :
    (s.editSeg g f).streamRow n = s.streamRow n := by cases g <;> rfl
@[simp] theorem State.editSeg_seriesRow (s : State) (g : Seg) (f : Segment → Segment) (n : Nat) :
    (s.editSeg g f).seriesRow n = s.seriesRow n := by cases g <;> rfl
@[simp] theorem State.editSeg_cardRow (s : State) (g : Seg) (f : Segment → Segment) (n : Nat) :
    (s.editSeg g f).cardRow n = s.cardRow n := by cases g <;> rfl
@[simp] theorem State.editSeg_card (s : State) (g : Seg) (f : Segment → Segment) (n : Nat) :
    (s.editSeg g f).card n = s.card n := by cases g <;> rfl
@[simp] theorem State.editSeg_kindRow (s : State) (g : Seg) (f : Segment → Segment) (n : Nat) :
    (s.editSeg g f).kindRow n = s.kindRow n := by cases g <;> rfl
@[simp] theorem State.editSeg_ticket (s : State) (g : Seg) (f : Segment → Segment) (n : Nat) :
    (s.editSeg g f).ticket n = s.ticket n := by cases g <;> rfl

/-! ### `State.editDispatch` -/

@[simp] theorem State.editDispatch_pending (s : State) (f : Dispatch → Dispatch) :
    (s.editDispatch f).pending = s.pending := rfl
@[simp] theorem State.editDispatch_stations (s : State) (f : Dispatch → Dispatch) :
    (s.editDispatch f).stations = s.stations := rfl
@[simp] theorem State.editDispatch_containers (s : State) (f : Dispatch → Dispatch) :
    (s.editDispatch f).containers = s.containers := rfl
@[simp] theorem State.editDispatch_streams (s : State) (f : Dispatch → Dispatch) :
    (s.editDispatch f).streams = s.streams := rfl
@[simp] theorem State.editDispatch_series (s : State) (f : Dispatch → Dispatch) :
    (s.editDispatch f).series = s.series := rfl
@[simp] theorem State.editDispatch_window (s : State) (f : Dispatch → Dispatch) :
    (s.editDispatch f).window = s.window := rfl
@[simp] theorem State.editDispatch_cards (s : State) (f : Dispatch → Dispatch) :
    (s.editDispatch f).cards = s.cards := rfl
@[simp] theorem State.editDispatch_kinds (s : State) (f : Dispatch → Dispatch) :
    (s.editDispatch f).kinds = s.kinds := rfl
@[simp] theorem State.editDispatch_segA (s : State) (f : Dispatch → Dispatch) :
    (s.editDispatch f).segA = s.segA := rfl
@[simp] theorem State.editDispatch_segB (s : State) (f : Dispatch → Dispatch) :
    (s.editDispatch f).segB = s.segB := rfl
@[simp] theorem State.editDispatch_deposits (s : State) (f : Dispatch → Dispatch) :
    (s.editDispatch f).deposits = s.deposits := rfl
@[simp] theorem State.editDispatch_journal (s : State) (f : Dispatch → Dispatch) :
    (s.editDispatch f).journal = s.journal := rfl
@[simp] theorem State.editDispatch_tickets (s : State) (f : Dispatch → Dispatch) :
    (s.editDispatch f).tickets = s.tickets := rfl
@[simp] theorem State.editDispatch_dispatch (s : State) (f : Dispatch → Dispatch) :
    (s.editDispatch f).dispatch = f s.dispatch := rfl
@[simp] theorem State.editDispatch_link (s : State) (f : Dispatch → Dispatch) :
    (s.editDispatch f).link = s.link := rfl
@[simp] theorem State.editDispatch_mgmt (s : State) (f : Dispatch → Dispatch) :
    (s.editDispatch f).mgmt = s.mgmt := rfl
@[simp] theorem State.editDispatch_params (s : State) (f : Dispatch → Dispatch) :
    (s.editDispatch f).params = s.params := rfl
@[simp] theorem State.editDispatch_seconds (s : State) (f : Dispatch → Dispatch) :
    (s.editDispatch f).seconds = s.seconds := rfl
@[simp] theorem State.editDispatch_clock (s : State) (f : Dispatch → Dispatch) :
    (s.editDispatch f).clock = s.clock := rfl
@[simp] theorem State.editDispatch_notices (s : State) (f : Dispatch → Dispatch) :
    (s.editDispatch f).notices = s.notices := rfl
@[simp] theorem State.editDispatch_capture (s : State) (f : Dispatch → Dispatch) :
    (s.editDispatch f).capture = s.capture := rfl
@[simp] theorem State.editDispatch_stationRow (s : State) (f : Dispatch → Dispatch) (n : Nat) :
    (s.editDispatch f).stationRow n = s.stationRow n := rfl
@[simp] theorem State.editDispatch_station (s : State) (f : Dispatch → Dispatch) (n : Nat) :
    (s.editDispatch f).station n = s.station n := rfl
@[simp] theorem State.editDispatch_containerRow (s : State) (f : Dispatch → Dispatch) (n : Nat) :
    (s.editDispatch f).containerRow n = s.containerRow n := rfl
@[simp] theorem State.editDispatch_container (s : State) (f : Dispatch → Dispatch) (n : Nat) :
    (s.editDispatch f).container n = s.container n := rfl
@[simp] theorem State.editDispatch_streamRow (s : State) (f : Dispatch → Dispatch) (n : Nat) :
    (s.editDispatch f).streamRow n = s.streamRow n := rfl
@[simp] theorem State.editDispatch_seriesRow (s : State) (f : Dispatch → Dispatch) (n : Nat) :
    (s.editDispatch f).seriesRow n = s.seriesRow n := rfl
@[simp] theorem State.editDispatch_cardRow (s : State) (f : Dispatch → Dispatch) (n : Nat) :
    (s.editDispatch f).cardRow n = s.cardRow n := rfl
@[simp] theorem State.editDispatch_card (s : State) (f : Dispatch → Dispatch) (n : Nat) :
    (s.editDispatch f).card n = s.card n := rfl
@[simp] theorem State.editDispatch_kindRow (s : State) (f : Dispatch → Dispatch) (n : Nat) :
    (s.editDispatch f).kindRow n = s.kindRow n := rfl
@[simp] theorem State.editDispatch_ticket (s : State) (f : Dispatch → Dispatch) (n : Nat) :
    (s.editDispatch f).ticket n = s.ticket n := rfl
@[simp] theorem State.editDispatch_seg (s : State) (f : Dispatch → Dispatch) (h : Seg) :
    (s.editDispatch f).seg h = s.seg h := by cases h <;> rfl

/-! ### `State.editLink` -/

@[simp] theorem State.editLink_pending (s : State) (f : Link → Link) :
    (s.editLink f).pending = s.pending := rfl
@[simp] theorem State.editLink_stations (s : State) (f : Link → Link) :
    (s.editLink f).stations = s.stations := rfl
@[simp] theorem State.editLink_containers (s : State) (f : Link → Link) :
    (s.editLink f).containers = s.containers := rfl
@[simp] theorem State.editLink_streams (s : State) (f : Link → Link) :
    (s.editLink f).streams = s.streams := rfl
@[simp] theorem State.editLink_series (s : State) (f : Link → Link) :
    (s.editLink f).series = s.series := rfl
@[simp] theorem State.editLink_window (s : State) (f : Link → Link) :
    (s.editLink f).window = s.window := rfl
@[simp] theorem State.editLink_cards (s : State) (f : Link → Link) :
    (s.editLink f).cards = s.cards := rfl
@[simp] theorem State.editLink_kinds (s : State) (f : Link → Link) :
    (s.editLink f).kinds = s.kinds := rfl
@[simp] theorem State.editLink_segA (s : State) (f : Link → Link) :
    (s.editLink f).segA = s.segA := rfl
@[simp] theorem State.editLink_segB (s : State) (f : Link → Link) :
    (s.editLink f).segB = s.segB := rfl
@[simp] theorem State.editLink_deposits (s : State) (f : Link → Link) :
    (s.editLink f).deposits = s.deposits := rfl
@[simp] theorem State.editLink_journal (s : State) (f : Link → Link) :
    (s.editLink f).journal = s.journal := rfl
@[simp] theorem State.editLink_tickets (s : State) (f : Link → Link) :
    (s.editLink f).tickets = s.tickets := rfl
@[simp] theorem State.editLink_dispatch (s : State) (f : Link → Link) :
    (s.editLink f).dispatch = s.dispatch := rfl
@[simp] theorem State.editLink_link (s : State) (f : Link → Link) :
    (s.editLink f).link = f s.link := rfl
@[simp] theorem State.editLink_mgmt (s : State) (f : Link → Link) :
    (s.editLink f).mgmt = s.mgmt := rfl
@[simp] theorem State.editLink_params (s : State) (f : Link → Link) :
    (s.editLink f).params = s.params := rfl
@[simp] theorem State.editLink_seconds (s : State) (f : Link → Link) :
    (s.editLink f).seconds = s.seconds := rfl
@[simp] theorem State.editLink_clock (s : State) (f : Link → Link) :
    (s.editLink f).clock = s.clock := rfl
@[simp] theorem State.editLink_notices (s : State) (f : Link → Link) :
    (s.editLink f).notices = s.notices := rfl
@[simp] theorem State.editLink_capture (s : State) (f : Link → Link) :
    (s.editLink f).capture = s.capture := rfl
@[simp] theorem State.editLink_stationRow (s : State) (f : Link → Link) (n : Nat) :
    (s.editLink f).stationRow n = s.stationRow n := rfl
@[simp] theorem State.editLink_station (s : State) (f : Link → Link) (n : Nat) :
    (s.editLink f).station n = s.station n := rfl
@[simp] theorem State.editLink_containerRow (s : State) (f : Link → Link) (n : Nat) :
    (s.editLink f).containerRow n = s.containerRow n := rfl
@[simp] theorem State.editLink_container (s : State) (f : Link → Link) (n : Nat) :
    (s.editLink f).container n = s.container n := rfl
@[simp] theorem State.editLink_streamRow (s : State) (f : Link → Link) (n : Nat) :
    (s.editLink f).streamRow n = s.streamRow n := rfl
@[simp] theorem State.editLink_seriesRow (s : State) (f : Link → Link) (n : Nat) :
    (s.editLink f).seriesRow n = s.seriesRow n := rfl
@[simp] theorem State.editLink_cardRow (s : State) (f : Link → Link) (n : Nat) :
    (s.editLink f).cardRow n = s.cardRow n := rfl
@[simp] theorem State.editLink_card (s : State) (f : Link → Link) (n : Nat) :
    (s.editLink f).card n = s.card n := rfl
@[simp] theorem State.editLink_kindRow (s : State) (f : Link → Link) (n : Nat) :
    (s.editLink f).kindRow n = s.kindRow n := rfl
@[simp] theorem State.editLink_ticket (s : State) (f : Link → Link) (n : Nat) :
    (s.editLink f).ticket n = s.ticket n := rfl
@[simp] theorem State.editLink_seg (s : State) (f : Link → Link) (h : Seg) :
    (s.editLink f).seg h = s.seg h := by cases h <;> rfl

/-! ### `State.editMgmt` -/

@[simp] theorem State.editMgmt_pending (s : State) (f : Management → Management) :
    (s.editMgmt f).pending = s.pending := rfl
@[simp] theorem State.editMgmt_stations (s : State) (f : Management → Management) :
    (s.editMgmt f).stations = s.stations := rfl
@[simp] theorem State.editMgmt_containers (s : State) (f : Management → Management) :
    (s.editMgmt f).containers = s.containers := rfl
@[simp] theorem State.editMgmt_streams (s : State) (f : Management → Management) :
    (s.editMgmt f).streams = s.streams := rfl
@[simp] theorem State.editMgmt_series (s : State) (f : Management → Management) :
    (s.editMgmt f).series = s.series := rfl
@[simp] theorem State.editMgmt_window (s : State) (f : Management → Management) :
    (s.editMgmt f).window = s.window := rfl
@[simp] theorem State.editMgmt_cards (s : State) (f : Management → Management) :
    (s.editMgmt f).cards = s.cards := rfl
@[simp] theorem State.editMgmt_kinds (s : State) (f : Management → Management) :
    (s.editMgmt f).kinds = s.kinds := rfl
@[simp] theorem State.editMgmt_segA (s : State) (f : Management → Management) :
    (s.editMgmt f).segA = s.segA := rfl
@[simp] theorem State.editMgmt_segB (s : State) (f : Management → Management) :
    (s.editMgmt f).segB = s.segB := rfl
@[simp] theorem State.editMgmt_deposits (s : State) (f : Management → Management) :
    (s.editMgmt f).deposits = s.deposits := rfl
@[simp] theorem State.editMgmt_journal (s : State) (f : Management → Management) :
    (s.editMgmt f).journal = s.journal := rfl
@[simp] theorem State.editMgmt_tickets (s : State) (f : Management → Management) :
    (s.editMgmt f).tickets = s.tickets := rfl
@[simp] theorem State.editMgmt_dispatch (s : State) (f : Management → Management) :
    (s.editMgmt f).dispatch = s.dispatch := rfl
@[simp] theorem State.editMgmt_link (s : State) (f : Management → Management) :
    (s.editMgmt f).link = s.link := rfl
@[simp] theorem State.editMgmt_mgmt (s : State) (f : Management → Management) :
    (s.editMgmt f).mgmt = f s.mgmt := rfl
@[simp] theorem State.editMgmt_params (s : State) (f : Management → Management) :
    (s.editMgmt f).params = s.params := rfl
@[simp] theorem State.editMgmt_seconds (s : State) (f : Management → Management) :
    (s.editMgmt f).seconds = s.seconds := rfl
@[simp] theorem State.editMgmt_clock (s : State) (f : Management → Management) :
    (s.editMgmt f).clock = s.clock := rfl
@[simp] theorem State.editMgmt_notices (s : State) (f : Management → Management) :
    (s.editMgmt f).notices = s.notices := rfl
@[simp] theorem State.editMgmt_capture (s : State) (f : Management → Management) :
    (s.editMgmt f).capture = s.capture := rfl
@[simp] theorem State.editMgmt_stationRow (s : State) (f : Management → Management) (n : Nat) :
    (s.editMgmt f).stationRow n = s.stationRow n := rfl
@[simp] theorem State.editMgmt_station (s : State) (f : Management → Management) (n : Nat) :
    (s.editMgmt f).station n = s.station n := rfl
@[simp] theorem State.editMgmt_containerRow (s : State) (f : Management → Management) (n : Nat) :
    (s.editMgmt f).containerRow n = s.containerRow n := rfl
@[simp] theorem State.editMgmt_container (s : State) (f : Management → Management) (n : Nat) :
    (s.editMgmt f).container n = s.container n := rfl
@[simp] theorem State.editMgmt_streamRow (s : State) (f : Management → Management) (n : Nat) :
    (s.editMgmt f).streamRow n = s.streamRow n := rfl
@[simp] theorem State.editMgmt_seriesRow (s : State) (f : Management → Management) (n : Nat) :
    (s.editMgmt f).seriesRow n = s.seriesRow n := rfl
@[simp] theorem State.editMgmt_cardRow (s : State) (f : Management → Management) (n : Nat) :
    (s.editMgmt f).cardRow n = s.cardRow n := rfl
@[simp] theorem State.editMgmt_card (s : State) (f : Management → Management) (n : Nat) :
    (s.editMgmt f).card n = s.card n := rfl
@[simp] theorem State.editMgmt_kindRow (s : State) (f : Management → Management) (n : Nat) :
    (s.editMgmt f).kindRow n = s.kindRow n := rfl
@[simp] theorem State.editMgmt_ticket (s : State) (f : Management → Management) (n : Nat) :
    (s.editMgmt f).ticket n = s.ticket n := rfl
@[simp] theorem State.editMgmt_seg (s : State) (f : Management → Management) (h : Seg) :
    (s.editMgmt f).seg h = s.seg h := by cases h <;> rfl

/-! ### `State.editJournal` -/

@[simp] theorem State.editJournal_pending (s : State) (f : Journal → Journal) :
    (s.editJournal f).pending = s.pending := rfl
@[simp] theorem State.editJournal_stations (s : State) (f : Journal → Journal) :
    (s.editJournal f).stations = s.stations := rfl
@[simp] theorem State.editJournal_containers (s : State) (f : Journal → Journal) :
    (s.editJournal f).containers = s.containers := rfl
@[simp] theorem State.editJournal_streams (s : State) (f : Journal → Journal) :
    (s.editJournal f).streams = s.streams := rfl
@[simp] theorem State.editJournal_series (s : State) (f : Journal → Journal) :
    (s.editJournal f).series = s.series := rfl
@[simp] theorem State.editJournal_window (s : State) (f : Journal → Journal) :
    (s.editJournal f).window = s.window := rfl
@[simp] theorem State.editJournal_cards (s : State) (f : Journal → Journal) :
    (s.editJournal f).cards = s.cards := rfl
@[simp] theorem State.editJournal_kinds (s : State) (f : Journal → Journal) :
    (s.editJournal f).kinds = s.kinds := rfl
@[simp] theorem State.editJournal_segA (s : State) (f : Journal → Journal) :
    (s.editJournal f).segA = s.segA := rfl
@[simp] theorem State.editJournal_segB (s : State) (f : Journal → Journal) :
    (s.editJournal f).segB = s.segB := rfl
@[simp] theorem State.editJournal_deposits (s : State) (f : Journal → Journal) :
    (s.editJournal f).deposits = s.deposits := rfl
@[simp] theorem State.editJournal_journal (s : State) (f : Journal → Journal) :
    (s.editJournal f).journal = f s.journal := rfl
@[simp] theorem State.editJournal_tickets (s : State) (f : Journal → Journal) :
    (s.editJournal f).tickets = s.tickets := rfl
@[simp] theorem State.editJournal_dispatch (s : State) (f : Journal → Journal) :
    (s.editJournal f).dispatch = s.dispatch := rfl
@[simp] theorem State.editJournal_link (s : State) (f : Journal → Journal) :
    (s.editJournal f).link = s.link := rfl
@[simp] theorem State.editJournal_mgmt (s : State) (f : Journal → Journal) :
    (s.editJournal f).mgmt = s.mgmt := rfl
@[simp] theorem State.editJournal_params (s : State) (f : Journal → Journal) :
    (s.editJournal f).params = s.params := rfl
@[simp] theorem State.editJournal_seconds (s : State) (f : Journal → Journal) :
    (s.editJournal f).seconds = s.seconds := rfl
@[simp] theorem State.editJournal_clock (s : State) (f : Journal → Journal) :
    (s.editJournal f).clock = s.clock := rfl
@[simp] theorem State.editJournal_notices (s : State) (f : Journal → Journal) :
    (s.editJournal f).notices = s.notices := rfl
@[simp] theorem State.editJournal_capture (s : State) (f : Journal → Journal) :
    (s.editJournal f).capture = s.capture := rfl
@[simp] theorem State.editJournal_stationRow (s : State) (f : Journal → Journal) (n : Nat) :
    (s.editJournal f).stationRow n = s.stationRow n := rfl
@[simp] theorem State.editJournal_station (s : State) (f : Journal → Journal) (n : Nat) :
    (s.editJournal f).station n = s.station n := rfl
@[simp] theorem State.editJournal_containerRow (s : State) (f : Journal → Journal) (n : Nat) :
    (s.editJournal f).containerRow n = s.containerRow n := rfl
@[simp] theorem State.editJournal_container (s : State) (f : Journal → Journal) (n : Nat) :
    (s.editJournal f).container n = s.container n := rfl
@[simp] theorem State.editJournal_streamRow (s : State) (f : Journal → Journal) (n : Nat) :
    (s.editJournal f).streamRow n = s.streamRow n := rfl
@[simp] theorem State.editJournal_seriesRow (s : State) (f : Journal → Journal) (n : Nat) :
    (s.editJournal f).seriesRow n = s.seriesRow n := rfl
@[simp] theorem State.editJournal_cardRow (s : State) (f : Journal → Journal) (n : Nat) :
    (s.editJournal f).cardRow n = s.cardRow n := rfl
@[simp] theorem State.editJournal_card (s : State) (f : Journal → Journal) (n : Nat) :
    (s.editJournal f).card n = s.card n := rfl
@[simp] theorem State.editJournal_kindRow (s : State) (f : Journal → Journal) (n : Nat) :
    (s.editJournal f).kindRow n = s.kindRow n := rfl
@[simp] theorem State.editJournal_ticket (s : State) (f : Journal → Journal) (n : Nat) :
    (s.editJournal f).ticket n = s.ticket n := rfl
@[simp] theorem State.editJournal_seg (s : State) (f : Journal → Journal) (h : Seg) :
    (s.editJournal f).seg h = s.seg h := by cases h <;> rfl

/-! ### `State.editNotices` -/

@[simp] theorem State.editNotices_pending (s : State) (f : NoticeUnit → NoticeUnit) :
    (s.editNotices f).pending = s.pending := rfl
@[simp] theorem State.editNotices_stations (s : State) (f : NoticeUnit → NoticeUnit) :
    (s.editNotices f).stations = s.stations := rfl
@[simp] theorem State.editNotices_containers (s : State) (f : NoticeUnit → NoticeUnit) :
    (s.editNotices f).containers = s.containers := rfl
@[simp] theorem State.editNotices_streams (s : State) (f : NoticeUnit → NoticeUnit) :
    (s.editNotices f).streams = s.streams := rfl
@[simp] theorem State.editNotices_series (s : State) (f : NoticeUnit → NoticeUnit) :
    (s.editNotices f).series = s.series := rfl
@[simp] theorem State.editNotices_window (s : State) (f : NoticeUnit → NoticeUnit) :
    (s.editNotices f).window = s.window := rfl
@[simp] theorem State.editNotices_cards (s : State) (f : NoticeUnit → NoticeUnit) :
    (s.editNotices f).cards = s.cards := rfl
@[simp] theorem State.editNotices_kinds (s : State) (f : NoticeUnit → NoticeUnit) :
    (s.editNotices f).kinds = s.kinds := rfl
@[simp] theorem State.editNotices_segA (s : State) (f : NoticeUnit → NoticeUnit) :
    (s.editNotices f).segA = s.segA := rfl
@[simp] theorem State.editNotices_segB (s : State) (f : NoticeUnit → NoticeUnit) :
    (s.editNotices f).segB = s.segB := rfl
@[simp] theorem State.editNotices_deposits (s : State) (f : NoticeUnit → NoticeUnit) :
    (s.editNotices f).deposits = s.deposits := rfl
@[simp] theorem State.editNotices_journal (s : State) (f : NoticeUnit → NoticeUnit) :
    (s.editNotices f).journal = s.journal := rfl
@[simp] theorem State.editNotices_tickets (s : State) (f : NoticeUnit → NoticeUnit) :
    (s.editNotices f).tickets = s.tickets := rfl
@[simp] theorem State.editNotices_dispatch (s : State) (f : NoticeUnit → NoticeUnit) :
    (s.editNotices f).dispatch = s.dispatch := rfl
@[simp] theorem State.editNotices_link (s : State) (f : NoticeUnit → NoticeUnit) :
    (s.editNotices f).link = s.link := rfl
@[simp] theorem State.editNotices_mgmt (s : State) (f : NoticeUnit → NoticeUnit) :
    (s.editNotices f).mgmt = s.mgmt := rfl
@[simp] theorem State.editNotices_params (s : State) (f : NoticeUnit → NoticeUnit) :
    (s.editNotices f).params = s.params := rfl
@[simp] theorem State.editNotices_seconds (s : State) (f : NoticeUnit → NoticeUnit) :
    (s.editNotices f).seconds = s.seconds := rfl
@[simp] theorem State.editNotices_clock (s : State) (f : NoticeUnit → NoticeUnit) :
    (s.editNotices f).clock = s.clock := rfl
@[simp] theorem State.editNotices_notices (s : State) (f : NoticeUnit → NoticeUnit) :
    (s.editNotices f).notices = f s.notices := rfl
@[simp] theorem State.editNotices_capture (s : State) (f : NoticeUnit → NoticeUnit) :
    (s.editNotices f).capture = s.capture := rfl
@[simp] theorem State.editNotices_stationRow (s : State) (f : NoticeUnit → NoticeUnit) (n : Nat) :
    (s.editNotices f).stationRow n = s.stationRow n := rfl
@[simp] theorem State.editNotices_station (s : State) (f : NoticeUnit → NoticeUnit) (n : Nat) :
    (s.editNotices f).station n = s.station n := rfl
@[simp] theorem State.editNotices_containerRow (s : State) (f : NoticeUnit → NoticeUnit) (n : Nat) :
    (s.editNotices f).containerRow n = s.containerRow n := rfl
@[simp] theorem State.editNotices_container (s : State) (f : NoticeUnit → NoticeUnit) (n : Nat) :
    (s.editNotices f).container n = s.container n := rfl
@[simp] theorem State.editNotices_streamRow (s : State) (f : NoticeUnit → NoticeUnit) (n : Nat) :
    (s.editNotices f).streamRow n = s.streamRow n := rfl
@[simp] theorem State.editNotices_seriesRow (s : State) (f : NoticeUnit → NoticeUnit) (n : Nat) :
    (s.editNotices f).seriesRow n = s.seriesRow n := rfl
@[simp] theorem State.editNotices_cardRow (s : State) (f : NoticeUnit → NoticeUnit) (n : Nat) :
    (s.editNotices f).cardRow n = s.cardRow n := rfl
@[simp] theorem State.editNotices_card (s : State) (f : NoticeUnit → NoticeUnit) (n : Nat) :
    (s.editNotices f).card n = s.card n := rfl
@[simp] theorem State.editNotices_kindRow (s : State) (f : NoticeUnit → NoticeUnit) (n : Nat) :
    (s.editNotices f).kindRow n = s.kindRow n := rfl
@[simp] theorem State.editNotices_ticket (s : State) (f : NoticeUnit → NoticeUnit) (n : Nat) :
    (s.editNotices f).ticket n = s.ticket n := rfl
@[simp] theorem State.editNotices_seg (s : State) (f : NoticeUnit → NoticeUnit) (h : Seg) :
    (s.editNotices f).seg h = s.seg h := by cases h <;> rfl

/-! ### `State.editDeposits` -/

@[simp] theorem State.editDeposits_pending (s : State) (f : List Deposit → List Deposit) :
    (s.editDeposits f).pending = s.pending := rfl
@[simp] theorem State.editDeposits_stations (s : State) (f : List Deposit → List Deposit) :
    (s.editDeposits f).stations = s.stations := rfl
@[simp] theorem State.editDeposits_containers (s : State) (f : List Deposit → List Deposit) :
    (s.editDeposits f).containers = s.containers := rfl
@[simp] theorem State.editDeposits_streams (s : State) (f : List Deposit → List Deposit) :
    (s.editDeposits f).streams = s.streams := rfl
@[simp] theorem State.editDeposits_series (s : State) (f : List Deposit → List Deposit) :
    (s.editDeposits f).series = s.series := rfl
@[simp] theorem State.editDeposits_window (s : State) (f : List Deposit → List Deposit) :
    (s.editDeposits f).window = s.window := rfl
@[simp] theorem State.editDeposits_cards (s : State) (f : List Deposit → List Deposit) :
    (s.editDeposits f).cards = s.cards := rfl
@[simp] theorem State.editDeposits_kinds (s : State) (f : List Deposit → List Deposit) :
    (s.editDeposits f).kinds = s.kinds := rfl
@[simp] theorem State.editDeposits_segA (s : State) (f : List Deposit → List Deposit) :
    (s.editDeposits f).segA = s.segA := rfl
@[simp] theorem State.editDeposits_segB (s : State) (f : List Deposit → List Deposit) :
    (s.editDeposits f).segB = s.segB := rfl
@[simp] theorem State.editDeposits_deposits (s : State) (f : List Deposit → List Deposit) :
    (s.editDeposits f).deposits = f s.deposits := rfl
@[simp] theorem State.editDeposits_journal (s : State) (f : List Deposit → List Deposit) :
    (s.editDeposits f).journal = s.journal := rfl
@[simp] theorem State.editDeposits_tickets (s : State) (f : List Deposit → List Deposit) :
    (s.editDeposits f).tickets = s.tickets := rfl
@[simp] theorem State.editDeposits_dispatch (s : State) (f : List Deposit → List Deposit) :
    (s.editDeposits f).dispatch = s.dispatch := rfl
@[simp] theorem State.editDeposits_link (s : State) (f : List Deposit → List Deposit) :
    (s.editDeposits f).link = s.link := rfl
@[simp] theorem State.editDeposits_mgmt (s : State) (f : List Deposit → List Deposit) :
    (s.editDeposits f).mgmt = s.mgmt := rfl
@[simp] theorem State.editDeposits_params (s : State) (f : List Deposit → List Deposit) :
    (s.editDeposits f).params = s.params := rfl
@[simp] theorem State.editDeposits_seconds (s : State) (f : List Deposit → List Deposit) :
    (s.editDeposits f).seconds = s.seconds := rfl
@[simp] theorem State.editDeposits_clock (s : State) (f : List Deposit → List Deposit) :
    (s.editDeposits f).clock = s.clock := rfl
@[simp] theorem State.editDeposits_notices (s : State) (f : List Deposit → List Deposit) :
    (s.editDeposits f).notices = s.notices := rfl
@[simp] theorem State.editDeposits_capture (s : State) (f : List Deposit → List Deposit) :
    (s.editDeposits f).capture = s.capture := rfl
@[simp] theorem State.editDeposits_stationRow (s : State) (f : List Deposit → List Deposit) (n : Nat) :
    (s.editDeposits f).stationRow n = s.stationRow n := rfl
@[simp] theorem State.editDeposits_station (s : State) (f : List Deposit → List Deposit) (n : Nat) :
    (s.editDeposits f).station n = s.station n := rfl
@[simp] theorem State.editDeposits_containerRow (s : State) (f : List Deposit → List Deposit) (n : Nat) :
    (s.editDeposits f).containerRow n = s.containerRow n := rfl
@[simp] theorem State.editDeposits_container (s : State) (f : List Deposit → List Deposit) (n : Nat) :
    (s.editDeposits f).container n = s.container n := rfl
@[simp] theorem State.editDeposits_streamRow (s : State) (f : List Deposit → List Deposit) (n : Nat) :
    (s.editDeposits f).streamRow n = s.streamRow n := rfl
@[simp] theorem State.editDeposits_seriesRow (s : State) (f : List Deposit → List Deposit) (n : Nat) :
    (s.editDeposits f).seriesRow n = s.seriesRow n := rfl
@[simp] theorem State.editDeposits_cardRow (s : State) (f : List Deposit → List Deposit) (n : Nat) :
    (s.editDeposits f).cardRow n = s.cardRow n := rfl
@[simp] theorem State.editDeposits_card (s : State) (f : List Deposit → List Deposit) (n : Nat) :
    (s.editDeposits f).card n = s.card n := rfl
@[simp] theorem State.editDeposits_kindRow (s : State) (f : List Deposit → List Deposit) (n : Nat) :
    (s.editDeposits f).kindRow n = s.kindRow n := rfl
@[simp] theorem State.editDeposits_ticket (s : State) (f : List Deposit → List Deposit) (n : Nat) :
    (s.editDeposits f).ticket n = s.ticket n := rfl
@[simp] theorem State.editDeposits_seg (s : State) (f : List Deposit → List Deposit) (h : Seg) :
    (s.editDeposits f).seg h = s.seg h := by cases h <;> rfl

/-! ### `State.captureFault` -/

@[simp] theorem State.captureFault_pending (s : State) (t : FaultTable) (a : Nat) :
    (s.captureFault t a).pending = s.pending := rfl
@[simp] theorem State.captureFault_stations (s : State) (t : FaultTable) (a : Nat) :
    (s.captureFault t a).stations = s.stations := rfl
@[simp] theorem State.captureFault_containers (s : State) (t : FaultTable) (a : Nat) :
    (s.captureFault t a).containers = s.containers := rfl
@[simp] theorem State.captureFault_streams (s : State) (t : FaultTable) (a : Nat) :
    (s.captureFault t a).streams = s.streams := rfl
@[simp] theorem State.captureFault_series (s : State) (t : FaultTable) (a : Nat) :
    (s.captureFault t a).series = s.series := rfl
@[simp] theorem State.captureFault_window (s : State) (t : FaultTable) (a : Nat) :
    (s.captureFault t a).window = s.window := rfl
@[simp] theorem State.captureFault_cards (s : State) (t : FaultTable) (a : Nat) :
    (s.captureFault t a).cards = s.cards := rfl
@[simp] theorem State.captureFault_kinds (s : State) (t : FaultTable) (a : Nat) :
    (s.captureFault t a).kinds = s.kinds := rfl
@[simp] theorem State.captureFault_segA (s : State) (t : FaultTable) (a : Nat) :
    (s.captureFault t a).segA = s.segA := rfl
@[simp] theorem State.captureFault_segB (s : State) (t : FaultTable) (a : Nat) :
    (s.captureFault t a).segB = s.segB := rfl
@[simp] theorem State.captureFault_deposits (s : State) (t : FaultTable) (a : Nat) :
    (s.captureFault t a).deposits = s.deposits := rfl
@[simp] theorem State.captureFault_journal (s : State) (t : FaultTable) (a : Nat) :
    (s.captureFault t a).journal = s.journal := rfl
@[simp] theorem State.captureFault_tickets (s : State) (t : FaultTable) (a : Nat) :
    (s.captureFault t a).tickets = s.tickets := rfl
@[simp] theorem State.captureFault_dispatch (s : State) (t : FaultTable) (a : Nat) :
    (s.captureFault t a).dispatch = s.dispatch := rfl
@[simp] theorem State.captureFault_link (s : State) (t : FaultTable) (a : Nat) :
    (s.captureFault t a).link = s.link := rfl
@[simp] theorem State.captureFault_mgmt (s : State) (t : FaultTable) (a : Nat) :
    (s.captureFault t a).mgmt = s.mgmt := rfl
@[simp] theorem State.captureFault_params (s : State) (t : FaultTable) (a : Nat) :
    (s.captureFault t a).params = s.params := rfl
@[simp] theorem State.captureFault_seconds (s : State) (t : FaultTable) (a : Nat) :
    (s.captureFault t a).seconds = s.seconds := rfl
@[simp] theorem State.captureFault_clock (s : State) (t : FaultTable) (a : Nat) :
    (s.captureFault t a).clock = s.clock := rfl
@[simp] theorem State.captureFault_notices (s : State) (t : FaultTable) (a : Nat) :
    (s.captureFault t a).notices = s.notices := rfl
@[simp] theorem State.captureFault_stationRow (s : State) (t : FaultTable) (a : Nat) (n : Nat) :
    (s.captureFault t a).stationRow n = s.stationRow n := rfl
@[simp] theorem State.captureFault_station (s : State) (t : FaultTable) (a : Nat) (n : Nat) :
    (s.captureFault t a).station n = s.station n := rfl
@[simp] theorem State.captureFault_containerRow (s : State) (t : FaultTable) (a : Nat) (n : Nat) :
    (s.captureFault t a).containerRow n = s.containerRow n := rfl
@[simp] theorem State.captureFault_container (s : State) (t : FaultTable) (a : Nat) (n : Nat) :
    (s.captureFault t a).container n = s.container n := rfl
@[simp] theorem State.captureFault_streamRow (s : State) (t : FaultTable) (a : Nat) (n : Nat) :
    (s.captureFault t a).streamRow n = s.streamRow n := rfl
@[simp] theorem State.captureFault_seriesRow (s : State) (t : FaultTable) (a : Nat) (n : Nat) :
    (s.captureFault t a).seriesRow n = s.seriesRow n := rfl
@[simp] theorem State.captureFault_cardRow (s : State) (t : FaultTable) (a : Nat) (n : Nat) :
    (s.captureFault t a).cardRow n = s.cardRow n := rfl
@[simp] theorem State.captureFault_card (s : State) (t : FaultTable) (a : Nat) (n : Nat) :
    (s.captureFault t a).card n = s.card n := rfl
@[simp] theorem State.captureFault_kindRow (s : State) (t : FaultTable) (a : Nat) (n : Nat) :
    (s.captureFault t a).kindRow n = s.kindRow n := rfl
@[simp] theorem State.captureFault_ticket (s : State) (t : FaultTable) (a : Nat) (n : Nat) :
    (s.captureFault t a).ticket n = s.ticket n := rfl
@[simp] theorem State.captureFault_seg (s : State) (t : FaultTable) (a : Nat) (h : Seg) :
    (s.captureFault t a).seg h = s.seg h := by cases h <;> rfl

/-! ### `State.raise` -/

@[simp] theorem State.raise_pending (s : State) (k : NoticeKind) (a : Nat) (p : List Octet) :
    (s.raise k a p).pending = s.pending := rfl
@[simp] theorem State.raise_stations (s : State) (k : NoticeKind) (a : Nat) (p : List Octet) :
    (s.raise k a p).stations = s.stations := rfl
@[simp] theorem State.raise_containers (s : State) (k : NoticeKind) (a : Nat) (p : List Octet) :
    (s.raise k a p).containers = s.containers := rfl
@[simp] theorem State.raise_streams (s : State) (k : NoticeKind) (a : Nat) (p : List Octet) :
    (s.raise k a p).streams = s.streams := rfl
@[simp] theorem State.raise_series (s : State) (k : NoticeKind) (a : Nat) (p : List Octet) :
    (s.raise k a p).series = s.series := rfl
@[simp] theorem State.raise_window (s : State) (k : NoticeKind) (a : Nat) (p : List Octet) :
    (s.raise k a p).window = s.window := rfl
@[simp] theorem State.raise_cards (s : State) (k : NoticeKind) (a : Nat) (p : List Octet) :
    (s.raise k a p).cards = s.cards := rfl
@[simp] theorem State.raise_kinds (s : State) (k : NoticeKind) (a : Nat) (p : List Octet) :
    (s.raise k a p).kinds = s.kinds := rfl
@[simp] theorem State.raise_segA (s : State) (k : NoticeKind) (a : Nat) (p : List Octet) :
    (s.raise k a p).segA = s.segA := rfl
@[simp] theorem State.raise_segB (s : State) (k : NoticeKind) (a : Nat) (p : List Octet) :
    (s.raise k a p).segB = s.segB := rfl
@[simp] theorem State.raise_deposits (s : State) (k : NoticeKind) (a : Nat) (p : List Octet) :
    (s.raise k a p).deposits = s.deposits := rfl
@[simp] theorem State.raise_journal (s : State) (k : NoticeKind) (a : Nat) (p : List Octet) :
    (s.raise k a p).journal = s.journal := rfl
@[simp] theorem State.raise_tickets (s : State) (k : NoticeKind) (a : Nat) (p : List Octet) :
    (s.raise k a p).tickets = s.tickets := rfl
@[simp] theorem State.raise_dispatch (s : State) (k : NoticeKind) (a : Nat) (p : List Octet) :
    (s.raise k a p).dispatch = s.dispatch := rfl
@[simp] theorem State.raise_link (s : State) (k : NoticeKind) (a : Nat) (p : List Octet) :
    (s.raise k a p).link = s.link := rfl
@[simp] theorem State.raise_mgmt (s : State) (k : NoticeKind) (a : Nat) (p : List Octet) :
    (s.raise k a p).mgmt = s.mgmt := rfl
@[simp] theorem State.raise_params (s : State) (k : NoticeKind) (a : Nat) (p : List Octet) :
    (s.raise k a p).params = s.params := rfl
@[simp] theorem State.raise_seconds (s : State) (k : NoticeKind) (a : Nat) (p : List Octet) :
    (s.raise k a p).seconds = s.seconds := rfl
@[simp] theorem State.raise_clock (s : State) (k : NoticeKind) (a : Nat) (p : List Octet) :
    (s.raise k a p).clock = s.clock := rfl
@[simp] theorem State.raise_capture (s : State) (k : NoticeKind) (a : Nat) (p : List Octet) :
    (s.raise k a p).capture = s.capture := rfl
@[simp] theorem State.raise_stationRow (s : State) (k : NoticeKind) (a : Nat) (p : List Octet) (n : Nat) :
    (s.raise k a p).stationRow n = s.stationRow n := rfl
@[simp] theorem State.raise_station (s : State) (k : NoticeKind) (a : Nat) (p : List Octet) (n : Nat) :
    (s.raise k a p).station n = s.station n := rfl
@[simp] theorem State.raise_containerRow (s : State) (k : NoticeKind) (a : Nat) (p : List Octet) (n : Nat) :
    (s.raise k a p).containerRow n = s.containerRow n := rfl
@[simp] theorem State.raise_container (s : State) (k : NoticeKind) (a : Nat) (p : List Octet) (n : Nat) :
    (s.raise k a p).container n = s.container n := rfl
@[simp] theorem State.raise_streamRow (s : State) (k : NoticeKind) (a : Nat) (p : List Octet) (n : Nat) :
    (s.raise k a p).streamRow n = s.streamRow n := rfl
@[simp] theorem State.raise_seriesRow (s : State) (k : NoticeKind) (a : Nat) (p : List Octet) (n : Nat) :
    (s.raise k a p).seriesRow n = s.seriesRow n := rfl
@[simp] theorem State.raise_cardRow (s : State) (k : NoticeKind) (a : Nat) (p : List Octet) (n : Nat) :
    (s.raise k a p).cardRow n = s.cardRow n := rfl
@[simp] theorem State.raise_card (s : State) (k : NoticeKind) (a : Nat) (p : List Octet) (n : Nat) :
    (s.raise k a p).card n = s.card n := rfl
@[simp] theorem State.raise_kindRow (s : State) (k : NoticeKind) (a : Nat) (p : List Octet) (n : Nat) :
    (s.raise k a p).kindRow n = s.kindRow n := rfl
@[simp] theorem State.raise_ticket (s : State) (k : NoticeKind) (a : Nat) (p : List Octet) (n : Nat) :
    (s.raise k a p).ticket n = s.ticket n := rfl
@[simp] theorem State.raise_seg (s : State) (k : NoticeKind) (a : Nat) (p : List Octet) (h : Seg) :
    (s.raise k a p).seg h = s.seg h := by cases h <;> rfl

end Sys2Proof.Machine
end

