-- ==== Sys2Proof/Laws/Tables.lean ====
section
/-! SUPPORT. Reading a table after a write, and the canonical form: every table operation keeps it. -/

namespace Sys2Proof.Machine

variable {α : Type}

/-! ### Reading after a write -/

theorem Table.get_erase (d : α) (t : Table α) (k k' : Nat) :
    Table.get d (Table.erase t k) k' = if k' = k then d else Table.get d t k' := by
  induction t with
  | nil => simp [Table.erase, Table.get]
  | cons p t ih =>
    obtain ⟨a, v⟩ := p
    by_cases h : k = a
    · subst h; by_cases h' : k' = k <;> simp_all [Table.erase, Table.get]
    · by_cases h' : k' = a
      · subst h'; simp [Table.erase, Table.get, h, Ne.symm h]
      · simp_all [Table.erase, Table.get]

theorem Table.get_insert (d : α) (t : Table α) (k k' : Nat) (v : α) :
    Table.get d (Table.insert t k v) k' = if k' = k then v else Table.get d t k' := by
  induction t with
  | nil => simp [Table.insert, Table.get]
  | cons p t ih =>
    obtain ⟨a, w⟩ := p
    by_cases h₁ : k < a
    · by_cases h : k' = k <;> simp [Table.insert, Table.get, h₁, h]
    · by_cases h₂ : k = a
      · subst h₂; by_cases h : k' = k <;> simp [Table.insert, Table.get, h]
      · simp only [Table.insert, if_neg h₁, if_neg h₂, Table.get, ih]
        by_cases h : k' = a
        · rw [if_pos h, if_pos h, if_neg fun h' => h₂ (h'.symm.trans h)]
        · rw [if_neg h, if_neg h]

/-- Reading a table after a write. -/
theorem Table.get_set [DecidableEq α] (d : α) (t : Table α) (k k' : Nat) (v : α) :
    Table.get d (Table.set d t k v) k' = if k' = k then v else Table.get d t k' := by
  unfold Table.set
  split_ifs with h₁ h₂ h₂
  · simp [Table.get_erase, h₁, h₂]
  · simp [Table.get_erase, h₂]
  · simp [Table.get_insert, h₂]
  · simp [Table.get_insert, h₂]

@[simp] theorem Table.get_set_same [DecidableEq α] (d : α) (t : Table α) (k : Nat) (v : α) :
    Table.get d (Table.set d t k v) k = v := by simp [Table.get_set]

theorem Table.get_set_other [DecidableEq α] (d : α) (t : Table α) {k k' : Nat} (v : α)
    (h : k' ≠ k) : Table.get d (Table.set d t k v) k' = Table.get d t k' := by
  simp [Table.get_set, h]

/-! ### The canonical form -/

theorem Table.mem_erase {t : Table α} {k : Nat} {p : Nat × α} (h : p ∈ Table.erase t k) : p ∈ t := by
  induction t with
  | nil => simp [Table.erase] at h
  | cons q t ih =>
    obtain ⟨a, w⟩ := q
    unfold Table.erase at h
    split_ifs at h
    · exact List.mem_cons_of_mem _ (ih h)
    · rcases List.mem_cons.mp h with h | h
      · exact h ▸ List.mem_cons_self
      · exact List.mem_cons_of_mem _ (ih h)

theorem Table.wf_erase [DecidableEq α] (d : α) {t : Table α} (k : Nat) (h : Table.wf d t = true) :
    Table.wf d (Table.erase t k) = true := by
  induction t with
  | nil => rfl
  | cons p t ih =>
    obtain ⟨a, w⟩ := p
    simp only [Table.wf, Bool.and_eq_true] at h
    unfold Table.erase
    split_ifs
    · exact ih h.2
    · simp only [Table.wf, Bool.and_eq_true]
      refine ⟨⟨?_, h.1.2⟩, ih h.2⟩
      rw [List.all_eq_true] at h ⊢
      exact fun q hq => h.1.1 q (Table.mem_erase hq)

theorem Table.mem_insert {t : Table α} {k : Nat} {v : α} {p : Nat × α}
    (h : p ∈ Table.insert t k v) : p = (k, v) ∨ p ∈ t := by
  induction t with
  | nil => simpa [Table.insert] using h
  | cons q t ih =>
    obtain ⟨a, w⟩ := q
    unfold Table.insert at h
    split_ifs at h
    · exact List.mem_cons.mp h
    · rcases List.mem_cons.mp h with h | h
      · exact Or.inl h
      · exact Or.inr (List.mem_cons_of_mem _ h)
    · rcases List.mem_cons.mp h with h | h
      · exact Or.inr (h ▸ List.mem_cons_self)
      · exact (ih h).imp id (List.mem_cons_of_mem _)

theorem Table.wf_insert [DecidableEq α] (d : α) {t : Table α} (k : Nat) {v : α} (hv : v ≠ d)
    (h : Table.wf d t = true) : Table.wf d (Table.insert t k v) = true := by
  induction t with
  | nil => simp [Table.insert, Table.wf, hv]
  | cons p t ih =>
    obtain ⟨a, w⟩ := p
    have h0 := h
    simp only [Table.wf, Bool.and_eq_true, List.all_eq_true, decide_eq_true_eq] at h
    obtain ⟨⟨ha, hw⟩, ht⟩ := h
    unfold Table.insert
    split_ifs with h₁ h₂
    · rw [Table.wf, h0]
      simp only [Bool.and_eq_true, List.all_cons, decide_eq_true_eq, List.all_eq_true, Bool.and_true,
        bne_iff_ne, ne_eq, hv, not_false_eq_true, and_true]
      exact ⟨h₁, fun q hq => lt_trans h₁ (ha q hq)⟩
    · subst h₂
      simp only [Table.wf, Bool.and_eq_true, List.all_eq_true, decide_eq_true_eq, bne_iff_ne]
      exact ⟨⟨ha, hv⟩, ht⟩
    · simp only [Table.wf, Bool.and_eq_true, List.all_eq_true, decide_eq_true_eq]
      refine ⟨⟨fun q hq => ?_, hw⟩, ih ht⟩
      rcases Table.mem_insert hq with hq | hq
      · subst hq; simp only []; omega
      · exact ha q hq

/-- A write keeps the canonical form. -/
theorem Table.wf_set [DecidableEq α] (d : α) {t : Table α} (k : Nat) (v : α)
    (h : Table.wf d t = true) : Table.wf d (Table.set d t k v) = true := by
  unfold Table.set
  split_ifs with hv
  · exact Table.wf_erase d k h
  · exact Table.wf_insert d k hv h

/-- A change of every row keeps the canonical form. -/
theorem Table.wf_mapRows [DecidableEq α] (d : Row α) (f : α → α) {t : Table (Row α)}
    (h : Table.wf d t = true) : Table.wf d (Table.mapRows d f t) = true := by
  unfold Table.mapRows
  induction t with
  | nil => rfl
  | cons p t ih =>
    obtain ⟨a, w⟩ := p
    simp only [Table.wf, Bool.and_eq_true, List.all_eq_true, decide_eq_true_eq] at h
    obtain ⟨⟨ha, -⟩, ht⟩ := h
    rw [List.map_cons, List.filter_cons]
    split_ifs with hw
    · simp only [Table.wf, Bool.and_eq_true, List.all_eq_true, decide_eq_true_eq]
      refine ⟨⟨fun q hq => ?_, hw⟩, ih ht⟩
      obtain ⟨r, hr, rfl⟩ := List.mem_map.mp (List.mem_filter.mp hq).1
      exact ha r hr
    · exact ih ht

/-- A key above every listed one is not listed. -/
theorem Table.get_of_lt (d : α) {t : Table α} {k : Nat} (h : ∀ p ∈ t, k < p.1) :
    Table.get d t k = d := by
  induction t with
  | nil => rfl
  | cons p t ih =>
    obtain ⟨a, w⟩ := p
    have ha := h (a, w) List.mem_cons_self
    rw [Table.get, if_neg (by simp only at ha; omega)]
    exact ih fun q hq => h q (List.mem_cons_of_mem _ hq)

/-- A change of every row that leaves the default as it is, read at a row. -/
theorem Table.get_mapRows [DecidableEq α] (x : α) (f : α → α) (hf : f x = x)
    {t : Table (Row α)} (h : Table.wf (Row.good x) t = true) (k : Nat) :
    Table.get (Row.good x) (Table.mapRows (Row.good x) f t) k =
      { data := f (Table.get (Row.good x) t k).data, bad := (Table.get (Row.good x) t k).bad } := by
  induction t with
  | nil => simp [Table.mapRows, Table.get, Row.good, hf]
  | cons p t ih =>
    obtain ⟨a, w⟩ := p
    simp only [Table.wf, Bool.and_eq_true, List.all_eq_true, decide_eq_true_eq] at h
    obtain ⟨⟨ha, -⟩, ht⟩ := h
    have ih := ih ht
    unfold Table.mapRows at ih ⊢
    rw [List.map_cons, List.filter_cons]
    by_cases hk : k = a
    · subst hk
      split_ifs with hw
      · simp [Table.get]
      · simp only [bne_iff_ne, ne_eq, not_not] at hw
        rw [ih, Table.get_of_lt _ ha]
        simp [Table.get, Row.good, hf, hw]
    · have hg : Table.get (Row.good x) ((a, w) :: t) k = Table.get (Row.good x) t k := by
        simp [Table.get, hk]
      rw [hg, ← ih]
      split_ifs
      · simp [Table.get, hk]
      · rfl

/-! ### Rows of the state -/

@[simp] theorem State.stationRow_putStation (s : State) (a b : Nat) (r : Row Station) :
    (s.putStation a r).stationRow b = if b = a then r else s.stationRow b := Table.get_set ..

@[simp] theorem State.containerRow_putContainer (s : State) (a b : Nat) (r : Row Container) :
    (s.putContainer a r).containerRow b = if b = a then r else s.containerRow b := Table.get_set ..

@[simp] theorem State.streamRow_putStream (s : State) (a b : Nat) (r : Row StreamEntry) :
    (s.putStream a r).streamRow b = if b = a then r else s.streamRow b := Table.get_set ..

@[simp] theorem State.seriesRow_putSeries (s : State) (a b : Nat) (r : Row SeriesEntry) :
    (s.putSeries a r).seriesRow b = if b = a then r else s.seriesRow b := Table.get_set ..

@[simp] theorem State.cardRow_putCard (s : State) (a b : Nat) (r : Row CardRow) :
    (s.putCard a r).cardRow b = if b = a then r else s.cardRow b := Table.get_set ..

@[simp] theorem State.kindRow_putKind (s : State) (a b : Nat) (r : Row Nat) :
    (s.putKind a r).kindRow b = if b = a then r else s.kindRow b := Table.get_set ..

@[simp] theorem State.ticket_putTicket (s : State) (a b : Nat) (t : Ticket) :
    (s.putTicket a t).ticket b = if b = a then t else s.ticket b := Table.get_set ..

@[simp] theorem State.stationRow_editStation (s : State) (a b : Nat) (f : Station → Station) :
    (s.editStation a f).stationRow b =
      if b = a then { data := f (s.station a), bad := (s.stationRow a).bad }
      else s.stationRow b := Table.get_set ..

@[simp] theorem State.containerRow_editContainer (s : State) (a b : Nat)
    (f : Container → Container) :
    (s.editContainer a f).containerRow b =
      if b = a then { data := f (s.container a), bad := (s.containerRow a).bad }
      else s.containerRow b := Table.get_set ..

@[simp] theorem State.containerRow_writeContainer (s : State) (a b : Nat) (c : Container) :
    (s.writeContainer a c).containerRow b = if b = a then Row.good c else s.containerRow b :=
  Table.get_set ..

@[simp] theorem State.cardRow_writeCard (s : State) (a b : Nat) (c : CardRow) :
    (s.writeCard a c).cardRow b = if b = a then Row.good c else s.cardRow b := Table.get_set ..

@[simp] theorem State.seg_editSeg (s : State) (g h : Seg) (f : Segment → Segment) :
    (s.editSeg g f).seg h = if h = g then f (s.seg h) else s.seg h := by cases g <;> cases h <;> rfl

end Sys2Proof.Machine
end

