-- ==== Sys2Proof/Laws/Dispatch.lean ====
section
/-! SUPPORT. The end of an event, the advance of the dispatch index, and what a telling of the Dispatch Unit
can touch (R93 to R99). -/

namespace Sys2Proof.Machine

/-! ### The end of an event -/

/-- A pass made due while SUSPENDED is not kept (R99). -/
theorem State.endEvent_of_suspended {s : State} (h : s.running = false) :
    s.endEvent = s.editDispatch fun x => { x with passDue := false } := by
  unfold State.endEvent State.runPasses
  by_cases hd : s.dispatch.passDue = true
  · have h' : ¬ (s.editDispatch fun x => { x with passDue := false }).running = true := by
      rw [show (s.editDispatch fun x => { x with passDue := false }).running = s.running from rfl, h]
      simp
    rw [if_pos hd, if_neg h']
  · rw [if_neg hd]
    simp only [Bool.not_eq_true] at hd
    simp only [State.editDispatch, ← hd]

/-- A pass made due while RUNNING is run, and the passes that it makes due after it (R99). -/
theorem State.endEvent_of_running {s : State} (h : s.running = true) (hd : s.dispatch.passDue = true) :
    s.endEvent = State.runPasses 16 (s.editDispatch fun x => { x with passDue := false }).pass := by
  have h' : (s.editDispatch fun x => { x with passDue := false }).running = true := h
  unfold State.endEvent
  rw [State.runPasses, if_pos hd, if_pos h']

/-! ### The advance -/

/-- With no OPEN ticket the advance comes to rest at the fill index (R97). -/
theorem State.advance_rests (fuel : Nat) (s : State) (h : ∀ m, (s.ticket m).state ≠ .opened)
    (hd : s.dispatch.dispatchIndex < 16) (hf : s.dispatch.fillIndex < 16)
    (hk : (s.dispatch.fillIndex + 15 - s.dispatch.dispatchIndex) % 16 < fuel) :
    State.advance fuel s = s.editDispatch fun x => { x with dispatchIndex := x.fillIndex } := by
  induction fuel generalizing s with
  | zero => omega
  | succ fuel ih =>
    refine (if_neg (h _)).trans ?_
    by_cases he : (s.dispatch.dispatchIndex + 1) % 16 = s.dispatch.fillIndex
    · refine (if_pos he).trans ?_
      rw [he]
      rfl
    · refine (if_neg he).trans ?_
      rw [ih]
      · rfl
      · exact h
      · simp
        omega
      · exact hf
      · simp at he ⊢
        omega

/-! ### The telling -/

/-- A container whose fill state has not become FULL is not counted (R95). -/
theorem State.countMissedFull_of_kept {s : State} {row : Nat} {was : Container}
    (h : (s.container row).fill = .full → was.fill = .full) : s.countMissedFull row was = s := by
  unfold State.countMissedFull
  rw [if_neg]
  by_cases hf : (s.container row).fill = .full
  · simp [hf, h hf]
  · simp [hf]

/-- The missed-full count alone changes (R95). -/
theorem State.countMissedFull_eq (s : State) (row : Nat) (was : Container) :
    ∃ n, s.countMissedFull row was = s.editDispatch fun x => { x with missedFull := n } := by
  unfold State.countMissedFull
  split_ifs
  · exact ⟨_, rfl⟩
  · exact ⟨s.dispatch.missedFull, rfl⟩

/-- Of the Dispatch Unit the list, the join counter and a pass due change, and of the containers the
join sequence of the row (R93, R94). -/
theorem State.relist_eq (s : State) (row : Nat) (was : Container) :
    ∃ l j p q, s.relist row was =
        (s.editDispatch fun x => { x with list := l, joinCounter := j, passDue := p }).editContainer row
          (fun c => { c with joinSeq := q }) ∨
      s.relist row was = s.editDispatch fun x => { x with list := l, joinCounter := j, passDue := p } := by
  unfold State.relist
  simp only
  split_ifs
  · exact ⟨s.dispatch.list, s.dispatch.joinCounter, s.dispatch.passDue, 0, Or.inr rfl⟩
  · exact ⟨_, s.dispatch.joinCounter, true, 0, Or.inr rfl⟩
  · exact ⟨_, s.dispatch.joinCounter, s.dispatch.passDue, 0, Or.inr rfl⟩
  · exact ⟨_, _, true, _, Or.inl rfl⟩
  · exact ⟨s.dispatch.list, s.dispatch.joinCounter, s.dispatch.passDue, 0, Or.inr rfl⟩

/-- What a telling can touch: the list, the join counter, the missed-full count and a pass due; of the
containers, the join sequence of the row alone (R94, R95). -/
theorem State.tell_eq (s : State) (row : Nat) (was : Container) :
    ∃ l j n p q, s.tell row was =
        (s.editDispatch fun x =>
          { x with list := l, joinCounter := j, missedFull := n, passDue := p }).editContainer row
          (fun c => { c with joinSeq := q }) ∨
      s.tell row was = s.editDispatch fun x =>
        { x with list := l, joinCounter := j, missedFull := n, passDue := p } := by
  obtain ⟨n, hn⟩ := s.countMissedFull_eq row was
  obtain ⟨l, j, p, q, h⟩ := (s.countMissedFull row was).relist_eq row was
  refine ⟨l, j, n, p, q, ?_⟩
  unfold State.tell
  rw [hn] at h ⊢
  exact h

/-- A container that is not eligible leaves the list, if it is in it (R94). -/
theorem State.relist_of_ineligible {s : State} {row : Nat} {was : Container}
    (he : (s.container row).eligible = false) : s.relist row was = s.leaveList row := by
  unfold State.relist
  by_cases hm : row ∈ s.dispatch.list
  · rw [if_pos hm, if_neg (by simp [he])]
  · rw [if_neg hm, if_neg (by simp [he])]
    have : s.dispatch.list.filter (· ≠ row) = s.dispatch.list := by
      rw [List.filter_eq_self]
      intro a ha
      have : a ≠ row := fun e => hm (e ▸ ha)
      simpa using this
    unfold State.leaveList State.editDispatch
    simp only [this]

/-- A container that is not eligible, its fill state not become FULL, leaves the list (R94). -/
theorem State.tell_of_ineligible {s : State} {row : Nat} {was : Container}
    (hf : (s.container row).fill = .full → was.fill = .full)
    (he : (s.container row).eligible = false) : s.tell row was = s.leaveList row := by
  unfold State.tell
  rw [State.countMissedFull_of_kept hf, State.relist_of_ineligible he]

/-- A row that is not in the list leaves it without effect. -/
theorem State.leaveList_of_notMem {s : State} {row : Nat} (hm : row ∉ s.dispatch.list) :
    s.leaveList row = s := by
  have : s.dispatch.list.filter (· ≠ row) = s.dispatch.list := by
    rw [List.filter_eq_self]
    intro a ha
    have : a ≠ row := fun e => hm (e ▸ ha)
    simpa using this
  unfold State.leaveList State.editDispatch
  simp only [this]

/-! ### Recall -/

/-- The rows whose assignment is cleared (R106). -/
theorem State.unassign_rows (rows : List Nat) (s : State) :
    (∃ cs, rows.foldl State.unassign s = { s with containers := cs }) ∧
    ∀ r, (rows.foldl State.unassign s).containerRow r =
      if r ∈ rows then
        { data := { s.container r with assignment := none }, bad := (s.containerRow r).bad }
      else s.containerRow r := by
  induction rows generalizing s with
  | nil => exact ⟨⟨_, rfl⟩, fun r => by simp⟩
  | cons a rows ih =>
    obtain ⟨⟨cs, h1⟩, h2⟩ := ih (s.unassign a)
    refine ⟨⟨cs, by rw [List.foldl_cons, h1]; rfl⟩, fun r => ?_⟩
    have key : ∀ r, (s.unassign a).containerRow r =
        if r = a then
          { data := { s.container a with assignment := none }, bad := (s.containerRow a).bad }
        else s.containerRow r := fun r => State.containerRow_editContainer ..
    rw [List.foldl_cons, h2 r]
    unfold State.container
    rw [key r]
    by_cases h : r = a
    · subst h
      by_cases h' : r ∈ rows <;> simp [h', State.container]
    · by_cases h' : r ∈ rows <;> simp [h, h']

/-- What the telling of rows whose assignment alone has changed can touch (R94, R106). -/
theorem State.tellSame_rows (rows : List Nat) (s : State) :
    (∃ l j p cs, rows.foldl State.tellSame s =
      { s with containers := cs
               dispatch := { s.dispatch with list := l, joinCounter := j, passDue := p } }) ∧
    (∀ r, r ∉ rows → (rows.foldl State.tellSame s).containerRow r = s.containerRow r) ∧
    ∀ r, ((rows.foldl State.tellSame s).container r).assignment = (s.container r).assignment := by
  induction rows generalizing s with
  | nil => exact ⟨⟨_, _, _, _, rfl⟩, fun _ _ => rfl, fun _ => rfl⟩
  | cons a rows ih =>
    have h1 : s.tellSame a = s.relist a (s.container a) := by
      unfold State.tellSame State.tell
      rw [State.countMissedFull_of_kept id]
    obtain ⟨l', j', p', q, h⟩ := s.relist_eq a (s.container a)
    rw [← h1] at h
    have hrow : ∀ r, r ≠ a → (s.tellSame a).containerRow r = s.containerRow r := by
      intro r hr
      rcases h with h | h <;> rw [h]
      · simp [hr]
      · rfl
    have hass : ∀ r, ((s.tellSame a).container r).assignment = (s.container r).assignment := by
      intro r
      by_cases hr : r = a
      · subst hr
        rcases h with h | h <;> rw [h]
        · unfold State.container
          rw [State.containerRow_editContainer]
          simp
          rfl
        · rfl
      · unfold State.container
        rw [hrow r hr]
    obtain ⟨⟨l, j, p, cs, e1⟩, e2, e3⟩ := ih (s.tellSame a)
    refine ⟨⟨l, j, p, cs, ?_⟩, ?_, ?_⟩
    · rw [List.foldl_cons, e1]
      rcases h with h | h <;> rw [h] <;> rfl
    · intro r hr
      rw [List.mem_cons, not_or] at hr
      rw [List.foldl_cons, e2 r hr.2, hrow r hr.1]
    · intro r
      rw [List.foldl_cons, e3 r, hass r]

end Sys2Proof.Machine
end

