-- ==== Sys2Proof/Laws/Fill.lean ====
section
/-! SUPPORT. What the arithmetic of the Fill Unit gives, whatever the configuration it is given: an
estimate within 0 to 10000 and a fill state other than NONE (R37). -/

namespace Sys2Proof.Machine

/-- R23: from the dead zone on, the measured fill lies within 0 to 10000. -/
theorem measuredFill_le (cfg : ContainerConfig) {d : Nat} (h : cfg.deadZone ≤ d) :
    measuredFill cfg d ≤ 10000 := by
  unfold measuredFill
  split
  · refine Nat.div_le_of_le_mul ?_
    exact Nat.mul_le_mul_right _ (by omega)
  · exact Nat.le_of_lt_succ (Fin.isLt _)

/-- R26: a filter step stays within 0 to 10000. -/
theorem filtered_le (gain e m : Nat) : filtered gain e m ≤ 10000 := by
  unfold filtered
  dsimp only
  split <;> omega

/-- R36: the estimate after a lift lies within 0 to 10000. -/
theorem ContainerConfig.afterLift_le (cfg : ContainerConfig) : cfg.afterLift ≤ 10000 := by
  unfold afterLift
  split <;> omega

theorem ContainerConfig.afterLift_of_le {cfg : ContainerConfig} (h : cfg.residue ≤ 10000) :
    cfg.afterLift = cfg.residue := if_pos h

/-- R33: the value of an ARITHMETIC notice fits its two octets. -/
theorem eventValue_le (v : Nat) : eventValue v ≤ 65535 := by
  unfold eventValue
  split <;> omega

theorem eventValue_of_le {v : Nat} (h : v ≤ 65535) : eventValue v = v := if_pos h

/-- R30: an evaluation never gives NONE. -/
theorem evaluateFill_ne_none (cfg : ContainerConfig) (before : FillState) (e : Nat) :
    evaluateFill cfg before e ≠ .none := by
  unfold evaluateFill
  cases before <;> (repeat' split) <;> exact FillState.noConfusion

/-- R30: below the thresholds less the hysteresis an evaluation gives NORMAL, from whatever state. -/
theorem evaluateFill_normal {cfg : ContainerConfig} {e : Nat} (h : e + cfg.hysteresis < cfg.warn)
    (hw : cfg.warn < cfg.full) (before : FillState) : evaluateFill cfg before e = .normal := by
  cases before <;> simp only [evaluateFill] <;> (repeat' split) <;> first | rfl | omega

@[simp] theorem settle_estimate (c : Container) (e : Nat) : (settle c e).1.estimate = some e := rfl

@[simp] theorem settle_fill (c : Container) (e : Nat) :
    (settle c e).1.fill = evaluateFill c.cfg c.fill e := rfl

/-- R54: available units that two octets hold are carried as they are. -/
theorem availableOctets_of_le {i : Int} (h : -32768 ≤ i) : availableOctets i = be16s i := if_pos h

end Sys2Proof.Machine
end

