-- ==== Sys2Proof/Laws/Footprints.lean ====
section
/-! SUPPORT. What the operations on containers, deposits, cards, tickets and the dispatch can change: one
lemma for each, by which a command's effect on everything else is nothing. -/

namespace Sys2Proof.Machine

/-- `t` came from `s` by work on containers, the dispatch, deposits, tickets and cards, with its notices
and captures: nothing else has changed, the Notice Queue stays within 64 (R175), and the tables stay
canonical. -/
structure State.Yields (s t : State) : Prop where
  outside : { t with containers := s.containers, dispatch := s.dispatch, deposits := s.deposits,
                     tickets := s.tickets, cards := s.cards, notices := s.notices,
                     capture := s.capture } = s
  queue : s.notices.queue.length ≤ 64 → t.notices.queue.length ≤ 64
  tables : s.tablesCanonical = true → t.tablesCanonical = true

namespace State.Yields

theorem refl (s : State) : s.Yields s := ⟨rfl, id, id⟩

theorem trans {s t u : State} (h : s.Yields t) (k : t.Yields u) : s.Yields u := by
  refine ⟨?_, k.queue ∘ h.queue, k.tables ∘ h.tables⟩
  have h1 := h.outside
  have k1 := k.outside
  cases s; cases t; cases u
  simp only [State.mk.injEq] at h1 k1 ⊢
  simp_all

/-- Two pieces of work in turn. -/
theorem next {s t : State} (h : s.Yields t) {f : State → State} (hf : ∀ x : State, x.Yields (f x)) :
    s.Yields (f t) := h.trans (hf t)

theorem editDispatch (s : State) (f : Dispatch → Dispatch) : s.Yields (s.editDispatch f) :=
  ⟨rfl, id, id⟩

theorem editDeposits (s : State) (f : List Deposit → List Deposit) :
    s.Yields (s.editDeposits f) := ⟨rfl, id, id⟩

theorem putContainer (s : State) (row : Nat) (r : Row Container) : s.Yields (s.putContainer row r) :=
  ⟨rfl, id, fun h => by
    simp only [State.tablesCanonical, Bool.and_eq_true] at h ⊢
    exact ⟨⟨⟨⟨⟨⟨h.1.1.1.1.1.1, Table.wf_set _ _ _ h.1.1.1.1.1.2⟩, h.1.1.1.1.2⟩, h.1.1.1.2⟩, h.1.1.2⟩,
      h.1.2⟩, h.2⟩⟩

theorem editContainer (s : State) (row : Nat) (f : Container → Container) :
    s.Yields (s.editContainer row f) := putContainer ..

theorem writeContainer (s : State) (row : Nat) (c : Container) :
    s.Yields (s.writeContainer row c) := putContainer ..

theorem putCard (s : State) (row : Nat) (r : Row CardRow) : s.Yields (s.putCard row r) :=
  ⟨rfl, id, fun h => by
    simp only [State.tablesCanonical, Bool.and_eq_true] at h ⊢
    exact ⟨⟨⟨h.1.1.1, Table.wf_set _ _ _ h.1.1.2⟩, h.1.2⟩, h.2⟩⟩

theorem writeCard (s : State) (row : Nat) (c : CardRow) : s.Yields (s.writeCard row c) := putCard ..

theorem putTicket (s : State) (slot : Nat) (t : Ticket) : s.Yields (s.putTicket slot t) :=
  ⟨rfl, id, fun h => by
    simp only [State.tablesCanonical, Bool.and_eq_true] at h ⊢
    exact ⟨h.1, Table.wf_set _ _ _ h.2⟩⟩

end State.Yields

/-- A class that is held loses one notice, and the new one takes its room (R175). -/
theorem length_withoutOldest {c : NoticeClass} {q : List Notice} (h : holdsClass c q = true) :
    (withoutOldest c q).length + 1 = q.length := by
  obtain ⟨n, hn, hc⟩ := List.any_eq_true.1 h
  have h1 := List.length_eraseP_of_mem (p := fun n : Notice => decide (n.kind.cls = c)) hn hc
  have h2 : 0 < q.length := List.length_pos_of_mem hn
  rw [withoutOldest, h1]
  omega

theorem length_displace (q : List Notice) (n : Notice) : (displace q n).length = q.length := by
  unfold displace
  split_ifs with h1 h2
  · rw [List.length_append, ← length_withoutOldest h1]; rfl
  · rw [List.length_append, ← length_withoutOldest (Bool.and_eq_true_iff.1 h2).2]; rfl
  · rfl

theorem NoticeUnit.length_join (u : NoticeUnit) (n : Notice) (e : Word32)
    (h : u.queue.length ≤ 64) : (u.join n e).queue.length ≤ 64 := by
  unfold NoticeUnit.join
  by_cases h1 : u.queue.length < 64
  · rw [if_pos h1]
    show (u.queue ++ [n]).length ≤ 64
    rw [List.length_append, List.length_singleton]; omega
  · rw [if_neg h1]
    show (displace u.queue n).length ≤ 64
    rw [length_displace]; exact h

namespace State.Yields

theorem raise (s : State) (k : NoticeKind) (subject : Nat) (p : List Octet) :
    s.Yields (s.raise k subject p) := ⟨rfl, NoticeUnit.length_join _ _ _, id⟩

theorem captureFault (s : State) (t : FaultTable) (row : Nat) : s.Yields (s.captureFault t row) :=
  ⟨rfl, id, id⟩

theorem tableFault (s : State) (t : FaultTable) (row : Nat) (p : List Octet) :
    s.Yields (s.tableFault t row p) := (captureFault s t row).trans (raise ..)

theorem repairCard (s : State) (row : Nat) : s.Yields (s.repairCard row) := by
  unfold State.repairCard
  split_ifs
  · exact (tableFault ..).trans (writeCard ..)
  · exact refl s

theorem removeDeposit (s : State) (row : Nat) : s.Yields (s.removeDeposit row) := editDeposits ..

theorem release (s : State) (d : Deposit) : s.Yields (s.release d) := by
  unfold State.release
  exact (((repairCard s d.cardRow).trans (writeCard ..)).trans (removeDeposit ..)).trans
    (editContainer ..)

theorem releaseAt (s : State) (row : Nat) : s.Yields (s.releaseAt row) := by
  unfold State.releaseAt
  split
  · exact release ..
  · exact refl s

theorem joinList (s : State) (row : Nat) : s.Yields (s.joinList row) := by
  unfold State.joinList
  exact ((editDispatch s _).trans (editContainer ..)).trans (editDispatch ..)

theorem tell (s : State) (row : Nat) (was : Container) : s.Yields (s.tell row was) := by
  have h1 : s.Yields (s.countMissedFull row was) := by
    unfold State.countMissedFull
    split_ifs
    · exact editDispatch ..
    · exact refl s
  refine h1.next (f := fun x => x.relist row was) fun x => ?_
  unfold State.relist State.moveInList State.leaveList State.makePassDue
  dsimp only
  split_ifs
  · exact refl x
  · exact ((editDispatch x _).trans (editDispatch ..)).trans (editDispatch ..)
  · exact editDispatch ..
  · exact (joinList x row).trans (editDispatch ..)
  · exact refl x

theorem completeTicket (s : State) (slot : Nat) : s.Yields (s.completeTicket slot) :=
  (putTicket ..).trans (raise ..)

theorem leavePlanned (s : State) (row slot : Nat) (st : StopStatus) (mass : Option Nat) :
    s.Yields (s.leavePlanned row slot st mass) := by
  unfold State.leavePlanned
  dsimp only
  split_ifs
  · exact ((putTicket s slot _).trans (editContainer ..)).trans (completeTicket ..)
  · exact (putTicket s slot _).trans (editContainer ..)

theorem skipStop (s : State) (row : Nat) (slot : Option Nat) : s.Yields (s.skipStop row slot) := by
  cases slot
  · exact refl s
  · exact leavePlanned ..

theorem becomeCurrent (s : State) : s.Yields s.becomeCurrent := by
  unfold State.becomeCurrent State.makePassDue
  exact (putTicket ..).trans (editDispatch ..)

theorem advance (fuel : Nat) (s : State) : s.Yields (State.advance fuel s) := by
  induction fuel generalizing s with
  | zero => exact refl s
  | succ n ih =>
    unfold State.advance
    dsimp only
    split_ifs
    · exact (editDispatch s _).trans (becomeCurrent _)
    · exact editDispatch ..
    · exact (editDispatch s _).trans (ih _)

theorem handBack (s : State) (cause : HandBackCause) : s.Yields (s.handBack cause) := by
  unfold State.handBack
  dsimp only
  split_ifs
  · exact ((putTicket s _ _).trans (raise ..)).trans (advance ..)
  · exact (((putTicket s _ _).trans (raise ..)).trans (completeTicket ..)).trans (advance ..)

theorem withdraw (s : State) (row : Nat) : s.Yields (s.withdraw row) :=
  (((releaseAt s row).trans (skipStop ..)).trans (editContainer ..)).trans (tell ..)

theorem clearContainer (s : State) (row : Nat) : s.Yields (s.clearContainer row) :=
  (writeContainer ..).trans (tell ..)

/-- Work done row by row, or deposit by deposit. -/
theorem foldl {α : Type} {f : State → α → State} (hf : ∀ (x : State) a, x.Yields (f x a)) (l : List α)
    (s : State) : s.Yields (l.foldl f s) := by
  induction l generalizing s with
  | nil => exact refl s
  | cons a l ih => exact (hf s a).trans (ih _)

theorem releaseUpTo (s : State) (row : Nat) : s.Yields (s.releaseUpTo row) := by
  unfold State.releaseUpTo
  split
  · exact refl s
  · exact (foldl release _ _).trans (release ..)

theorem forceUnload (s : State) (row : Nat) : s.Yields (s.forceUnload row) := by
  unfold State.forceUnload
  dsimp only
  split_ifs
  · exact ((releaseUpTo s row).trans (skipStop ..)).trans (clearContainer ..)
  · exact releaseUpTo s row

theorem releaseStation (s : State) (addr : Nat) : s.Yields (s.releaseStation addr) :=
  foldl release _ _

theorem unloadStation (s : State) (addr : Nat) : s.Yields (s.unloadStation addr) :=
  foldl forceUnload _ _
theorem readContainer (s : State) (row : Nat) : s.Yields (s.readContainer row) := by
  unfold State.readContainer
  split_ifs with h
  · dsimp only
    split_ifs
    · exact ((tableFault s _ _ _).trans (withdraw ..)).trans (writeContainer ..)
    · exact ((tableFault s _ _ _).trans (withdraw ..)).trans (clearContainer ..)
  · exact refl s

theorem readStream (s : State) (code : Nat) : s.Yields (s.readStream code) := by
  unfold State.readStream
  split_ifs
  · exact tableFault ..
  · exact refl s

theorem assign (s : State) (row vol : Nat) : s.Yields (s.assign row vol) := by
  unfold State.assign State.leaveList
  exact ((putTicket s _ _).trans (writeContainer ..)).trans (editDispatch ..)

theorem walk (rows : List Nat) (s : State) : s.Yields (State.walk rows s) := by
  induction rows generalizing s with
  | nil => exact refl s
  | cons row rows ih =>
    unfold State.walk
    split_ifs with h1
    · exact refl s
    · dsimp only
      split_ifs
      · exact ((readContainer s row).trans (assign ..)).trans (ih _)
      · exact (readContainer s row).trans (ih _)

theorem pass (s : State) : s.Yields s.pass := by
  unfold State.pass
  dsimp only
  split
  · exact (walk _ s).trans (handBack ..)
  · exact walk _ s

theorem runPasses (fuel : Nat) (s : State) : s.Yields (State.runPasses fuel s) := by
  induction fuel generalizing s with
  | zero => exact editDispatch ..
  | succ n ih =>
    unfold State.runPasses
    dsimp only
    split_ifs
    · exact ((editDispatch s _).trans (pass _)).trans (ih _)
    · exact editDispatch ..
    · exact refl s

theorem endEvent (s : State) : s.Yields s.endEvent := runPasses 17 s

end State.Yields

/-- A row without a deposit releases none. -/
theorem State.releaseUpTo_none {s : State} {row : Nat} (h : s.depositAt row = none) :
    s.releaseUpTo row = s := by simp [State.releaseUpTo, h]

/-- Where no deposit of the station stands in front of the row's, it alone is released. -/
theorem State.releaseUpTo_first {s : State} {row : Nat}
    (h : ∀ x ∈ s.deposits.takeWhile (fun x => x.row ≠ row), rowStation x.row ≠ rowStation row) :
    s.releaseUpTo row = s.releaseAt row := by
  have h0 : (s.deposits.takeWhile fun x => x.row ≠ row).filter
      (fun x => rowStation x.row = rowStation row) = [] := by simpa using h
  unfold State.releaseUpTo State.releaseAt
  rw [h0]
  cases s.depositAt row <;> rfl

/-- The end of an event leaves no pass due (R99). -/
theorem State.passDue_runPasses (fuel : Nat) (s : State) :
    (State.runPasses fuel s).dispatch.passDue = false := by
  induction fuel generalizing s with
  | zero => rfl
  | succ n ih =>
    unfold State.runPasses
    dsimp only
    split_ifs with h1
    · exact ih _
    · rfl
    · exact Bool.eq_false_iff.2 h1

end Sys2Proof.Machine
end

