-- ==== Sys2Proof/Laws/Frames.lean ====
section
/-! SUPPORT. What a whole station frame does to a hunting receiver (R129). -/

namespace Sys2Proof.Machine

/-- One character of a run, as SEGMENT_FRAME_RECEIVED takes it. -/
def State.hearChar (g : Seg) (s : State) (c : SegChar) : State :=
  if (s.seg g).receiving then s.takeChar g c else s

theorem execSegmentFrameReceived_eq (g : Seg) (chars : List SegChar) (s : State) :
    execSegmentFrameReceived g chars s = .next (chars.foldl (State.hearChar g) s) := rfl

@[simp] theorem State.seg_setRx (s : State) (g : Seg) (rx : Option (List Octet)) :
    (s.setRx g rx).seg g = { s.seg g with rx := rx } := by cases g <;> rfl

@[simp] theorem State.setRx_setRx (s : State) (g : Seg) (a b : Option (List Octet)) :
    (s.setRx g a).setRx g b = s.setRx g b := by cases g <;> rfl

theorem State.setRx_none_of_hunting {s : State} {g : Seg} (h : (s.seg g).rx = none) :
    s.setRx g none = s := by
  cases g <;> simp only [State.seg] at h <;> simp only [State.setRx, State.editSeg, ← h]

/-- A character whose mark bit is 0. -/
def plainChar (o : Octet) : SegChar := { mark := false, data := o, stopGood := true }

theorem markFirst_cons (o : Octet) (os : List Octet) :
    markFirst (o :: os) = { mark := true, data := o, stopGood := true } :: os.map plainChar := rfl

/-- The octets after a frame's first are gathered until the frame is one octet short. -/
theorem State.hear_prefix (g : Seg) (a k n : Octet) (body : List Octet) (s : State)
    (hn : n.toNat ≤ 24) (hb : body.length = n.toNat + 2)
    (hr : (s.seg g).receiving = true) (i : Nat) (hi : i < body.length + 2) :
    (((k :: n :: body).take i).map plainChar).foldl (State.hearChar g) (s.setRx g (some [a])) =
      s.setRx g (some (a :: (k :: n :: body).take i)) := by
  induction i with
  | zero => simp
  | succ i ih =>
    have hlt : i < (k :: n :: body).length := by simp; omega
    rw [List.take_succ_eq_append_getElem hlt, List.map_append, List.foldl_append, ih (by omega)]
    simp only [List.map_cons, List.map_nil, List.foldl_cons, List.foldl_nil]
    have hrec : ((s.setRx g (some (a :: (k :: n :: body).take i))).seg g).receiving = true := by
      simpa [Segment.receiving] using hr
    unfold State.hearChar
    rw [if_pos hrec]
    unfold State.takeChar
    simp only [State.seg_setRx, plainChar]
    simp only [Bool.not_true, Bool.false_eq_true, if_false]
    match i, hlt, hi with
    | 0, _, _ => simp [State.addOctet]
    | 1, _, _ =>
      simp [State.addOctet]; omega
    | i + 2, hlt, hi =>
      have hlt' : i < body.length := by omega
      have : (body.take i ++ [body[i]]).length = i + 1 := by simp; omega
      simp [State.addOctet]
      rw [if_neg (by omega), if_neg (by omega)]

/-- A whole frame with a payload of at most 24 octets, taken by a hunting receiver, is completed. -/
theorem State.hear_frame (g : Seg) (a k n : Octet) (body : List Octet) (s : State)
    (hn : n.toNat ≤ 24) (hb : body.length = n.toNat + 2)
    (hr : (s.seg g).receiving = true) (hx : (s.seg g).rx = none) :
    (markFirst (a :: k :: n :: body)).foldl (State.hearChar g) s =
      s.completeFrame g (a :: k :: n :: body) := by
  rw [markFirst_cons, List.foldl_cons]
  have h1 : State.hearChar g s { mark := true, data := a, stopGood := true } =
      s.setRx g (some [a]) := by
    unfold State.hearChar State.takeChar
    rw [if_pos hr, hx]; simp
  rw [h1]
  have hlt : body.length + 1 < (k :: n :: body).length := by simp
  have hfull : (k :: n :: body) = (k :: n :: body).take (body.length + 1) ++
      [(k :: n :: body)[body.length + 1]] := by
    rw [← List.take_succ_eq_append_getElem hlt]; simp
  have key := State.hear_prefix g a k n body s hn hb hr (body.length + 1) (by omega)
  rw [hfull, List.map_append, List.foldl_append, key]
  simp only [List.map_cons, List.map_nil, List.foldl_cons, List.foldl_nil]
  rw [show a :: ((k :: n :: body).take (body.length + 1) ++ [(k :: n :: body)[body.length + 1]])
    = a :: k :: n :: body by rw [← hfull]]
  have hrec : ((s.setRx g (some (a :: (k :: n :: body).take (body.length + 1)))).seg g).receiving
      = true := by
    simpa [Segment.receiving] using hr
  unfold State.hearChar
  rw [if_pos hrec]
  unfold State.takeChar
  simp only [State.seg_setRx, plainChar]
  simp only [Bool.not_true, Bool.false_eq_true, if_false, List.cons_append]
  rw [← hfull]
  simp only [State.addOctet]
  rw [if_neg (by omega), if_pos hb, State.setRx_setRx, State.setRx_none_of_hunting hx]

theorem withCheck_length (os : List Octet) : (withCheck os).length = os.length + 2 := by
  simp [withCheck, be16]

/-- A valid station frame reaches the window (R130). -/
theorem exec_stationFrame (g : Seg) (addr : Nat) (kind : Octet) (payload : List Octet) (s : State)
    (ha : addr < 256) (hp : payload.length ≤ 24)
    (hr : (s.seg g).receiving = true) (hx : (s.seg g).rx = none) :
    exec (.segmentFrameReceived g (stationFrame addr kind payload)) s =
      .next (s.handFrame g addr kind payload) := by
  simp only [exec, execSegmentFrameReceived_eq]
  have hl : (octet payload.length).toNat = payload.length := by simp [octet]; omega
  have hf : stationFrame addr kind payload = markFirst (octet addr :: kind :: octet payload.length ::
      (payload ++ be16 (checkSequence ([octet addr, kind, octet payload.length] ++ payload)).toNat)) := by
    simp [stationFrame, withCheck]
  rw [hf, State.hear_frame g _ _ _ _ s (by omega) (by simp [be16]; omega) hr hx]
  congr 1
  unfold State.completeFrame
  have hbody : (octet addr :: kind :: octet payload.length ::
      (payload ++ be16 (checkSequence ([octet addr, kind, octet payload.length] ++ payload)).toNat)).take
      ((octet addr :: kind :: octet payload.length ::
      (payload ++ be16 (checkSequence ([octet addr, kind, octet payload.length] ++ payload)).toNat)).length - 2)
      = octet addr :: kind :: octet payload.length :: payload := by
    rw [show (octet addr :: kind :: octet payload.length ::
      (payload ++ be16 (checkSequence ([octet addr, kind, octet payload.length] ++ payload)).toNat)).length - 2
      = (octet addr :: kind :: octet payload.length :: payload).length by simp [be16]]
    simp [be16]
  simp only [hbody]
  rw [if_pos (by simp [withCheck])]
  simp [octet, Nat.mod_eq_of_lt ha]

/-- A frame whose check octets do not agree is an error (R129). -/
theorem exec_spoiledFrame (g : Seg) (addr kind c d : Octet) (payload : List Octet) (s : State)
    (hp : payload.length ≤ 24) (hr : (s.seg g).receiving = true) (hx : (s.seg g).rx = none)
    (hc : [c, d] ≠ be16 (checkSequence ([addr, kind, octet payload.length] ++ payload)).toNat) :
    exec (.segmentFrameReceived g
        (markFirst ([addr, kind, octet payload.length] ++ payload ++ [c, d]))) s =
      .next (s.handError g true false) := by
  simp only [exec, execSegmentFrameReceived_eq]
  have hl : (octet payload.length).toNat = payload.length := by simp [octet]; omega
  rw [show [addr, kind, octet payload.length] ++ payload ++ [c, d] =
    addr :: kind :: octet payload.length :: (payload ++ [c, d]) by simp,
    State.hear_frame g _ _ _ _ s (by omega) (by simp; omega) hr hx]
  congr 1
  unfold State.completeFrame
  have hbody : (addr :: kind :: octet payload.length :: (payload ++ [c, d])).take
      ((addr :: kind :: octet payload.length :: (payload ++ [c, d])).length - 2)
      = addr :: kind :: octet payload.length :: payload := by
    rw [show (addr :: kind :: octet payload.length :: (payload ++ [c, d])).length - 2
      = (addr :: kind :: octet payload.length :: payload).length by simp]
    simp
  simp only [hbody]
  rw [if_neg]
  simp [withCheck]
  simpa using fun h => hc h.symm

/-- The characters of a frame but its last leave it in progress (R129). -/
theorem State.hear_begun (g : Seg) (a k n : Octet) (body : List Octet) (s : State)
    (hn : n.toNat ≤ 24) (hb : body.length = n.toNat + 2) (hr : (s.seg g).receiving = true)
    (hx : (s.seg g).rx = none) (i : Nat) (hi : i < body.length + 2) :
    (markFirst (a :: (k :: n :: body).take i)).foldl (State.hearChar g) s =
      s.setRx g (some (a :: (k :: n :: body).take i)) := by
  rw [markFirst_cons, List.foldl_cons, ← State.hear_prefix g a k n body s hn hb hr i hi]
  congr 1
  unfold State.hearChar State.takeChar
  rw [if_pos hr, hx]; simp

/-- A character with a bad stop bit ends the frame in progress as a framing error (R129). -/
theorem State.hear_badStop (g : Seg) (os : List Octet) (x : Octet) (m : Bool) (s : State)
    (hr : (s.seg g).receiving = true) (hx : (s.seg g).rx = none) :
    State.hearChar g (s.setRx g (some os)) { mark := m, data := x, stopGood := false } =
      s.handError g false true := by
  have hrec : ((s.setRx g (some os)).seg g).receiving = true := by simpa [Segment.receiving] using hr
  unfold State.hearChar State.takeChar
  rw [if_pos hrec]
  simp [State.setRx_none_of_hunting hx]

/-- A new address character ends the frame in progress and begins another (R129). -/
theorem State.hear_restart (g : Seg) (os : List Octet) (x : Octet) (s : State)
    (hr : (s.seg g).receiving = true) :
    State.hearChar g (s.setRx g (some os)) { mark := true, data := x, stopGood := true } =
      (s.setRx g (some [x])).frameEnded g := by
  have hrec : ((s.setRx g (some os)).seg g).receiving = true := by simpa [Segment.receiving] using hr
  unfold State.hearChar State.takeChar
  rw [if_pos hrec]
  simp

end Sys2Proof.Machine
end

