-- ==== Sys2Proof/Laws/LinkFrames.lean ====
section
/-! SUPPORT. What a whole link frame does to a hunting receiver (R159). -/

namespace Sys2Proof.Machine

@[simp] theorem State.setLinkRx_setLinkRx (s : State) (a b : LinkRx) :
    (s.setLinkRx a).setLinkRx b = s.setLinkRx b := rfl

@[simp] theorem State.rx_setLinkRx (s : State) (a : LinkRx) : (s.setLinkRx a).link.rx = a := rfl

theorem State.setLinkRx_hunting {s : State} (h : s.link.rx = .hunting) :
    s.setLinkRx .hunting = s := by
  simp only [State.setLinkRx, State.editLink, ← h]

theorem linkChars_append (a b : List Octet) : linkChars (a ++ b) = linkChars a ++ linkChars b := by
  simp [linkChars]

/-- The preamble puts a hunting receiver into a frame (R159). -/
theorem State.hear_preamble {s : State} (h : s.link.rx = .hunting) (os : List Octet) :
    (linkChars ([0xA5, 0x5A] ++ os)).foldl State.takeLinkChar s =
      (linkChars os).foldl State.takeLinkChar (s.setLinkRx (.frame [])) := by
  rw [linkChars_append, List.foldl_append]
  congr 1
  simp [linkChars, State.takeLinkChar, h]

/-- The octets of a frame are gathered until it is one octet short. -/
theorem State.hear_link_prefix (lh ll : Octet) (rest : List Octet) (s : State)
    (hn : 3 ≤ u16 lh ll) (hn' : u16 lh ll ≤ 259) (hb : rest.length = u16 lh ll + 2) (i : Nat)
    (hi : i < rest.length + 2) :
    (linkChars ((lh :: ll :: rest).take i)).foldl State.takeLinkChar (s.setLinkRx (.frame [])) =
      s.setLinkRx (.frame ((lh :: ll :: rest).take i)) := by
  induction i with
  | zero => simp [linkChars]
  | succ i ih =>
    have hlt : i < (lh :: ll :: rest).length := by simp; omega
    rw [List.take_succ_eq_append_getElem hlt, linkChars_append, List.foldl_append, ih (by omega)]
    simp only [linkChars, List.map_cons, List.map_nil, List.foldl_cons, List.foldl_nil]
    unfold State.takeLinkChar
    simp only [State.rx_setLinkRx, if_true]
    match i, hlt, hi with
    | 0, _, _ => simp [State.addLinkOctet]
    | 1, _, _ =>
      simp [State.addLinkOctet]
      omega
    | i + 2, hlt, hi =>
      have hlt' : i < rest.length := by omega
      have : (rest.take i ++ [rest[i]]).length = i + 1 := by simp; omega
      simp [State.addLinkOctet]
      rw [if_neg (by omega), if_neg (by omega)]

/-- A whole frame after its preamble, taken by a hunting receiver, is completed (R159). -/
theorem State.hear_link (lh ll : Octet) (rest : List Octet) (s : State)
    (hn : 3 ≤ u16 lh ll) (hn' : u16 lh ll ≤ 259) (hb : rest.length = u16 lh ll + 2)
    (hx : s.link.rx = .hunting) :
    (linkChars ([0xA5, 0x5A] ++ lh :: ll :: rest)).foldl State.takeLinkChar s =
      s.completeLink (lh :: ll :: rest) := by
  rw [State.hear_preamble hx]
  have hlt : rest.length + 1 < (lh :: ll :: rest).length := by simp
  have hfull : (lh :: ll :: rest) = (lh :: ll :: rest).take (rest.length + 1) ++
      [(lh :: ll :: rest)[rest.length + 1]] := by
    rw [← List.take_succ_eq_append_getElem hlt]; simp
  have key := State.hear_link_prefix lh ll rest s hn hn' hb (rest.length + 1) (by omega)
  rw [hfull, linkChars_append, List.foldl_append, key]
  simp only [linkChars, List.map_cons, List.map_nil, List.foldl_cons, List.foldl_nil]
  unfold State.takeLinkChar
  simp only [State.rx_setLinkRx, if_true]
  rw [← hfull]
  simp only [State.addLinkOctet]
  rw [if_neg (by simp; omega), if_pos hb, State.setLinkRx_setLinkRx, State.setLinkRx_hunting hx]

theorem u16_be16_link {n : Nat} (h : n < 65536) : u16 (octet (n / 256)) (octet n) = n := by
  simp [u16, octet]; omega

/-- A valid link frame is routed (R160). -/
theorem State.hear_linkFrame (addr cls tag : Octet) (body : List Octet) (s : State)
    (hb : body.length ≤ 256) (hx : s.link.rx = .hunting) :
    (linkChars (linkFrame addr.toNat cls tag body)).foldl State.takeLinkChar s =
      s.routeLink addr cls tag body := by
  have ha : octet addr.toNat = addr := by simp [octet]
  let n := body.length + 3
  let chk := be16 (checkSequence (be16 n ++ [addr, cls, tag] ++ body)).toNat
  have hf : linkFrame addr.toNat cls tag body =
      [0xA5, 0x5A] ++ octet (n / 256) :: octet n :: ([addr, cls, tag] ++ body ++ chk) := by
    simp [linkFrame, withCheck, be16, ha, n, chk]
  have hu : u16 (octet (n / 256)) (octet n) = n := u16_be16_link (by omega)
  rw [hf, State.hear_link _ _ _ s (by omega) (by omega) (by rw [hu]; simp [chk, be16, n]) hx]
  unfold State.completeLink
  have hbody : (octet (n / 256) :: octet n :: ([addr, cls, tag] ++ body ++ chk)).take
      ((octet (n / 256) :: octet n :: ([addr, cls, tag] ++ body ++ chk)).length - 2) =
      octet (n / 256) :: octet n :: addr :: cls :: tag :: body := by
    rw [show (octet (n / 256) :: octet n :: ([addr, cls, tag] ++ body ++ chk)).length - 2 =
      (octet (n / 256) :: octet n :: addr :: cls :: tag :: body).length by simp [chk, be16]]
    simp
  simp only [hbody]
  rw [if_pos (by simp [withCheck, chk, be16])]

/-- A link frame whose check octets do not agree is counted (R159). -/
theorem State.hear_spoiledLink (addr cls tag a b : Octet) (body : List Octet) (s : State)
    (hb : body.length ≤ 256) (hx : s.link.rx = .hunting)
    (hc : [a, b] ≠ be16 (checkSequence (be16 (body.length + 3) ++ [addr, cls, tag] ++ body)).toNat) :
    (linkChars ([0xA5, 0x5A] ++ (be16 (body.length + 3) ++ [addr, cls, tag] ++ body) ++ [a, b])).foldl
        State.takeLinkChar s =
      s.countLink fun c => { c with checkErrors := satInc16 c.checkErrors } := by
  let n := body.length + 3
  have hu : u16 (octet (n / 256)) (octet n) = n := u16_be16_link (by omega)
  rw [show ([0xA5, 0x5A] ++ (be16 (body.length + 3) ++ [addr, cls, tag] ++ body) ++ [a, b] : List Octet) =
    [0xA5, 0x5A] ++ octet (n / 256) :: octet n :: ([addr, cls, tag] ++ body ++ [a, b]) by
      simp [be16, n]]
  rw [State.hear_link _ _ _ s (by omega) (by omega) (by rw [hu]; simp [n]) hx]
  unfold State.completeLink
  have hbody : (octet (n / 256) :: octet n :: ([addr, cls, tag] ++ body ++ [a, b])).take
      ((octet (n / 256) :: octet n :: ([addr, cls, tag] ++ body ++ [a, b])).length - 2) =
      octet (n / 256) :: octet n :: addr :: cls :: tag :: body := by
    rw [show (octet (n / 256) :: octet n :: ([addr, cls, tag] ++ body ++ [a, b])).length - 2 =
      (octet (n / 256) :: octet n :: addr :: cls :: tag :: body).length by simp]
    simp
  simp only [hbody]
  rw [if_neg]
  intro h
  apply hc
  simp [withCheck, be16] at h
  simp [be16, n] at h ⊢
  exact ⟨h.1.symm, h.2.symm⟩

/-- A length outside 3 to 259 ends the frame as a length error (R159). -/
theorem State.hear_badLength (lh ll : Octet) (s : State) (hx : s.link.rx = .hunting)
    (hn : u16 lh ll < 3 ∨ 259 < u16 lh ll) :
    (linkChars [0xA5, 0x5A, lh, ll]).foldl State.takeLinkChar s =
      s.countLink fun c => { c with lengthErrors := satInc16 c.lengthErrors } := by
  rw [show ([0xA5, 0x5A, lh, ll] : List Octet) = [0xA5, 0x5A] ++ [lh, ll] from rfl,
    State.hear_preamble hx]
  have short (h : 3 ≤ u16 lh ll) : ¬ u16 lh ll ≤ 259 := by omega
  simp [linkChars, State.takeLinkChar, State.addLinkOctet, State.setLinkRx_hunting hx]
  exact fun h h' => absurd h' (short h)

/-- A framing error inside a frame discards it (R159). -/
theorem State.hear_cutLink (lh ll x : Octet) (rest : List Octet) (s : State)
    (hn : 3 ≤ u16 lh ll) (hn' : u16 lh ll ≤ 259) (hb : rest.length = u16 lh ll + 2)
    (hx : s.link.rx = .hunting) (i : Nat) (hi : i < rest.length + 2) :
    (linkChars ([0xA5, 0x5A] ++ (lh :: ll :: rest).take i) ++
        [({ data := x, stopGood := false } : LinkChar)]).foldl State.takeLinkChar s =
      s.countLink fun c => { c with framingErrors := satInc16 c.framingErrors } := by
  rw [List.foldl_append, State.hear_preamble hx, State.hear_link_prefix lh ll rest s hn hn' hb i hi]
  simp [State.takeLinkChar, State.setLinkRx_hunting hx]

end Sys2Proof.Machine
end

