-- ==== Sys2Proof/Laws/Requests.lean ====
section
/-! SUPPORT. A request that is carried out, the end of an event with no pass due, and the octets of fields. -/

namespace Sys2Proof.Machine

theorem State.serve_of_carries {s : State} {tag c : Octet} {args : List Octet}
    {mine : List Octet → Bool} (f : List Octet → State → Answered)
    (h : s.Carries tag (c :: args)) (hm : mine args = true) :
    s.serve c mine f =
      (f args s).state.replied tag c (f args s).result (f args s).data := by
  unfold State.serve
  rw [h]
  simp [hm, State.reply, State.replied]

/-- A request that its row serves leaves what the row's request answers, with its REPLY (R162). -/
theorem State.serve_answers {s : State} {tag c : Octet} {args : List Octet}
    {mine : List Octet → Bool} {f : List Octet → State → Answered} {a : Answered}
    (h : s.Carries tag (c :: args)) (hm : mine args = true) (hf : f args s = a) :
    s.serve c mine f = a.state.replied tag c a.result a.data := by
  rw [State.serve_of_carries f h hm, hf]

theorem State.endEvent_of_settled {s : State} (h : s.Settled) : s.endEvent = s := by
  unfold State.endEvent State.runPasses
  simp [h]

theorem State.replied_passDue (s : State) (tag code : Octet) (r : ResultCode) (data : List Octet) :
    (s.replied tag code r data).dispatch = s.dispatch := rfl

theorem octet_toNat (o : Octet) : octet o.toNat = o := by simp [octet]

theorem toNat_octet {n : Nat} (h : n < 256) : (octet n).toNat = n := by
  simp [octet]; omega

theorem be16_u16 (a b : Octet) : be16 (u16 a b) = [a, b] := by
  simp only [be16, u16, octet]
  congr 1
  · apply BitVec.eq_of_toNat_eq; simp; omega
  · congr 1; apply BitVec.eq_of_toNat_eq; simp; omega

theorem u16_be16 {n : Nat} (h : n < 65536) : u16 (octet (n / 256)) (octet n) = n := by
  simp [u16, octet]; omega

theorem parseYesNo_of_le {o : Octet} (h : o.toNat ≤ 1) : parseYesNo o = some (decide (o = 0)) := by
  have : o = 0 ∨ o = 1 := by
    rcases Nat.le_one_iff_eq_zero_or_eq_one.1 h with h | h
    · left; exact BitVec.eq_of_toNat_eq h
    · right; exact BitVec.eq_of_toNat_eq h
  rcases this with rfl | rfl <;> rfl

theorem parseYesNo_of_gt {o : Octet} (h : 1 < o.toNat) : parseYesNo o = none := by
  unfold parseYesNo
  split_ifs with h0 h1
  · subst h0; simp at h
  · subst h1; simp at h
  · rfl

theorem yesNo_parse {o : Octet} (h : o.toNat ≤ 1) : yesNo (decide (o = 0)) = o := by
  have : o = 0 ∨ o = 1 := by
    rcases Nat.le_one_iff_eq_zero_or_eq_one.1 h with h | h
    · left; exact BitVec.eq_of_toNat_eq h
    · right; exact BitVec.eq_of_toNat_eq h
  rcases this with rfl | rfl <;> rfl

end Sys2Proof.Machine
end

