-- ==== Sys2Proof/Tests/Slice0.lean ====
section
/-! SUPPORT. Tests: the terms the well-formedness check refuses, values the manual works out, a few steps,
and for every obligation with hypotheses a state and operands that meet them. -/

namespace Sys2Proof.Tests

set_option Elab.async false

open Sys2Proof Sys2Proof.Machine

/-! ### States to test on -/

/-- A station IN SERVICE with four slots. -/
def station : Station :=
  { Station.cold with loaded := true, count := 4, sampleInterval := 600, deadline := 2000,
                      state := .inService, misses := 2 }

/-- A container's configuration, of stream 0. -/
def config : ContainerConfig where
  stream := 0
  capacity := 1000
  depth := 1200
  deadZone := 200
  hatchVolume := 60
  unitCost := 2
  zone := 1
  warn := 7500
  full := 9000
  hysteresis := 500
  gain := 4
  spikeLimit := 2000
  qualityMin := 3
  residue := 200
  grantUnknown := true
  reportMask := 0x1F

/-- A container IN SERVICE that is half full. -/
def bin : Container :=
  { Container.unloaded with loaded := true, cfg := config, service := .inService,
                            estimate := some 5000, fill := .normal }

/-- A card that may use every container. -/
def card : CardRow :=
  { CardRow.cold with state := .active, streamRights := 0xFF, zoneRights := 0xFF, balance := 20,
                      limit := 5 }

/-- Series 0 holds a hundred cards from row 0. -/
def series : SeriesEntry :=
  { valid := true, barred := false, onlineOnly := false, base := 0, span := 100 }

/-- A window open for an address. -/
def window (addr : Nat) : Window :=
  { addr := addr, timeout := 25, heldOpen := false, checkError := false, framingError := false }

/-- Stations 1 and 64 IN SERVICE, the window of station 1 open; rows 0 to 3 IN SERVICE, LIFTING, STALLED
and OUT OF SERVICE; stream 0 charged; one card. -/
def yard : State :=
  { State.reset with
    stations := [(1, Row.good station), (64, Row.good station)]
    containers := [(0, Row.good bin),
      (1, Row.good { bin with service := .lifting, liftStage := .first, liftTimer := some 0 }),
      (2, Row.good { bin with service := .stalled, liftStage := .second, liftTimer := some 0 }),
      (3, Row.good { bin with service := .outOfService, estimate := none, fill := .none })]
    streams := [(0, Row.good { loaded := true, charged := true })]
    series := [(0, Row.good series)]
    cards := [(0, Row.good card)]
    segA := { Segment.cold with window := some (window 1) } }

/-- The deposit of a granted presentation at row 0. -/
def deposit : Deposit :=
  { row := 0, cardRow := 0, card := 0, units := 2, charged := true, expiry := 0 }

/-- The yard with that deposit, its second reached. -/
def held : State :=
  { yard with
    deposits := [deposit]
    cards := [(0, Row.good { card with reserved := 2 })]
    containers := (0, Row.good { bin with hasPending := true }) :: yard.containers.drop 1 }

/-- The Management Unit has taken a request. -/
def asking (s : State) (body : List Octet) : State :=
  s.editMgmt fun m => { m with taken := some { tag := 7, body := body } }

/-- An OPEN ticket of stream 0. -/
def ticket : Ticket :=
  { Ticket.free with state := .opened, number := 9, capacity := 5000, remaining := 4000,
                     maxStops := 4, hold := 1, holdStart := some 0,
                     stops := [{ row := 1, volume := 1000, status := .planned, mass := none }] }

/-- The yard with the ticket current in slot 0, and its container assigned. -/
def round : State :=
  { yard with
    tickets := [(0, ticket)]
    containers := yard.containers.map fun p =>
      if p.1 = 1 then (1, Row.good { p.2.data with assignment := some 0 }) else p
    dispatch := { yard.dispatch with fillIndex := 1 } }

/-- The round once the ticket has been handed back. -/
def handed : State :=
  { round with
    tickets := [(0, { ticket with state := .handed, cause := some .stops })]
    dispatch := { round.dispatch with dispatchIndex := 1 } }

/-- A command is at the front of the queue. -/
def queue (s : State) (c : Instr) : State := { s with pending := [c] }

/-- What a command leaves. -/
def after (c : Instr) (s : State) : State :=
  match exec c s with
  | .next t => t
  | .fault _ => s
  | .refused _ => s

/-- The body of the REPLY held, request code and result first. -/
def answer (s : State) : List Octet :=
  match s.mgmt.reply with
  | none => []
  | some r => r.code :: r.result.code :: r.data

/-! ### Well-formed commands -/

theorem test_wellFormed_upset_address :
    Instr.wellFormed (.secondsCountAdvance [.station 64 station]) = true ∧
    Instr.wellFormed (.secondsCountAdvance [.station 0 station]) = false ∧
    Instr.wellFormed (.secondsCountAdvance [.station 65 station]) = false := by decide

theorem test_wellFormed_upset_rows :
    Instr.wellFormed (.secondsCountAdvance [.container 256 bin]) = false ∧
    Instr.wellFormed (.secondsCountAdvance [.stream 8 StreamEntry.cold]) = false ∧
    Instr.wellFormed (.secondsCountAdvance [.series 255 series]) = false ∧
    Instr.wellFormed (.secondsCountAdvance [.card 8192 card]) = false ∧
    Instr.wellFormed (.secondsCountAdvance [.kind 0x0F 0]) = false ∧
    Instr.wellFormed (.secondsCountAdvance [.kind 0x40 0]) = false := by decide

theorem test_wellFormed_upset_fields :
    Instr.wellFormed (.secondsCountAdvance [.station 1 { station with misses := 256 }]) = false ∧
    Instr.wellFormed (.secondsCountAdvance
      [.container 0 { bin with estimate := some 65536 }]) = false ∧
    Instr.wellFormed (.secondsCountAdvance [.series 0 { series with base := 65536 }]) = false ∧
    Instr.wellFormed (.secondsCountAdvance
      [.window { base := 0, span := 65536, onlineOnly := false }]) = false ∧
    Instr.wellFormed (.secondsCountAdvance [.card 0 { card with balance := 32768 }]) = false ∧
    Instr.wellFormed (.secondsCountAdvance [.kind 0x10 256]) = false := by decide

theorem test_wellFormed_upset_journal :
    Instr.wellFormed (.secondsCountAdvance [.journal 1023
      { seq := 1, card := 0, row := 0, units := 2, balance := 18, stamp := none }]) = true ∧
    Instr.wellFormed (.secondsCountAdvance [.journal 1024
      { seq := 1, card := 0, row := 0, units := 2, balance := 18, stamp := none }]) = false ∧
    Instr.wellFormed (.secondsCountAdvance [.journal 0
      { seq := 1, card := 0, row := 256, units := 2, balance := 18, stamp := none }]) = false ∧
    Instr.wellFormed (.secondsCountAdvance [.journal 0
      { seq := 1, card := 0, row := 0, units := 2, balance := 18,
        stamp := some { day := 65536, minute := 0 } }]) = false := by decide

theorem test_wellFormed_lift_row :
    Instr.wellFormed (.firstLiftExpiry 255) = true ∧
    Instr.wellFormed (.firstLiftExpiry 256) = false ∧
    Instr.wellFormed (.secondLiftExpiry 256) = false := by decide

/-! ### Values the manual works out -/

/-- R128's register over nine octets, as that generator and that order of bits give it. -/
theorem test_checkSequence :
    checkSequence [0x31, 0x32, 0x33, 0x34, 0x35, 0x36, 0x37, 0x38, 0x39] = 0x89F6 := by decide +kernel

/-- A character with mark bit 1 and data 0x01: start, eight data bits, mark bit, stop bit (R127). -/
theorem test_character_bits :
    SegChar.bits { mark := true, data := 0x01, stopGood := true } =
      [false, true, false, false, false, false, false, false, false, true, true] := by decide

/-- Row 142 of the fill estimate's worked case. -/
def case142 : ContainerConfig :=
  { config with capacity := 3000, depth := 2600, deadZone := 400, hatchVolume := 70, gain := 6,
                spikeLimit := 2500, qualityMin := 5, warn := 6000, full := 8500,
                hysteresis := 300 }

theorem test_fill_worked_case :
    increment case142 = 233 ∧ measuredFill case142 1250 = 6136 ∧ filtered 6 6033 6136 = 6071 ∧
    measuredFill case142 1302 = 5900 ∧ filtered 6 6129 5900 = 6044 ∧
    dispatchVolume case142 6129 = 1839 ∧ dispatchVolume case142 6044 = 1814 ∧
    evaluateFill case142 .normal 6033 = .warn ∧ evaluateFill case142 .warn 3100 = .normal := by
  decide +kernel

/-- The word of a row is not spelled by any command: the table gives no bits. -/
theorem test_no_command_words : decodeTableWord 8 0 = none ∧ decodeTableWord 16 0x5601 = none := by
  decide

theorem test_rows_of_stations :
    rowOf 1 0 = 0 ∧ rowOf 36 2 = 142 ∧ rowOf 64 3 = 255 ∧ rowStation 142 = 36 ∧ rowSlot 142 = 2 ∧
    segOf 32 = .a ∧ segOf 33 = .b := by decide

/-! ### A few steps -/

theorem test_coldReset_powerUp :
    (after (.coldReset true) yard).notices.queue =
      [{ kind := .powerUp, subject := 0, payload := [1], stamp := 0 }] := by decide +kernel

theorem test_setClock_then_second :
    (after (.secondsCountAdvance [])
      (after .setClock (asking State.reset [0x52, 0, 3, 5, 0x9F]))).clock =
      some { day := 3, minute := 1439, second := 1 } := by decide +kernel

theorem test_loadStation_reply :
    answer (after .loadStation (asking State.reset [0x01, 5, 2, 2, 0x58, 7, 0xD0])) =
      [0x01, 0, 5, 1] := by decide +kernel

theorem test_presentation_granted :
    ((after (.segmentFrameReceived .a (stationFrame 1 0x02 [0, 0, 0, 0])) yard).segA.answers,
      (after (.segmentFrameReceived .a (stationFrame 1 0x02 [0, 0, 0, 0])) yard).deposits) =
      ([{ addr := 1, slot := 0, body := .grant 2 18 }],
        [{ deposit with expiry := 90 }]) := by decide +kernel

theorem test_deposit_confirmed :
    let t := after (.segmentFrameReceived .a (stationFrame 1 0x03 [0, 0x01])) held
    t.deposits = [] ∧ (t.card 0).balance = 18 ∧ (t.card 0).reserved = 0 ∧
    (t.container 0).estimate = some 5600 ∧ (t.container 0).deposits = 1 ∧
    t.journal.counter = 1 ∧ t.journal.records.length = 1 := by decide +kernel

theorem test_sample_filtered :
    ((after (.segmentFrameReceived .a (stationFrame 1 0x04 [0, 2, 0x58, 9])) yard).container
      0).estimate = some 5250 := by decide +kernel

theorem test_lift_end_unplanned :
    let t := after (.segmentFrameReceived .a (stationFrame 1 0x06 [1, 0, 9])) yard
    (t.container 1).estimate = some 200 ∧ (t.container 1).flags = 32 ∧
    t.notices.queue.length = 2 := by decide +kernel

theorem test_sendTurn_polls :
    (after (.sendTurn .b) { yard with segB := { Segment.cold with turnDue := true } }).segB.pollOut =
      some 64 := by decide +kernel

theorem test_uplinkSend_reply :
    (after .uplinkSend (after .readFaultCapture (asking State.reset [0x55]))).link.onLine =
      some (linkFrame 0 2 7 [0x55, 0, 0, 0, 0, 0, 0, 0, 0, 0, 0]) := by decide +kernel

/-- A read of a row whose parity is upset captures the fault and forces the container OUT (R15). -/
theorem test_parity_fault :
    let t := after .readContainer (after (.secondsCountAdvance [.container 0 bin])
      (asking yard [0x13, 0]))
    t.capture = some { table := .container, row := 0, stamp := 1, further := 0 } ∧
    (t.container 0).service = .outOfService ∧ (t.containerRow 0).bad = false := by decide +kernel

/-! ### Hypotheses that are met

One theorem for every statement with hypotheses: a state and operands that meet them together, for each
of its clauses, at the ends of their ranges where a clause has a range. -/

theorem serving (s : State) (h : s.dispatch.passDue = false ∧ s.segA.state = .up ∧
    s.segA.pollOut = none ∧ s.segA.atSpace = false ∧ s.segA.rx = none ∧
    s.segA.window = some (window 1) ∧ (s.stationRow 1).bad = false ∧
    (s.station 1).state = .inService) : s.Serving 1 :=
  ⟨by decide, by decide, h.1, ⟨h.2.1, h.2.2.1, h.2.2.2.1, h.2.2.2.2.1, window 1,
    h.2.2.2.2.2.1, rfl⟩, h.2.2.2.2.2.2.1, h.2.2.2.2.2.2.2⟩

theorem test_StepCarriesOutFrontCommand :
    (queue yard (.replyTimeout .a)).pending = [.replyTimeout .a] ∧ yard.pending = [] := ⟨rfl, rfl⟩

theorem test_StepKeeps_decidable_laws :
    (queue yard (.replyTimeout .a)).tablesCanonical = true ∧
    (queue yard (.replyTimeout .a)).queuesBounded = true ∧
    (queue yard (.replyTimeout .a)).pollLaw = true ∧
    (queue yard (.replyTimeout .a)).progresses = true := by decide +kernel

theorem held_depositLaw : held.depositLaw := by
  refine ⟨by decide, by decide, by decide, fun row _ => ?_⟩
  by_cases h : row = 0
  · subst h; decide
  · have h1 : held.card row = CardRow.cold := by
      simp [State.card, State.cardRow, held, Table.get, h, Row.good]
    have h2 : unitsNaming held.deposits row = 0 := by
      simp [unitsNaming, held, deposit, Ne.symm h]
    rw [h1, h2]; rfl

theorem test_StepKeepsDepositLaw :
    held.depositLaw ∧ (queue held .pendingExpiry).progresses = true :=
  ⟨held_depositLaw, by decide +kernel⟩

/-- The yard with a Journal of one record, as the held deposit leaves it. -/
def noted : State :=
  { yard with
    journal := { records := [Row.good { seq := 1, card := 0, row := 0, units := 2, balance := 18,
                                        stamp := none }], counter := 1, nextSlot := 1 } }

theorem test_StepKeepsDepositLaw_journal :
    (after (.segmentFrameReceived .a (stationFrame 1 0x03 [0, 0x01])) held).journal = noted.journal ∧
    noted.journalLaw ∧ (queue noted .uplinkSend).progresses = true := by
  refine ⟨by decide +kernel, ⟨by decide, fun i r h _ => ?_⟩, by decide +kernel⟩
  cases i with
  | zero => obtain rfl := Option.some.inj h; decide
  | succ i => simp [noted] at h

theorem test_StepKeepsRingLaw :
    round.ringLaw ∧ (queue round .holdExpiry).progresses = true := by
  refine ⟨⟨by decide, by decide, by decide, Or.inl (by decide +kernel)⟩, by decide +kernel⟩

theorem round_opened_only (m : Nat) (h : m ≠ 0) : round.ticket m = Ticket.free := by
  simp [State.ticket, round, Table.get, h]

theorem test_StepKeepsCapacityLaw :
    round.capacityLaw ∧ (queue round .holdExpiry).progresses = true := by
  refine ⟨fun n => ?_, by decide +kernel⟩
  by_cases h : n = 0
  · subst h; intro _; decide +kernel
  · intro hn; exact absurd (by rw [round_opened_only n h]; rfl) hn

/-- A row beyond the four of the yard holds the unloaded values. -/
theorem round_row (row : Nat) (h : 4 ≤ row) :
    round.containerRow row = Row.good Container.unloaded := by
  have h0 : row ≠ 0 := by omega
  have h1 : row ≠ 1 := by omega
  have h2 : row ≠ 2 := by omega
  have h3 : row ≠ 3 := by omega
  simp [State.containerRow, round, yard, Table.get, h0, h1, h2, h3]

theorem test_StepKeepsContainerLaw :
    round.tablesCanonical = true ∧ round.containerLaw ∧
    (queue round .pendingExpiry).progresses = true := by
  refine ⟨by decide +kernel, fun row _ => ?_, by decide +kernel⟩
  by_cases h : row < 4
  · have key : ∀ r < 4, (round.container r).law := by
      intro r hr
      have hr : r = 0 ∨ r = 1 ∨ r = 2 ∨ r = 3 := by omega
      rcases hr with rfl | rfl | rfl | rfl <;>
        refine ⟨fun e he => ?_, by decide +kernel, by decide +kernel, by decide +kernel,
          by decide +kernel, by decide +kernel, by decide +kernel⟩ <;>
        simp [State.container, State.containerRow, round, yard, Table.get, bin, Row.good,
          Container.unloaded] at he <;> omega
    exact key row h
  · rw [State.container, round_row row (by omega)]
    refine ⟨fun e he => ?_, by decide, by decide, by decide, by decide, by decide, by decide⟩
    exact absurd he (by simp [Row.good, Container.unloaded])

/-- The round's ticket plans row 1 alone. -/
theorem round_plans (n row : Nat) : (round.ticket n).plans row ↔ n = 0 ∧ row = 1 := by
  by_cases h : n = 0
  · subst h
    simp [Ticket.plans, round, State.ticket, Table.get, ticket, eq_comm]
  · rw [round_opened_only n h]
    simp [Ticket.plans, Ticket.free, h]

theorem test_StepKeepsDispatchLaw :
    round.stationLaw ∧ round.ringLaw ∧ round.dispatchLaw ∧
    (queue round .holdExpiry).progresses = true := by
  refine ⟨⟨fun g => ?_, fun addr h1 h2 _ => ?_⟩,
    ⟨by decide, by decide, by decide, Or.inl (by decide +kernel)⟩,
    ⟨fun row h => round_row row (by omega), by decide, fun row _ => ⟨?_, ?_, fun n => ?_⟩,
      fun n row _ h => ?_, fun m n row _ _ h k => ?_⟩, by decide +kernel⟩
  · cases g
    · refine ⟨by decide, by decide, fun w h => ?_, fun a h => (Option.some_ne_none a h.symm).elim⟩
      obtain rfl : window 1 = w := Option.some.inj h
      decide
    · exact ⟨by decide, by decide, fun w h => (Option.some_ne_none w h.symm).elim,
        fun a h => (Option.some_ne_none a h.symm).elim⟩
  · have key : ∀ a < 65, 1 ≤ a →
        ((round.station a).awaiting = true ↔ a ∈ (round.seg (segOf a)).cfgList) ∧
        ((round.station a).awaiting = true → (round.station a).state = .configuring) ∧
        ((round.station a).state = .inService → (round.seg (segOf a)).state = .up) ∧
        ((round.station a).state = .cutOff → (round.seg (segOf a)).state ≠ .up) ∧
        ((round.station a).state = .absent ↔ (round.station a).loaded = false) := by
      decide +kernel
    exact key addr (by omega) h1
  · by_cases h : row < 4
    · have key : ∀ r < 4, (r ∈ round.dispatch.list ↔ (round.container r).eligible = true) := by
        decide +kernel
      exact key row h
    · rw [State.container, round_row row (by omega)]
      simp [Row.good, Container.unloaded, Container.eligible, round, yard, State.reset, State.cold]
  · by_cases h : row < 4
    · have key : ∀ r < 4, (round.container r).loaded = false → (round.container r).assignment = none := by
        decide +kernel
      exact key row h
    · rw [State.container, round_row row (by omega)]
      simp [Row.good, Container.unloaded]
  · rw [round_plans]
    by_cases h : row < 4
    · have key : ∀ r < 4, (round.container r).assignment = if r = 1 then some 0 else none := by
        decide +kernel
      rw [key row h]
      by_cases h1 : row = 1
      · rw [if_pos h1, Option.some.injEq]
        exact ⟨fun h => ⟨by omega, h.symm, h1⟩, fun h => h.2.1.symm⟩
      · simp only [if_neg h1]; simp [h1]
    · rw [State.container, round_row row (by omega)]
      simp [Row.good, Container.unloaded]
      intro _ _; omega
  · obtain ⟨rfl, rfl⟩ := (round_plans n row).1 h
    decide +kernel
  · rw [round_plans] at h k; omega

theorem test_StepKeepsDispatchLaw_tables :
    round.tablesCanonical = true ∧ round.stationLaw ∧ round.ringLaw ∧ round.dispatchLaw :=
  ⟨test_StepKeepsContainerLaw.1, test_StepKeepsDispatchLaw.1, test_StepKeepsDispatchLaw.2.1,
    test_StepKeepsDispatchLaw.2.2.1⟩

theorem test_restarts :
    (asking held [0x56]).Carries 7 [0x56] ∧ (asking held [0x56]).tablesCanonical = true ∧
    ((asking held [0x56]).station 1).loaded = true ∧
    ((asking held [0x56]).station 64).loaded = true ∧
    ((asking held [0x56]).station 2).loaded = false ∧
    ((asking held [0x56]).seg .a).state ≠ .down := by decide +kernel

theorem test_SecondsAndDistrictClock :
    (asking yard [0x52, 0, 1, 5, 0x9F]).Carries 7 [0x52, 0, 1, 5, 0x9F] ∧ u16 5 0x9F = 1439 ∧
    u16 5 0xA0 = 1440 ∧
    ({ yard with clock := some { day := 65535, minute := 1439, second := 59 } } : State).clock =
      some { day := 65535, minute := 1439, second := 59 } ∧ yard.clock = none ∧
    (asking yard [0x56]).Carries 7 [0x56] := by decide +kernel

theorem test_ParametersTakenToRange :
    (asking yard [0x53, 0, 9, 0, 0, 1, 0, 61]).Carries 7 [0x53, 0, 9, 0, 0, 1, 0, 61] ∧
    (asking yard [0x56]).Carries 7 [0x56] := by decide +kernel

theorem test_MalformedRequestsAnswered :
    (asking yard []).Carries 7 [] ∧ (asking yard [0x57, 1]).Carries 7 [0x57, 1] ∧
    yard.Settled ∧ (asking yard [0x56, 0]).Carries 7 [0x56, 0] := by decide +kernel

/-- A body too short for its action, each action beyond the last and a wrong length, and the counts of
LOAD CARDS where its lengths meet. -/
theorem test_MalformedRequestsAnswered_actions :
    (asking yard [0x11, 0]).Carries 7 [0x11, 0] ∧ ([0] : List Octet).length < 2 ∧
    (asking yard [0x06, 0, 4, 0]).Carries 7 [0x06, 0, 4, 0] ∧ (3 : Octet).toNat < (4 : Octet).toNat ∧
    (asking yard [0x10, 0, 1]).Carries 7 [0x10, 0, 1] ∧ (asking yard [0x11, 0, 1, 0]).Settled ∧
    (asking yard [0x11, 0, 2]).Carries 7 [0x11, 0, 2] ∧ 1 < (2 : Octet).toNat ∧
    (asking yard [0x22]).Carries 7 [0x22] ∧ (asking yard [0x22, 0]).Carries 7 [0x22, 0] ∧
    (asking yard [0x22, 9]).Carries 7 [0x22, 9] ∧ 8 < (9 : Octet).toNat ∧
    (asking yard [0x22, 8]).Carries 7 [0x22, 8] ∧ ([] : List Octet).length ≠ 10 * (8 : Octet).toNat := by
  decide +kernel

theorem test_RoutesLoadedAndFollowed :
    (asking yard [0x50, 0x10, 3]).Carries 7 [0x50, 0x10, 3] ∧
    (asking yard [0x50, 0x3F, 3]).Carries 7 [0x50, 0x3F, 3] ∧
    (asking yard [0x50, 0x0F, 3]).Carries 7 [0x50, 0x0F, 3] ∧
    (asking yard [0x50, 0x40, 3]).Carries 7 [0x50, 0x40, 3] ∧
    (asking yard [0x51, 3]).Carries 7 [0x51, 3] := by decide +kernel

/-- A relay of the first and the last kind of the table, by a route and by none, on a faulty entry, by the
unknown-kind route, and with the queue full and one short of it. -/
theorem test_RoutesLoadedAndFollowed_relays :
    let s : State := { yard with kinds := [(0x3F, Row.good 3)] }
    let x : UpRelay := { addr := 1, route := 3, kind := 0x20, payload := [] }
    s.Serving 1 ∧ (List.replicate 24 (0 : Octet)).length ≤ 24 ∧ 6 < (0x10 : Octet).toNat ∧
    (0x3F : Octet).toNat ≤ 0x3F ∧ (s.kindRow 0x3F).data ≠ 0 ∧ (s.kindRow 0x10).data = 0 ∧
    (s.kindRow 0x10).bad = false ∧
    ((after (.secondsCountAdvance [.kind 0x10 7]) s).kindRow 0x10).bad = true ∧
    (0x0F : Octet).toNat < 0x10 ∧ 0x3F < (0x40 : Octet).toNat ∧ s.mgmt.unknownRoute = 0 ∧
    ({ s with mgmt := { s.mgmt with unknownRoute := 5 } } : State).mgmt.unknownRoute ≠ 0 ∧
    (List.replicate 15 x).length < 16 ∧ ¬ (List.replicate 16 x).length < 16 :=
  ⟨serving _ (by decide +kernel), by decide +kernel⟩

theorem test_ReadStatusReports :
    (asking yard [0x54, 1]).Carries 7 [0x54, 1] ∧ (asking yard [0x54, 0]).Carries 7 [0x54, 0] := by
  decide +kernel

theorem test_FaultCaptureHeldAndRead :
    (asking yard [0x55]).Carries 7 [0x55] ∧ yard.capture = none ∧
    (yard.captureFault .card 8191).capture =
      some { table := .card, row := 8191, stamp := 0, further := 0 } := by decide +kernel

/-- The yard with a second passed in which one row of each table was upset, and a record of the Journal. -/
def upset : State :=
  after (.secondsCountAdvance [.card 0 card, .station 1 station, .container 0 bin,
      .stream 0 { loaded := true, charged := true },
      .journal 0 { seq := 1, card := 0, row := 0, units := 2, balance := 18, stamp := none }])
    (after (.segmentFrameReceived .a (stationFrame 1 0x03 [0, 0x01])) held)

theorem test_FaultyReadsCapturedAndRepaired :
    (asking upset [0x24, 0, 0]).Carries 7 [0x24, 0, 0] ∧ (upset.cardRow 0).bad = true ∧
    (asking upset [0x23, 0, 0, 0, 1, 1]).Carries 7 [0x23, 0, 0, 0, 1, 1] ∧
    (asking upset [0x03, 1]).Carries 7 [0x03, 1] ∧ upset.Settled ∧
    (upset.stationRow 1).bad = true ∧ (upset.station 1).loaded = true ∧
    (asking upset [0x30, 0, 9, 0, 0, 100, 24, 0, 100, 1]).Carries 7
      [0x30, 0, 9, 0, 0, 100, 24, 0, 100, 1] ∧ (upset.streamRow 0).bad = true ∧
    (asking upset [0x40, 8]).Carries 7 [0x40, 8] ∧ upset.journal.records.length = 1 ∧
    (upset.journal.records.map (·.bad)) = [true] := by decide +kernel

theorem test_FaultyReadsCapturedAndRepaired_container :
    let s : State := { upset with stations := [(1, Row.good station)] }
    (asking s [0x13, 0]).Carries 7 [0x13, 0] ∧ s.Settled ∧
    (s.stationRow (rowStation 0)).bad = false ∧ (s.containerRow 0).bad = true ∧
    (s.container 0).loaded = true ∧ s.depositAt 0 = none ∧ 0 ∉ s.dispatch.list ∧
    (∀ n < 16, ∀ p ∈ (s.ticket n).stops, p.row ≠ 0) := by decide +kernel

/-- The held yard with station 1 faulty, read as loaded or not. -/
def astray (loaded : Bool) : State :=
  { held with stations := [(1, { data := { station with loaded := loaded }, bad := true })] }

/-- Requests that read that Station Entry, at the ends of their ranges. -/
theorem test_FaultyReadsCapturedAndRepaired_station :
    ((astray true).stationRow 1).bad = true ∧ ((astray true).station 1).loaded = true ∧
    ((astray false).stationRow 1).bad = true ∧ ((astray false).station 1).loaded = false ∧
    (asking (astray true) [0x01, 1, 4, 0, 60, 19, 136]).Carries 7 [0x01, 1, 4, 0, 60, 19, 136] ∧
    u16 0 60 = 60 ∧ u16 19 136 = 5000 ∧
    (asking (astray true) [0x02, 1]).Carries 7 [0x02, 1] ∧
    (asking (astray true) [0x04, 1, 0xFF, 1]).Carries 7 [0x04, 1, 0xFF, 1] ∧
    (asking (astray false) [0x13, 3]).Carries 7 [0x13, 3] ∧ rowStation 3 = 1 ∧
    (asking (astray true) [0x06, 0, 2]).Carries 7 [0x06, 0, 2] ∧
    ((astray true).seg .a).polling = .running := by decide +kernel

/-- A Journal whose one record reads faulty, its count within the Journal. -/
theorem test_FaultyReadsCapturedAndRepaired_journal :
    (asking upset [0x40, 8]).Carries 7 [0x40, 8] ∧ upset.journal.records.length ≤ 1024 ∧
    answer (after .readJournal (asking upset [0x40, 8])) =
      [0x40, 0, 0, 1, 0, 0, 0, 1, 1, 0, 0, 0, 1, 2, 0, 0, 0, 0, 2, 0, 18, 0, 0, 0, 0] := by
  decide +kernel

/-- The upset yard with its stations, stream and card good: a container that reads faulty. -/
def spoilt : State :=
  { yard with containers := (0, { data := bin, bad := true }) :: yard.containers.drop 1 }

/-- The held yard with the card row of its deposit faulty. -/
def worn : State :=
  { held with cards := [(0, { data := { card with reserved := 2 }, bad := true })] }

/-- A faulty container with and without a deposit, a faulty card row, records and requests on them, and a
faulty row in the list of a pass. -/
theorem test_FaultyReadsInEvents :
    (spoilt.containerRow 0).bad = true ∧ (spoilt.container 0).loaded = true ∧
    spoilt.depositAt 0 = none ∧ (worn.cardRow 0).bad = true ∧
    (asking worn [0x22, 1, 0, 0, 1, 255, 255, 0, 0, 5, 0, 0]).Carries 7
      [0x22, 1, 0, 0, 1, 255, 255, 0, 0, 5, 0, 0] ∧
    ((parseRecords 1 [0, 0, 1, 255, 255, 0, 0, 5, 0, 0]).map fun rs => rs.all (·.inRange)) =
      some true ∧
    spoilt.Settled ∧ (asking spoilt [0x12, 0, 1]).Carries 7 [0x12, 0, 1] ∧
    (spoilt.stationRow (rowStation 0)).bad = false ∧
    (({ spoilt with tickets := [(0, ticket)] } : State).currentTicket.stops.length <
      ({ spoilt with tickets := [(0, ticket)] } : State).currentTicket.maxStops) := by
  decide +kernel

/-- At a station IN SERVICE: the four faulty rows of a presentation, a confirmation on a faulty card row,
and a deposit at a faulty container. -/
theorem test_FaultyReadsInEvents_frames :
    let stream : State := { yard with streams := [(0, ⟨{ loaded := true, charged := true }, true⟩)] }
    let named : State := { yard with series := [(0, ⟨series, true⟩)] }
    let row : State := { yard with cards := [(0, ⟨card, true⟩)] }
    let both : State := { held with containers :=
      (0, ⟨{ bin with hasPending := true }, true⟩) :: yard.containers.drop 1 }
    spoilt.Serving 1 ∧ stream.Serving 1 ∧ named.Serving 1 ∧ row.Serving 1 ∧ worn.Serving 1 ∧
    both.Serving 1 ∧ both.Holds deposit ∧
    (∀ x ∈ both.deposits.eraseP (fun x => x.row = 0), x.row ≠ 0) ∧
    (stream.streamRow 0).bad = true ∧ named.seriesFaulty (cardOf 0 0 0) = true ∧
    row.seriesFaulty (cardOf 0 0 0) = false ∧ (row.seriesOf (cardOf 0 0 0)).valid = true ∧
    cardSerial (cardOf 0 0 0) < (row.seriesOf (cardOf 0 0 0)).span ∧
    row.link.islanded = false ∧ (row.cardRow 0).bad = true ∧
    worn.depositAt 0 = some deposit ∧ (worn.container 0).loaded = true :=
  ⟨serving _ (by decide +kernel), serving _ (by decide +kernel), serving _ (by decide +kernel),
    serving _ (by decide +kernel), serving _ (by decide +kernel), serving _ (by decide +kernel),
    by decide +kernel⟩

/-- A faulty Station Entry behind a reply, a window's end and a relay, and in a send turn: the first station
to be configured, the next to be polled, and one that the search comes to from the first address. -/
theorem test_FaultyReadsInEvents_stations :
    let turn (x : Segment) : State :=
      { astray true with segA := { x with turnDue := true } }
    let first := turn { Segment.cold with cfgList := [1] }
    let next := turn Segment.cold
    let again := turn { Segment.cold with position := 32 }
    ((astray true).stationRow 1).bad = true ∧ (astray true).link.rx = .hunting ∧
    (first.seg .a).state = .up ∧ (first.seg .a).turnDue = true ∧ (first.seg .a).window = none ∧
    (first.seg .a).cfgList = [1] ∧ (next.seg .a).polling ≠ .stopped ∧
    (next.seg .a).cfgList.head? = none ∧ (next.seg .a).position < 1 ∧
    1 ≤ (again.seg .a).position ∧ (∀ b ∈ segAddrs .a, ¬ (again.seg .a).position < b) ∧
    1 ∈ segAddrs .a := by decide +kernel

theorem test_FaultyReadsInEvents_awaited : (astray true).Awaits .a 1 :=
  ⟨rfl, rfl, rfl, rfl, window 1, rfl, rfl⟩

/-- Requests on a faulty container, and UNLOAD where one reads faulty. -/
theorem test_FaultyReadsInEvents_requests :
    (asking spoilt [0x14, 0, 0xFF, 1]).Carries 7 [0x14, 0, 0xFF, 1] ∧ (spoilt.containerRow 0).bad = true ∧
    (asking spoilt [0x10, 7, 1, 0]).Carries 7 [0x10, 7, 1, 0] ∧ spoilt.Settled := by decide +kernel

/-- The least and the greatest action, direction and yes/no octet beyond the two. -/
theorem test_octets_beyond_the_two :
    (asking yard [0x10, 0, 2, 0]).Carries 7 [0x10, 0, 2, 0] ∧
    (asking yard [0x12, 0, 255]).Carries 7 [0x12, 0, 255] ∧
    (asking yard [0x14, 0, 1, 2]).Carries 7 [0x14, 0, 1, 2] ∧
    (asking yard [0x04, 1, 1, 255]).Carries 7 [0x04, 1, 1, 255] ∧
    (asking yard [0x23, 0, 0, 0, 1, 2]).Carries 7 [0x23, 0, 0, 0, 1, 2] ∧
    (asking yard [0x54, 2]).Carries 7 [0x54, 2] ∧ 1 < (2 : Octet).toNat ∧ 1 < (255 : Octet).toNat ∧
    yard.Settled := by decide +kernel

theorem test_StreamsLoadAndUnload :
    (asking yard [0x10, 7, 0, 1]).Carries 7 [0x10, 7, 0, 1] ∧
    (asking yard [0x10, 8, 0, 1]).Carries 7 [0x10, 8, 0, 1] ∧
    (asking yard [0x10, 0, 1, 9]).Carries 7 [0x10, 0, 1, 9] ∧ yard.Settled ∧
    (∀ row < 256, (yard.containerRow row).bad = false) ∧
    (∃ row < 256, (yard.container row).loaded = true ∧ (yard.container row).cfg.stream = 0) ∧
    (∀ row < 256, (yard.container row).loaded = true → (yard.container row).cfg.stream ≠ 7) := by
  decide +kernel

/-- The fields of a LOAD CONTAINER that gives the yard's configuration. -/
def fields : List Octet :=
  [0] ++ be16 1000 ++ be16 1200 ++ be16 200 ++ [60, 2, 1] ++ be16 7500 ++ be16 9000 ++ be16 500 ++
    [4] ++ be16 2000 ++ [3] ++ be16 200 ++ [0, 0xFF]

theorem test_LoadContainerWritesEntry_first :
    let s := asking yard (0x11 :: 252 :: 0 :: fields)
    s.Settled ∧ s.Carries 7 (0x11 :: 252 :: 0 :: fields) ∧
    parseConfig fields = some (config, 0) ∧ config.inRange = true ∧
    s.streamRow 0 = Row.good (s.streamRow 0).data ∧ (s.streamRow 0).data.loaded = true ∧
    s.stationRow (rowStation 252) = Row.good station ∧ rowSlot 252 < station.count ∧
    (s.containerRow 252).bad = false ∧ (s.container 252).loaded = false := by decide +kernel

/-- The same request at a faulty Station Entry. -/
theorem test_FaultyReadsCapturedAndRepaired_load :
    (asking (astray true) (0x11 :: 3 :: 0 :: fields)).Carries 7 (0x11 :: 3 :: 0 :: fields) ∧
    ((parseConfig fields).map fun p => (p.1.inRange, p.1.stream, decide (p.2.toNat ≤ 1))) =
      some (true, 0, true) ∧
    ((astray true).stationRow (rowStation (3 : Octet).toNat)).bad = true ∧
    ((astray true).streamRow 0) = { data := { loaded := true, charged := true }, bad := false } := by
  decide +kernel

/-- RANGE by the stream, STATE by the station, the slot, and the container. -/
theorem test_LoadContainerRefusals :
    let bare : State := { yard with streams := [] }
    let slots : State := { yard with stations := [(1, Row.good { station with count := 3 })] }
    (bare.streamRow 0).data.loaded = false ∧ (bare.containerRow 1).bad = false ∧
    (yard.station (rowStation 8)).loaded = false ∧
    (slots.station (rowStation 3)).count ≤ rowSlot 3 ∧
    (yard.container 1).service = .lifting ∧ (yard.container 2).service = .stalled ∧
    (asking yard (0x11 :: 1 :: 0 :: fields)).Carries 7 (0x11 :: 1 :: 0 :: fields) ∧
    yard.stationRow (rowStation 1) = Row.good station ∧ yard.Settled := by decide +kernel

theorem test_LoadContainerWritesEntry_reload :
    let s := asking yard (0x11 :: 0 :: 0 :: fields)
    s.Settled ∧ s.Carries 7 (0x11 :: 0 :: 0 :: fields) ∧ parseConfig fields = some (config, 0) ∧
    (s.streamRow 0).bad = false ∧ (s.streamRow 0).data.loaded = true ∧
    s.stationRow (rowStation 0) = Row.good station ∧ rowSlot 0 < station.count ∧
    (s.containerRow 0).bad = false ∧ (s.container 0).loaded = true ∧
    (s.container 0).service = .inService ∧ (s.container 3).service = .outOfService ∧
    (s.container 0).assignment = none ∧ s.depositAt 0 = none ∧
    (s.container 0).estimate = some 5000 ∧ (s.container 0).cfg.depth = config.depth ∧
    (s.container 0).cfg.deadZone = config.deadZone ∧
    (s.container 0).cfg.capacity = config.capacity := by decide +kernel

/-- The same with a deposit held, while RUNNING. -/
theorem test_LoadContainerWritesEntry_held :
    let s : State := { held with tickets := [(0, ticket)] }
    s.running = true ∧ s.depositAt 0 = some deposit ∧ s.Holds deposit ∧
    (s.container 0).assignment = none ∧ (s.container 0).service = .inService := by decide +kernel

/-- The same with a deeper shaft. -/
theorem test_LoadContainerWritesEntry_geometry :
    let deeper := [0] ++ be16 1000 ++ be16 1300 ++ fields.drop 5
    parseConfig deeper = some ({ config with depth := 1300 }, 0) ∧
    ({ config with depth := 1300 } : ContainerConfig).inRange = true := by decide +kernel

theorem test_UnloadClearsRow :
    (asking held [0x11, 0, 1]).Settled ∧ (asking held [0x11, 0, 1]).Carries 7 [0x11, 0, 1] ∧
    (held.containerRow 0).bad = false ∧ (held.container 0).assignment = none ∧
    (held.container 0).service ≠ .lifting ∧ (held.container 0).loaded = true ∧
    (held.container 255).loaded = false ∧ (held.container 255).service ≠ .lifting ∧
    (held.container 1).service = .lifting := by decide +kernel

theorem test_ServiceOutAndIn :
    (asking held [0x12, 0, 0]).Settled ∧ (asking held [0x12, 0, 0]).Carries 7 [0x12, 0, 0] ∧
    (held.container 0).loaded = true ∧ (held.containerRow 0).bad = false ∧
    (asking yard [0x12, 3, 1]).Carries 7 [0x12, 3, 1] ∧ (yard.container 3).loaded = true ∧
    (yard.container 3).service = .outOfService ∧ (yard.container 3).estimate = none ∧
    3 ∉ yard.dispatch.list ∧ (yard.container 0).service ≠ .outOfService ∧
    (yard.container 255).loaded = false ∧ held.depositAt 0 = some deposit ∧ held.Holds deposit ∧
    (round.container 1).assignment = some 0 ∧ (round.container 1).loaded = true := by
  decide +kernel

/-- A container that is the last PLANNED stop of a HANDED ticket. -/
theorem test_ServiceOutAndIn_handed :
    (asking handed [0x12, 1, 0]).Carries 7 [0x12, 1, 0] ∧ (handed.container 1).assignment = some 0 ∧
    (handed.ticket 0).state = .handed ∧ (∀ p ∈ endStop 1 .skipped none (handed.ticket 0).stops, p.status ≠ .planned) ∧
    handed.depositAt 1 = none ∧ (handed.containerRow 1).bad = false ∧
    (handed.container 1).loaded = true ∧ handed.Settled := by decide +kernel

theorem test_FlagsAreCleared :
    (asking yard [0x14, 0, 1, 0]).Settled ∧
    (asking yard [0x14, 0, 1, 0]).Carries 7 [0x14, 0, 1, 0] ∧
    (yard.containerRow 0).bad = false ∧ (yard.container 0).loaded = true ∧
    (yard.container 255).loaded = false ∧
    (asking yard [0x04, 64, 1, 1]).Carries 7 [0x04, 64, 1, 1] ∧
    (yard.station 64).loaded = true ∧ (yard.stationRow 64).bad = false ∧
    (yard.station 2).loaded = false ∧
    (asking yard [0x04, 65, 1, 1]).Carries 7 [0x04, 65, 1, 1] := by decide +kernel

theorem test_SeriesAndWindowLoaded :
    (asking yard [0x20, 254, 0, 1, 1, 0x1F, 0xFF, 0, 1]).Carries 7
      [0x20, 254, 0, 1, 1, 0x1F, 0xFF, 0, 1] ∧
    u16 0x1F 0xFF = 8191 ∧ u16 0x1F 0xFF + u16 0 1 = 8192 ∧ u16 0x20 0 = 8192 ∧
    (asking yard [0x20, 255, 0, 1, 1, 0, 0, 0, 1]).Carries 7 [0x20, 255, 0, 1, 1, 0, 0, 0, 1] ∧
    series.barred = false ∧ 99 < series.span ∧
    (asking yard [0x21, 0, 0, 0x20, 0, 1]).Carries 7 [0x21, 0, 0, 0x20, 0, 1] ∧
    (asking yard [0x21, 0, 0, 0, 0, 1]).Carries 7 [0x21, 0, 0, 0, 0, 1] := by decide +kernel

/-- A record for row 0, in the octets of LOAD CARDS: EMPTY, or ACTIVE with a balance of -255. -/
theorem test_CardRowsLoadedAndAdjusted_records :
    let good : List Octet := [0, 0, 1, 255, 255, 0xFF, 0x01, 5, 0, 0]
    let beyond : List Octet := [0x20, 0, 1, 255, 255, 0, 0, 5, 0, 0]
    let emptying : List Octet := [0, 0, 0, 255, 255, 0, 0, 5, 0, 0]
    (asking held (0x22 :: 2 :: (good ++ beyond))).Carries 7 (0x22 :: 2 :: (good ++ beyond)) ∧
    ((parseRecords 2 (good ++ beyond)).map fun rs => rs.map fun r => (r.row, r.balance)) =
      some [(0, -255), (8192, 0)] ∧
    ((parseRecords 1 emptying).map fun rs => rs.map fun r => (r.row, r.state.toNat)) =
      some [(0, 0)] ∧
    (held.cardRow 0).bad = false ∧ (held.card 0).reserved = 2 := by decide +kernel

theorem test_CardRowsLoadedAndAdjusted_amounts :
    (asking yard [0x23, 0, 0, 0x80, 0, 1]).Carries 7 [0x23, 0, 0, 0x80, 0, 1] ∧
    (asking yard [0x23, 0x20, 0, 0, 0, 0]).Carries 7 [0x23, 0x20, 0, 0, 0, 0] ∧
    (yard.cardRow 0).bad = false ∧ (yard.card 0).state ≠ .empty ∧
    (yard.cardRow 8191).bad = false ∧ (yard.card 8191).state = .empty := by decide +kernel

/-- A row that each read finds, and one that it refuses or finds unloaded. -/
theorem test_ReadsChangeNothing :
    (asking round [0x13, 0]).Carries 7 [0x13, 0] ∧ round.Settled ∧
    (round.containerRow 0).bad = false ∧ (round.stationRow (rowStation 0)).bad = false ∧
    (round.container 0).loaded = true ∧ (round.container 255).loaded = false ∧
    (asking round [0x03, 64]).Carries 7 [0x03, 64] ∧ (round.station 64).loaded = true ∧
    (round.station 2).loaded = false ∧ (round.stationRow 64).bad = false ∧
    (asking round [0x03, 65]).Carries 7 [0x03, 65] ∧
    (asking round [0x24, 0x1F, 0xFF]).Carries 7 [0x24, 0x1F, 0xFF] ∧
    (round.cardRow 8191).bad = false ∧
    (asking round [0x24, 0x20, 0]).Carries 7 [0x24, 0x20, 0] ∧
    (asking round [0x33, 0]).Carries 7 [0x33, 0] ∧ (round.ticket 0).state ≠ .free ∧
    (round.ticket 15).state = .free ∧ (asking round [0x33, 16]).Carries 7 [0x33, 16] ∧
    (asking round [0x40, 8]).Carries 7 [0x40, 8] ∧
    (∀ r ∈ round.journal.records.take 8, r.bad = false) ∧
    (asking round [0x40, 9]).Carries 7 [0x40, 9] := by decide +kernel

/-- Taken while RUNNING and while SUSPENDED, refused for a stream not loaded and for a slot in use. -/
theorem test_GiveTicketTakesSlot :
    let give : List Octet := [0x30, 0, 9, 0, 0, 100, 24, 0, 100, 1]
    (asking round give).Settled ∧ (asking round give).Carries 7 give ∧ round.running = true ∧
    (round.streamRow 0).bad = false ∧ (round.streamRow 0).data.loaded = true ∧
    (round.ticket round.dispatch.fillIndex).state = .free ∧
    (asking yard give).Carries 7 give ∧ yard.running = false ∧
    yard.dispatch.dispatchIndex = yard.dispatch.fillIndex ∧ yard.dispatch.list = [] ∧
    u16 0 100 ≤ u16 0 100 ∧ 1 ≤ (1 : Octet).toNat ∧ u16 0 100 < u16 0 101 ∧
    (yard.ticket 1).state ≠ .opened ∧
    (yard.ticket yard.dispatch.fillIndex).state = .free ∧
    (yard.streamRow 7).data.loaded = false ∧
    (({ round with dispatch := { round.dispatch with fillIndex := 0 } } : State).ticket 0).state ≠
      .free := by decide +kernel

theorem test_RecallTicketSkipsStops :
    (asking handed [0x31, 0]).Settled ∧ (asking handed [0x31, 0]).Carries 7 [0x31, 0] ∧
    (handed.ticket 0).state = .handed ∧ handed.running = false ∧
    (handed.ticket 1).state = .free ∧ (asking handed [0x31, 16]).Carries 7 [0x31, 16] := by
  decide +kernel

/-- The current ticket, with nothing planned and no other OPEN. -/
theorem test_RecallTicketSkipsStops_current :
    let s : State := { round with tickets := [(0, { ticket with stops := [] })] }
    s.running = true ∧ s.dispatch.dispatchIndex = 0 ∧ s.dispatch.fillIndex < 16 ∧
    ((s.ticket 0).stops.filter fun p => p.status = .planned) = [] ∧
    ∀ m, m ≠ 0 → (s.ticket m).state ≠ .opened := by
  refine ⟨by decide +kernel, by decide, by decide, by decide +kernel, fun m h => ?_⟩
  simp [State.ticket, Table.get, h, Ticket.free]

/-- The current ticket with a PLANNED stop, and the ring behind it: an OPEN ticket at the next slot, or
the fill index. -/
theorem test_RecallTicketSkipsStops_running :
    let s : State := { round with tickets := [(0, ticket), (1, { ticket with stops := [] })] }
    s.running = true ∧ s.dispatch.dispatchIndex = 0 ∧ (s.ticket 0).state = .opened ∧
    ((s.ticket 0).stops.filter fun p => p.status = .planned) ≠ [] ∧
    (s.ticket ((0 + 1) % 16)).state = .opened ∧ round.running = true ∧
    (round.ticket ((0 + 1) % 16)).state ≠ .opened ∧ (0 + 1) % 16 = round.dispatch.fillIndex := by
  decide +kernel

theorem test_RetireTicketFreesSlot :
    let s : State := { round with tickets := [(15, { ticket with state := .complete })] }
    (asking s [0x32, 15]).Carries 7 [0x32, 15] ∧ (s.ticket 15).state = .complete ∧
    (s.ticket 0).state ≠ .complete ∧ (asking s [0x32, 16]).Carries 7 [0x32, 16] := by decide +kernel

/-- At the second of the expiry, one before it, and with no ticket current. -/
theorem test_HoldExpiryHandsBack :
    let s : State := { round with seconds := 60 }
    s.Settled ∧ s.running = true ∧ s.currentTicket.hold = 1 ∧ s.currentTicket.holdStart = some 0 ∧
    (s.seconds - (0 + BitVec.ofNat 32 (1 * 60))).toNat < 2147483648 ∧
    2147483648 ≤ (59 - (0 + BitVec.ofNat 32 (1 * 60)) : Word32).toNat ∧
    yard.running = false := by decide +kernel

/-- The index comes to rest at the fill index one slot on, with the ticket OPEN there or not, and goes
round a full ring. -/
theorem test_HoldExpiryHandsBack_rests :
    let behind : State := { round with tickets := [(0, ticket), (1, ticket)] }
    let around : State := { round with dispatch := { round.dispatch with fillIndex := 0 } }
    round.dispatch.dispatchIndex < 16 ∧ (0 + 1) % 16 = round.dispatch.fillIndex ∧
    (behind.ticket 1).state = .opened ∧ (0 + 16) % 16 = around.dispatch.fillIndex ∧
    (∀ i, 1 ≤ i → i < 16 → (0 + i) % 16 ≠ around.dispatch.fillIndex) := by
  refine ⟨by decide, by decide, by decide +kernel, by decide, fun i h1 h2 => ?_⟩
  show (0 + i) % 16 ≠ 0
  omega

/-- A telling of a container outside the list that meets the conditions and one that does not, and of one
in it that stays, moves and leaves. -/
theorem test_TellingKeepsList :
    let full : Container := { bin with estimate := some 9500, fill := .full }
    let s : State := { yard with containers := [(0, Row.good full), (1, Row.good bin)] }
    let listed : State := { s with dispatch := { s.dispatch with list := [0, 1] } }
    0 ∉ s.dispatch.list ∧ (s.container 0).eligible = true ∧ (s.container 1).eligible = false ∧
    0 ∈ listed.dispatch.list ∧ 1 ∈ listed.dispatch.list ∧ listed.running = false ∧
    (s.container 0).estimate ≠ bin.estimate ∧ (s.container 0).fill ≠ bin.fill := by decide +kernel

/-- A volume that fits, and a stream that does not; a ticket whose stops are full. -/
theorem test_PassAssignsFirstFit :
    (round.containerRow 0).bad = false ∧
    (round.ticket 0).stops.length < (round.ticket 0).maxStops ∧
    (round.container 0).cfg.stream = (round.ticket 0).stream ∧
    (round.ticket 0).minVolume ≤ (5000 * config.capacity + 9999) / 10000 ∧
    (5000 * config.capacity + 9999) / 10000 ≤ (round.ticket 0).remaining ∧
    config.stream ≠ ({ ticket with stream := 7 } : Ticket).stream ∧
    ({ ticket with maxStops := 1 } : Ticket).maxStops ≤ ticket.stops.length := by decide +kernel

/-- Distances of 0, 1 and 2 of one record, and the two ends of those beyond. -/
theorem test_ReleaseJournalDropsRecords :
    let t := after (.segmentFrameReceived .a (stationFrame 1 0x03 [0, 0x01])) held
    (asking t [0x41, 0, 0, 0, 1]).Carries 7 [0x41, 0, 0, 0, 1] ∧ t.journal.counter = 1 ∧
    t.journal.records.length = 1 ∧ (1 - 1 : Word32).toNat = 0 ∧ (1 - 0 : Word32).toNat = 1 ∧
    (1 - 0x80000002 : Word32).toNat = 2147483647 ∧
    (1 - 0x80000001 : Word32).toNat = 2147483648 ∧
    (asking t [0x41, 0x80, 0, 0, 1]).Carries 7 [0x41, 0x80, 0, 0, 1] := by decide +kernel

/-- The ends of the ranges; slots beyond a new count that hold containers, and none. -/
theorem test_StationsLoadedAndRemoved_load :
    (asking yard [0x01, 64, 4, 0, 60, 1, 0xF4]).Settled ∧
    (asking yard [0x01, 64, 4, 0, 60, 1, 0xF4]).Carries 7 [0x01, 64, 4, 0, 60, 1, 0xF4] ∧
    u16 0 60 = 60 ∧ u16 1 0xF4 = 500 ∧ (yard.stationRow 64).bad = false ∧
    (asking yard [0x01, 1, 3, 14, 16, 19, 136]).Carries 7 [0x01, 1, 3, 14, 16, 19, 136] ∧
    u16 14 16 = 3600 ∧ u16 19 136 = 5000 ∧ (yard.station 1).loaded = true ∧
    (yard.container (rowOf 1 3)).loaded = true ∧
    (asking yard [0x01, 65, 4, 0, 60, 1, 0xF4]).Carries 7 [0x01, 65, 4, 0, 60, 1, 0xF4] := by
  decide +kernel

theorem test_StationsLoadedAndRemoved_remove :
    (asking held [0x02, 1]).Settled ∧ (asking held [0x02, 1]).Carries 7 [0x02, 1] ∧
    (held.stationRow 1).bad = false ∧ (held.station 1).loaded = true ∧
    (held.station 2).loaded = false ∧ (asking held [0x02, 64]).Carries 7 [0x02, 64] ∧
    (asking held [0x02, 65]).Carries 7 [0x02, 65] := by decide +kernel

theorem test_StationsLoadedAndRemoved_cards :
    held.depositLaw ∧ ∀ d ∈ held.deposits, d.row / 4 + 1 = 1 → (held.cardRow d.cardRow).bad = false :=
  ⟨held_depositLaw, by decide +kernel⟩

theorem test_StationsLoadedAndRemoved_stops :
    (asking round [0x02, 1]).Carries 7 [0x02, 1] ∧ (round.container 1).loaded = true ∧
    (round.container 1).assignment = some 0 ∧ round.deposits = [] ∧ (asking round [0x02, 1]).dispatchLaw :=
  ⟨rfl, by decide +kernel, by decide +kernel, rfl, test_StepKeepsDispatchLaw.2.2.1⟩

theorem test_SetSegmentWhileStopped :
    let s : State := { yard with segB := { Segment.cold with polling := .stopped } }
    (asking s [0x05, 1, 0x25, 0x80, 5]).Carries 7 [0x05, 1, 0x25, 0x80, 5] ∧
    u16 0x25 0x80 = 9600 ∧ u16 0x96 0 = 38400 ∧ (s.seg .b).polling = .stopped ∧
    (s.seg .a).polling ≠ .stopped ∧
    (asking s [0x05, 0, 0x96, 0, 251]).Carries 7 [0x05, 0, 0x96, 0, 251] := by decide +kernel

/-- An open window, an idle segment, a segment without stations, and codes beyond the last. -/
theorem test_PollControlActions :
    (asking yard [0x06, 0, 2]).Settled ∧ (asking yard [0x06, 0, 2]).Carries 7 [0x06, 0, 2] ∧
    (∀ a ∈ segAddrs .a, (yard.stationRow a).bad = false) ∧ (yard.seg .a).window.isSome = true ∧
    (yard.seg .a).polling = .running ∧ (yard.seg .b).window = none ∧
    (∃ a ∈ segAddrs .b, (yard.station a).state ≠ .absent ∧ (yard.station a).state ≠ .cutOff) ∧
    (¬ ∃ a ∈ segAddrs .b, (State.reset.station a).state ≠ .absent ∧
      (State.reset.station a).state ≠ .cutOff) ∧
    (asking yard [0x06, 2, 0]).Carries 7 [0x06, 2, 0] ∧
    (asking yard [0x06, 0, 4]).Carries 7 [0x06, 0, 4] := by decide +kernel

theorem worn_depositLaw : worn.depositLaw := by
  refine ⟨by decide, by decide, by decide, fun row hb => ?_⟩
  by_cases h : row = 0
  · subst h; exact absurd hb (by decide)
  · have h1 : worn.card row = CardRow.cold := by
      simp [State.card, State.cardRow, worn, Table.get, h, Row.good]
    have h2 : unitsNaming worn.deposits row = 0 := by
      simp [unitsNaming, worn, held, deposit, Ne.symm h]
    rw [h1, h2]; rfl

/-- A deposit that is due, on a Card Row that reads good and on one that reads faulty. -/
theorem test_PendingExpiryReleases :
    held.Settled ∧ held.depositLaw ∧ (held.cardRow 0).bad = false ∧
    worn.Settled ∧ worn.depositLaw ∧ (worn.cardRow 0).bad = true ∧
    (held.seconds - deposit.expiry).toNat < 2147483648 :=
  ⟨by decide, held_depositLaw, by decide +kernel, by decide, worn_depositLaw, by decide +kernel,
    by decide⟩

/-- A first and a second expiry that are due, and rows where they are not. -/
theorem test_LiftTimerExpires :
    yard.Settled ∧ (yard.containerRow 1).bad = false ∧ (yard.container 1).loaded = true ∧
    (yard.container 1).service = .lifting ∧ (yard.container 1).liftStage = .first ∧
    (yard.container 1).liftTimer = some 0 ∧ (yard.container 2).service = .stalled ∧
    (yard.container 2).liftStage = .second ∧ (yard.container 2).liftTimer = some 0 ∧
    2 ∉ yard.dispatch.list ∧ (yard.container 2).assignment = none ∧
    (round.container 1).assignment = some 0 ∧ (yard.container 0).liftTimer = none := by
  decide +kernel

/-- A faulty entry whose timer, as found, has run out, and one whose timer is stopped. -/
theorem test_LiftTimerExpires_faulty :
    let s : State := { yard with containers :=
      [(0, { data := { bin with liftTimer := some 0 }, bad := true }), (1, { data := bin, bad := true })] }
    s.Settled ∧ (s.containerRow 0).bad = true ∧ (s.containerRow 1).bad = true ∧
    (s.container 0).liftTimer = some 0 ∧ (s.seconds - 0 : Word32).toNat < 2147483648 ∧
    (s.container 1).liftTimer = none := by decide +kernel

theorem test_LinkTimersExpire :
    State.reset.link.supervision = some 300 ∧
    2147483648 ≤ (State.reset.seconds - 300).toNat ∧ (300 - 300 : Word32).toNat < 2147483648 ∧
    State.reset.link.islanded = false ∧ State.reset.notices.coalescing = some 10 ∧
    2147483648 ≤ (9 - 10 : Word32).toNat ∧ (10 - 10 : Word32).toNat < 2147483648 := by decide +kernel

/-- A wrong check, routes that are none, and a request taken, queued behind three, and lost behind four. -/
theorem test_DownlinkFramesRouted :
    let r : Request := { tag := 1, body := [0x54, 1] }
    yard.Settled ∧ yard.link.rx = .hunting ∧ (List.replicate 256 (0 : Octet)).length ≤ 256 ∧
    ([0, 0] : List Octet) ≠
      be16 (checkSequence (be16 (2 + 3) ++ [0, 1, 7] ++ [0x54, 1])).toNat ∧
    ¬ ((1 : Octet) = 4 ∧ 1 ≤ (65 : Octet).toNat ∧ (65 : Octet).toNat ≤ 64) ∧
    yard.mgmt.taken = none ∧ yard.mgmt.reply = none ∧ yard.link.requests = [] ∧
    (asking yard [0x55]).mgmt.taken.isSome = true ∧ [r, r, r].length < 4 ∧
    4 ≤ [r, r, r, r].length := by decide +kernel

/-- Lengths on either side of 3 to 259, and the first and the last octet of a frame of an empty body. -/
theorem test_DownlinkFramesRouted_errors :
    u16 0 2 < 3 ∧ 259 < u16 1 4 ∧ ¬ (u16 0 3 < 3 ∨ 259 < u16 0 3) ∧
    ¬ (u16 1 3 < 3 ∨ 259 < u16 1 3) ∧ 0 < ([] : List Octet).length + 7 ∧
    6 < ([] : List Octet).length + 7 := by decide

theorem test_DownlinkRelaysTested :
    let d : DownRelay := { addr := 64, kind := 0x20, payload := [] }
    yard.Settled ∧ yard.link.rx = .hunting ∧ (yard.stationRow 64).bad = false ∧
    (yard.station 64).state = .inService ∧ (yard.seg (segOf 64)).relays.length < 8 ∧
    (List.replicate 24 (0 : Octet)).length ≤ 24 ∧ 25 < (List.replicate 26 (0 : Octet)).length ∧
    (yard.station 2).state ≠ .inService ∧ (List.replicate 7 d).length < 8 ∧
    8 ≤ (List.replicate 8 d).length := by decide +kernel

/-- A reply with and without a request behind it, a due batch, a relay frame, and nothing to send. -/
theorem test_UplinkArbiterOrder :
    let t := after .readFaultCapture (asking yard [0x55])
    let r : Request := { tag := 1, body := [0x54, 1] }
    let quiet : State := { yard with notices := { yard.notices with queue := [] } }
    let x : UpRelay := { addr := 1, route := 3, kind := 0x20, payload := [] }
    t.mgmt.reply.isSome = true ∧ t.mgmt.taken = none ∧ t.link.requests = [] ∧
    ({ t.link with requests := [r] } : Link).requests = [r] ∧
    yard.mgmt.reply = none ∧ (∃ n ∈ yard.notices.queue, n.kind.cls ≠ .status) ∧
    quiet.mgmt.reply = none ∧ quiet.notices.queue = [] ∧ quiet.link.relays = [] ∧
    ({ quiet.link with relays := [x] } : Link).relays = [x] := by decide +kernel

/-- No window, another's window, a spoiled frame in an open window, and the reply. -/
theorem test_SegmentFramesFindTheirWindow :
    yard.Serving 1 ∧ (yard.seg .b).state = .up ∧ (yard.seg .b).pollOut = none ∧
    (yard.seg .b).atSpace = false ∧ (yard.seg .b).rx = none ∧ (yard.seg .b).window = none ∧
    (yard.seg .a).window = some (window 1) ∧ (window 1).addr ≠ 2 ∧ (window 1).heldOpen = false ∧
    ([0, 0] : List Octet) ≠ be16 (checkSequence ([1, 0, octet 0] ++ [])).toNat :=
  ⟨serving yard (by decide +kernel), by decide +kernel⟩

/-- A window held open, and a frame of another address, too long, or cut after one character or before the
last. -/
theorem test_SegmentFramesFindTheirWindow_held :
    let s : State := { yard with segA := { Segment.cold with window := some { window 1 with heldOpen := true } } }
    (s.seg .a).state = .up ∧ (s.seg .a).pollOut = none ∧ (s.seg .a).atSpace = false ∧
    (s.seg .a).rx = none ∧ (s.seg .a).window = some { window 1 with heldOpen := true } ∧
    (window 1).addr ≠ 2 ∧ 24 < (25 : Octet).toNat ∧ 1 < ([] : List Octet).length + 5 ∧
    4 < ([] : List Octet).length + 5 ∧ (yard.seg .a).window.any (·.heldOpen) = false := by decide +kernel

/-- A station in each of its states, awaited. -/
theorem test_RepliesMoveStations :
    let as (e : Station) : State := { yard with stations := [(1, Row.good e)] }
    yard.Awaits .a 1 ∧ yard.Settled ∧ (yard.stationRow 1).bad = false ∧
    ((as { station with state := .unconfigured }).station 1).state = .unconfigured ∧
    ((as { station with state := .silent }).station 1).state = .silent ∧
    ((as { station with state := .configuring, awaiting := true }).station 1).awaiting = true ∧
    ((as { station with state := .configuring, attempts := 2 }).station 1).attempts < 3 ∧
    3 ≤ ((as { station with state := .configuring, attempts := 3 }).station 1).attempts ∧
    (∀ d ∈ yard.deposits, rowStation d.row ≠ 1) ∧
    ((as { station with state := .cutOff }).station 1).state = .cutOff ∧
    ((as Station.cold).station 1).state = .absent :=
  ⟨(serving yard (by decide +kernel)).2.2.2.1, by decide +kernel⟩

/-- A station IN SERVICE whose container holds a deposit, and malformed payloads at both ends of the
kinds. -/
theorem test_RepliesMoveStations_serving :
    held.Awaits .a 1 ∧ held.Settled ∧ (held.stationRow 1).bad = false ∧ held.depositLaw ∧
    (held.station 1).state = .inService ∧
    (held.deposits.filter fun d => d.row / 4 + 1 = 1) = [deposit] ∧
    (held.cardRow deposit.cardRow).bad = false ∧
    (∀ p ∈ [(0, 1), (6, 24)], p ∉ [(0, 0), (1, 2), (2, 4), (3, 2), (4, 4), (5, 1), (6, 3)]) :=
  ⟨⟨rfl, rfl, rfl, rfl, window 1, rfl, rfl⟩, rfl, by decide +kernel, held_depositLaw,
    by decide +kernel, by decide +kernel, by decide +kernel, by decide⟩

/-- A kind that the table has not, and a PRESENTATION, are not malformed. -/
theorem test_RepliesMoveStations_stray :
    ¬ (0x20 : Octet).toNat ≤ 6 ∧
    (2, 4) ∈ [(0, 0), (1, 2), (2, 4), (3, 2), (4, 4), (5, 1), (6, 3)] := by decide

/-- The reads of a presentation at slot 0 are good, and the slots of a station of three stop there. -/
theorem test_PresentationDecidedInOrder :
    yard.Serving 1 ∧ (0 : Octet).toNat < (yard.station 1).count ∧ yard.depositAt 0 = none ∧
    (yard.containerRow 0).bad = false ∧ (yard.streamRow 0).bad = false ∧
    yard.seriesFaulty (cardOf 0 0 0) = false ∧ (yard.cardRow 0).bad = false ∧
    0 < (yard.container 0).cfg.capacity ∧
    ({ station with count := 3 } : Station).count ≤ (3 : Octet).toNat :=
  ⟨serving yard (by decide +kernel), by decide +kernel⟩

/-- A row that is not loaded, and one that is OUT OF SERVICE. -/
theorem test_PresentationDecidedInOrder_closed :
    let s : State := { yard with containers := yard.containers.drop 1 }
    s.Serving 1 ∧ (s.containerRow 0).bad = false ∧ (s.container 0).loaded = false ∧
    (s.container 0).cfg.capacity = 0 ∧ (s.container 0).estimate = none ∧
    (s.container 3).service ≠ .inService ∧ s.depositAt 0 = none ∧ s.depositAt 3 = none :=
  ⟨serving _ (by decide +kernel), by decide +kernel⟩

/-- None of the checks fails for that card; for one that is lost the check of the card does. -/
theorem test_PresentationDecidedInOrder_outcomes :
    let presents (s : State) :=
      (after (.segmentFrameReceived .a (stationFrame 1 0x02 [0, 0, 0, 0])) s).segA.answers
    presents yard = [{ addr := 1, slot := 0, body := .grant 2 18 }] ∧
    presents { yard with cards := [(0, Row.good { card with state := .lost })] } =
      [{ addr := 1, slot := 0, body := .refuse .cardLost }] ∧
    presents { yard with cards := [(0, Row.good { card with balance := -4 })] } =
      [{ addr := 1, slot := 0, body := .refuse .noAllowance }] := by decide +kernel

theorem held_holds : held.Holds deposit := by decide +kernel

theorem test_DepositsOverrunAndConfirmed :
    held.Serving 1 ∧ held.Holds deposit ∧ deposit.row = rowOf 1 0 ∧ held.depositLaw ∧
    (held.container 0).loaded = true ∧ yard.Serving 1 ∧ yard.depositAt (rowOf 1 3) = none ∧
    (yard.container 3).loaded = true :=
  ⟨serving held (by decide +kernel), held_holds, by decide, held_depositLaw, by decide +kernel,
    serving yard (by decide +kernel), by decide +kernel, by decide +kernel⟩

/-- With a deposit and without one; IN SERVICE with an estimate, and LIFTING. -/
theorem test_DepositedConfirmationCommits :
    held.Serving 1 ∧ (∀ d, held.depositAt 0 = some d → held.Holds d) ∧
    0 < (held.container 0).cfg.capacity ∧ (held.container 0).estimate = some 5000 ∧
    (held.container 0).service = .inService ∧ held.depositAt 1 = none ∧
    (held.container 1).service ≠ .inService ∧ (held.container 1).loaded = true := by
  refine ⟨serving held (by decide +kernel), fun d h => ?_, by decide +kernel⟩
  have h' : held.depositAt 0 = some deposit := held_holds.1
  rw [h', Option.some.injEq] at h
  exact h ▸ held_holds

/-- The quality at and below the minimum; no estimate, a spike, its confirmation and a filter step. -/
theorem test_SamplesMoveEstimate :
    yard.Serving 1 ∧ (yard.containerRow 0).bad = false ∧ (yard.container 0).service = .inService ∧
    min (2 : Octet).toNat 15 < config.qualityMin ∧ config.qualityMin ≤ min (3 : Octet).toNat 15 ∧
    config.deadZone < config.depth ∧ config.gain ≤ 16 ∧
    (∀ e, (yard.container 0).estimate = some e → e ≤ 10000) ∧
    config.spikeLimit < (((measuredFill config 200 : Nat) : Int) - 5000).natAbs ∧
    (((measuredFill config 400 : Nat) : Int) - 5000).natAbs > config.spikeLimit ∧
    (((measuredFill config 600 : Nat) : Int) - 5000).natAbs ≤ config.spikeLimit ∧
    (yard.container 255).loaded = false ∧ (yard.container 1).service ≠ .inService := by
  refine ⟨serving yard (by decide +kernel), by decide +kernel, by decide +kernel, by decide,
    by decide, by decide, by decide, fun e h => ?_, by decide +kernel⟩
  have h' : (yard.container 0).estimate = some 5000 := by decide +kernel
  rw [h', Option.some.injEq] at h
  omega

theorem test_LiftReportsTaken :
    yard.Serving 1 ∧ held.Serving 1 ∧ round.Serving 1 ∧ held.Holds deposit ∧
    (yard.container 0).service = .inService ∧ yard.depositAt 0 = none ∧
    (yard.container 1).service = .lifting ∧ (yard.container 2).service = .stalled ∧
    (yard.container 3).service = .outOfService ∧ 1 ∉ round.dispatch.list ∧
    config.residue ≤ 10000 ∧ config.residue + config.hysteresis < config.warn ∧ config.warn < config.full ∧
    (yard.container 1).assignment = none ∧ (round.container 1).assignment = some 0 :=
  ⟨serving yard (by decide +kernel), serving held (by decide +kernel),
    serving round (by decide +kernel), held_holds, by decide +kernel⟩

/-- A slot that the station has not, at a row that reads good and at one that reads faulty: the fault is
captured before the report is discarded. -/
theorem test_LiftReportsTaken_beyond :
    let s : State := { yard with stations := [(1, Row.good { station with count := 3 })] }
    let u : State := { s with containers := [(3, { data := bin, bad := true })] }
    s.Serving 1 ∧ u.Serving 1 ∧ (s.station 1).count ≤ (3 : Octet).toNat ∧
    (s.containerRow (rowOf 1 3)).bad = false ∧ (u.containerRow (rowOf 1 3)).bad = true ∧
    ((after (.segmentFrameReceived .a (stationFrame 1 0x05 [3])) u).capture.map (·.row)) = some 3 ∧
    ((after (.segmentFrameReceived .a (stationFrame 1 0x05 [3])) u).station 1).discarded = 1 :=
  ⟨serving _ (by decide +kernel), serving _ (by decide +kernel), by decide +kernel⟩

/-- A LIFT END at a listed container that holds a deposit. -/
theorem test_LiftReportsTaken_held :
    let s : State := { held with
      containers := (0, Row.good { bin with hasPending := true, estimate := some 8500, fill := .full }) ::
        yard.containers.drop 1
      dispatch := { held.dispatch with list := [0] } }
    s.Serving 1 ∧ s.Holds deposit ∧ deposit.row = rowOf 1 0 ∧ (s.container 0).loaded = true ∧
    (s.container 0).service = .inService ∧ 0 ∈ s.dispatch.list ∧ (s.container 0).fill = .full :=
  ⟨serving _ (by decide +kernel), by decide +kernel⟩

/-- A window and none, a frame in progress, misses of 1 and 2, a segment that is UP and not. -/
theorem test_WindowsCloseAsMisses :
    yard.Settled ∧ (yard.seg .a).window = some (window 1) ∧ (yard.seg .a).rx = none ∧
    1 ∈ segAddrs .a ∧ (yard.stationRow 1).bad = false ∧ 2 ≤ (yard.station 1).misses ∧
    ({ station with misses := 1 } : Station).misses < 2 ∧ (yard.seg .b).window = none ∧
    (yard.seg .a).state = .up ∧ (yard.seg .a).pollOut = none ∧
    (yard.seg .a).lowMeasured = false ∧
    ({ Segment.cold with rx := some [1] } : Segment).rx.isSome = true ∧
    (window 1).heldOpen = false := by decide +kernel

/-- A window held open for the frame in progress, at a line that goes low and in a break that ends. -/
theorem test_WindowsCloseAsMisses_held :
    let x : Segment := { Segment.cold with rx := some [1], window := some { window 1 with heldOpen := true } }
    x.state = .up ∧ x.pollOut = none ∧ x.lowMeasured = false ∧ x.rx.isSome = true ∧
    x.window = some { window 1 with heldOpen := true } := by decide +kernel

theorem test_SegmentsGoDownAndComeBack :
    let low : Segment := { Segment.cold with atSpace := true, lowMeasured := true }
    low.state = .up ∧ low.pollOut = none ∧
    ({ Segment.cold with state := .down } : Segment).state = .down ∧
    ({ Segment.cold with state := .restoring } : Segment).state = .restoring ∧
    Segment.cold.lowMeasured = false ∧ low.rx = none ∧
    ({ Segment.cold with rx := some [1], window := some (window 1) } : Segment).rx.isSome = true ∧
    (window 1).heldOpen = false := by decide +kernel

/-- A turn that can begin, with a station to configure and one to poll, and one that cannot. -/
theorem test_SendTurnOrder :
    let s : State := { yard with segB := { Segment.cold with turnDue := true, cfgList := [64] } }
    s.Settled ∧ (s.seg .b).state = .up ∧ (s.seg .b).turnDue = true ∧
    (s.seg .b).atSpace = false ∧ (s.seg .b).pollOut = none ∧ (s.seg .b).window = none ∧
    (∀ a ∈ segAddrs .b, (s.stationRow a).bad = false) ∧ (∀ a ∈ (s.seg .b).cfgList, a ∈ segAddrs .b) ∧
    (yard.seg .a).turnDue = false := by decide +kernel

theorem test_WindowOpensAndEmptyCycleEnds :
    ({ Segment.cold with pollOut := some 1 } : Segment).pollOut = some 1 ∧
    ({ Segment.cold with emptyWait := true } : Segment).emptyWait = true ∧
    Segment.cold.pollOut = none ∧ Segment.cold.emptyWait = false := by decide

/-- The two bands of the table below Tw, in a container whose thresholds lie close together. -/
theorem test_FillStateAndNotices :
    ((9000 : Nat) : Int) - config.hysteresis ≤ 8500 ∧ ((8499 : Nat) : Int) < 9000 - config.hysteresis ∧
    ((7000 : Nat) : Int) ≤ 7500 - config.hysteresis ∧ config.warn < config.full := by decide

/-- Fewer than 64, and 64 with a STATUS notice, with ROUND and none of STATUS, and with ALERT alone. -/
theorem test_FullQueueDisplaces :
    let n (k : NoticeKind) : Notice := { kind := k, subject := 0, payload := [], stamp := 0 }
    let alerts (k : Nat) := List.replicate k (n .tableFault)
    (alerts 63).length < 64 ∧
    (alerts 30 ++ n .fillWarn :: alerts 33).length = 64 ∧
    (∀ y ∈ alerts 30, y.kind.cls ≠ .status) ∧ (n .fillWarn).kind.cls = .status ∧
    (alerts 30 ++ n .ticketReady :: alerts 33).length = 64 ∧
    (∀ y ∈ alerts 30 ++ n .ticketReady :: alerts 33, y.kind.cls ≠ .status) ∧
    (n .ticketReady).kind.cls = .round ∧ (alerts 64).length = 64 ∧
    (∀ y ∈ alerts 64, y.kind.cls ≠ .round) := by decide +kernel

/-- Deposits of one station released in the order of the list, where that is not the order of the rows: the
faulty Card Row of row 1 is reported before that of row 0 (log entry 28). -/
theorem test_releases_in_list_order :
    let late : Deposit := { deposit with row := 1, cardRow := 1 }
    let s : State := { worn with
      deposits := [late, deposit]
      cards := [(0, { data := card, bad := true }), (1, { data := card, bad := true })]
      notices := { worn.notices with queue := [] } }
    ((after .removeStation (asking s [0x02, 1])).notices.queue.map fun n => (n.kind, n.subject)) =
      [(.tableFault, 1), (.tableFault, 0)] := by decide +kernel

end Sys2Proof.Tests
end

section
/-! PROOF. RELEASE JOURNAL by the distance of its sequence number from the counter (R87). -/

namespace Sys2Proof.Machine

/-! ### The sequence number and the request -/

/-- The 32-bit quantity that four octets carry, as the sum of their weighted values. -/
theorem u32_eq_weighted (a b c d : Octet) :
    u32 a b c d =
      BitVec.ofNat 32 (a.toNat * 16777216 + b.toNat * 65536 + c.toNat * 256 + d.toNat) :=
  congrArg (BitVec.ofNat 32) (by ring)

/-- A RELEASE JOURNAL that is carried out leaves what its release answers, with its REPLY (R162). -/
theorem exec_releaseJournal_of_carries {s : State} {tag a b c d : Octet} {r : Answered}
    (h : s.Carries tag [0x41, a, b, c, d]) (hr : s.releaseJournal (u32 a b c d) = r) :
    exec .releaseJournal s = .next (r.state.replied tag 0x41 r.result r.data) :=
  congrArg _ (State.serve_answers (f := releaseJournalRequest) h rfl hr)

/-! ### The records a release removes -/

/-- Distances are counted from the sequence counter alone, whatever records are held. -/
@[simp] theorem Journal.distance_withRecords (j : Journal) (l : List (Row JournalRecord))
    (seq : Word32) : ({ j with records := l } : Journal).distance seq = j.distance seq := rfl

/-- A sequence number of a record held removes that record and those before it: as many are left as its
distance counts. -/
theorem Journal.length_drop_toRelease {j : Journal} {seq : Word32}
    (h : j.distance seq < j.records.length) :
    (j.records.drop (j.toRelease seq)).length = j.distance seq := by
  rw [List.length_drop, Journal.toRelease, Nat.sub_sub_self h.le]

/-- A sequence number at least as far off as there are records, before the oldest or beyond the
counter, removes none. -/
theorem Journal.toRelease_of_le {j : Journal} {seq : Word32}
    (h : j.records.length ≤ j.distance seq) : j.toRelease seq = 0 :=
  Nat.sub_eq_zero_of_le h

/-! ### The release -/

/-- R87, first row: at a record held, within a Journal of at most 1024 records (R84). -/
theorem State.releaseJournal_of_held {s : State} {seq : Word32}
    (h : s.journal.distance seq < s.journal.records.length)
    (hmax : s.journal.records.length ≤ 1024) :
    s.releaseJournal seq =
      accepted
        (s.editJournal fun j => { j with records := j.records.drop (s.journal.toRelease seq) })
        (be16 (s.journal.toRelease seq) ++ be16 (s.journal.distance seq) ++
          be32 s.journal.counter) := by
  have hresult : s.journal.distance seq < 2147483648 := by omega
  simp only [State.releaseJournal, accepted, State.editJournal_journal,
    Journal.distance_withRecords, Journal.length_drop_toRelease h, hresult, if_true]

/-- R87, second and third rows: at no record held the state stays as it is, and the distance decides
the result alone. -/
theorem State.releaseJournal_of_unheld {s : State} {seq : Word32}
    (h : s.journal.records.length ≤ s.journal.distance seq) :
    s.releaseJournal seq =
      { state := s,
        result := if s.journal.distance seq < 2147483648 then .accepted else .range,
        data := be16 0 ++ be16 s.journal.records.length ++ be32 s.journal.counter } := by
  simp only [State.releaseJournal, State.editJournal, Journal.toRelease_of_le h, List.drop_zero]

/-- Settles O38: the three rows of R87's table are a record held, one before the oldest held, and one
beyond the newest issued, whose distance no record count reaches. -/
theorem releaseJournalDropsRecords : Obligations.ReleaseJournalDropsRecords := by
  unfold Obligations.ReleaseJournalDropsRecords
  intro s tag a b c d h
  rw [← u32_eq_weighted]
  refine ⟨fun hheld hmax => ?atRecordHeld, fun hold hnear => ?beforeOldest,
    fun (hfar : 2147483648 ≤ s.journal.distance (u32 a b c d)) hmax => ?beyondCounter⟩
  case atRecordHeld =>
    exact exec_releaseJournal_of_carries h (State.releaseJournal_of_held hheld hmax)
  case beforeOldest =>
    have hresult : s.journal.distance (u32 a b c d) < 2147483648 := Nat.lt_succ_of_le hnear
    have hr := State.releaseJournal_of_unheld hold
    rw [if_pos hresult] at hr
    exact exec_releaseJournal_of_carries h hr
  case beyondCounter =>
    have hresult : ¬ s.journal.distance (u32 a b c d) < 2147483648 := Nat.not_lt.2 hfar
    have hold : s.journal.records.length ≤ s.journal.distance (u32 a b c d) := by omega
    have hr := State.releaseJournal_of_unheld hold
    rw [if_neg hresult] at hr
    exact exec_releaseJournal_of_carries h hr

end Sys2Proof.Machine
end

section
/-! PROOF. RETIRE TICKET by the slot it names and the state of the ticket there (R108). -/

namespace Sys2Proof.Machine

/-! ### The request -/

/-- A RETIRE TICKET that is carried out leaves what its request answers, with its REPLY (R162). -/
theorem exec_retireTicket_of_carries {s : State} {tag slot : Octet} {r : Answered}
    (h : s.Carries tag [0x32, slot]) (hr : retireTicketRequest [slot] s = r) :
    exec .retireTicket s = .next (r.state.replied tag 0x32 r.result r.data) :=
  congrArg _ (State.serve_answers (f := retireTicketRequest) h rfl hr)

/-- R108: the ring has no slot above 15. -/
theorem retireTicketRequest_of_gt {s : State} {slot : Octet} (h : 15 < slot.toNat) :
    retireTicketRequest [slot] s = refused s .range :=
  if_pos h

/-- R108: a slot whose ticket is not COMPLETE is left as it is. -/
theorem retireTicketRequest_of_not_complete {s : State} {slot : Octet} (h : slot.toNat ≤ 15)
    (hstate : (s.ticket slot.toNat).state ≠ .complete) :
    retireTicketRequest [slot] s = refused s .state :=
  (if_neg (Nat.not_lt.2 h)).trans (if_neg hstate)

/-- R108: the slot of a COMPLETE ticket is written with no ticket. -/
theorem retireTicketRequest_of_complete {s : State} {slot : Octet} (h : slot.toNat ≤ 15)
    (hstate : (s.ticket slot.toNat).state = .complete) :
    retireTicketRequest [slot] s = accepted (s.putTicket slot.toNat Ticket.free) [] :=
  (if_neg (Nat.not_lt.2 h)).trans (if_pos hstate)

/-! ### The state it leaves -/

/-- An answer is held beside the Ticket Ring. -/
@[simp] theorem State.replied_ticket (s : State) (tag code : Octet) (r : ResultCode)
    (data : List Octet) (k : Nat) : (s.replied tag code r data).ticket k = s.ticket k :=
  State.editMgmt_ticket ..

/-- With the old Ticket Ring put back, a slot's write leaves no trace in an answered state. -/
theorem State.replied_putTicket_restored (s : State) (slot : Nat) (t : Ticket) (tag code : Octet)
    (r : ResultCode) (data : List Octet) :
    { (s.putTicket slot t).replied tag code r data with tickets := s.tickets } =
      s.replied tag code r data := rfl

/-- Settles O34: the two refusals answer from the state as it stood; a COMPLETE ticket's slot alone is
written, with every field of the free ticket. -/
theorem retireTicketFreesSlot : Obligations.RetireTicketFreesSlot := by
  unfold Obligations.RetireTicketFreesSlot
  intro s tag slot h
  refine ⟨fun habove => ?aboveRing, fun hslot hstate => ?notComplete,
    fun hslot hcomplete => ⟨(s.putTicket slot.toNat Ticket.free).replied tag 0x32 .accepted [],
      ?retired, fun k => ?ring, ?frame⟩⟩
  case aboveRing =>
    exact exec_retireTicket_of_carries h (retireTicketRequest_of_gt habove)
  case notComplete =>
    exact exec_retireTicket_of_carries h (retireTicketRequest_of_not_complete hslot hstate)
  case retired =>
    exact exec_retireTicket_of_carries h (retireTicketRequest_of_complete hslot hcomplete)
  case ring =>
    rw [State.replied_ticket, State.ticket_putTicket, Ticket.free]
  case frame =>
    exact State.replied_putTicket_restored ..

end Sys2Proof.Machine
end

section
/-! PROOF. The parameters: taken to their ranges by SET PARAMETERS, at their values after a cold reset, and
kept across a warm restart (R167). -/

namespace Sys2Proof.Machine

/-! ### The ranges -/

/-- A value below a range is taken as its lowest, one above as its highest. -/
theorem clampTo_eq_max_min {low high : Nat} (h : low ≤ high) (n : Nat) :
    clampTo low high n = max low (min n high) := by
  unfold clampTo
  split_ifs with hbelow habove
  · exact (max_eq_left ((min_le_left n high).trans hbelow.le)).symm
  · rw [min_eq_right habove.le, max_eq_right h]
  · rw [min_eq_left (Nat.not_lt.1 habove), max_eq_right (Nat.not_lt.1 hbelow)]

/-- The supervision period has its range beside 0. -/
theorem clampPeriod_eq (n : Nat) :
    clampPeriod n = if n = 0 then 0 else max 10 (min n 3600) := by
  rw [clampPeriod, clampTo_eq_max_min (by decide)]

/-- The bit is that of a value taken otherwise than given. -/
theorem changedBit_eq_ite (bit given taken : Nat) :
    changedBit bit given taken = if taken = given then 0 else 2 ^ bit := by
  simp only [changedBit, eq_comm]

/-! ### SET PARAMETERS -/

/-- The octet of changes, one bit for each value in the order of R167's table. -/
theorem changedMask_eq_ite (given taken : Params) :
    changedMask given taken =
      octet ((if taken.pendingExpiry = given.pendingExpiry then 0 else 1) +
        (if taken.liftLimit = given.liftLimit then 0 else 2) +
        (if taken.supervision = given.supervision then 0 else 4) +
        (if taken.batchCount = given.batchCount then 0 else 8) +
        (if taken.coalescing = given.coalescing then 0 else 16)) := by
  simp only [changedMask, changedBit_eq_ite, Nat.reducePow]

/-- The values in their widths, with one octet more. -/
theorem Params.octets_append_octet (p : Params) (mask : Octet) :
    p.octets ++ [mask] =
      be16 p.pendingExpiry ++ [octet p.liftLimit] ++ be16 p.supervision ++
        [octet p.batchCount, octet p.coalescing, mask] :=
  List.append_assoc ..

/-- The timer restarted with the period just taken changes the link alone (R169). -/
theorem State.restartSupervision_withParams (s : State) (p : Params) :
    ({ s with params := p } : State).restartSupervision =
      { s with
        params := p
        link := { s.link with
          supervision := if p.supervision = 0 then none
            else some (s.seconds + BitVec.ofNat 32 p.supervision) } } := rfl

/-- A SET PARAMETERS that is carried out leaves what the five values of its body come to, with its
REPLY (R162). -/
theorem exec_setParameters_of_carries {s : State} {tag ph pl lift sh sl batch coal : Octet}
    {r : Answered} (h : s.Carries tag [0x53, ph, pl, lift, sh, sl, batch, coal])
    (hr : s.setParameters
      { pendingExpiry := u16 ph pl, liftLimit := lift.toNat, supervision := u16 sh sl,
        batchCount := batch.toNat, coalescing := coal.toNat } = r) :
    exec .setParameters s = .next (r.state.replied tag 0x53 r.result r.data) :=
  congrArg _ (State.serve_answers (f := setParametersRequest) h rfl hr)

/-- What SET PARAMETERS answers, in the words of R167 and R169. -/
theorem State.setParameters_eq (s : State) (given : Params) :
    s.setParameters given =
      accepted
        { s with
          params := given.clamp
          link := { s.link with
            supervision := if given.clamp.supervision = 0 then none
              else some (s.seconds + BitVec.ofNat 32 given.clamp.supervision) } }
        (be16 given.clamp.pendingExpiry ++ [octet given.clamp.liftLimit] ++
          be16 given.clamp.supervision ++
          [octet given.clamp.batchCount, octet given.clamp.coalescing,
            octet ((if given.clamp.pendingExpiry = given.pendingExpiry then 0 else 1) +
              (if given.clamp.liftLimit = given.liftLimit then 0 else 2) +
              (if given.clamp.supervision = given.supervision then 0 else 4) +
              (if given.clamp.batchCount = given.batchCount then 0 else 8) +
              (if given.clamp.coalescing = given.coalescing then 0 else 16))]) := by
  rw [State.setParameters, State.restartSupervision_withParams, Params.octets_append_octet,
    changedMask_eq_ite]

/-! ### The restart -/

/-- Work on containers, cards and the dispatch leaves the parameters. -/
theorem State.Yields.params {s t : State} (h : s.Yields t) : t.params = s.params :=
  (congrArg State.params h.outside :)

/-- Work done row by row leaves the parameters where that on each row does. -/
theorem State.foldl_params {α : Type} {f : State → α → State}
    (hf : ∀ (x : State) a, (f x a).params = x.params) (l : List α) (s : State) :
    (l.foldl f s).params = s.params := by
  induction l generalizing s with
  | nil => rfl
  | cons a l ih => exact (ih (f s a)).trans (hf s a)

@[simp] theorem State.editSegStations_params (s : State) (g : Seg) (f : Station → Station) :
    (s.editSegStations g f).params = s.params :=
  State.foldl_params (fun _ _ => State.putStation_params ..) _ s

@[simp] theorem State.restartStations_params (s : State) (g : Seg) :
    (s.restartStations g).params = s.params := State.editSegStations_params ..

@[simp] theorem State.clearRing_params (s : State) : s.clearRing.params = s.params :=
  State.editDispatch_params ..

/-- The list is rebuilt by joins alone (R112). -/
theorem State.Yields.rebuildList (s : State) : s.Yields s.rebuildList := by
  refine State.Yields.foldl (fun x row => ?_) _ s
  split_ifs
  · exact State.Yields.joinList x row
  · exact State.Yields.refl x

@[simp] theorem State.restartLink_params (s : State) : s.restartLink.params = s.params := by
  rw [State.restartLink, State.restartSupervision, State.editLink_params, State.editLink_params]

@[simp] theorem State.restartNotices_params (s : State) (released : Nat) :
    (s.restartNotices released).params = s.params := by
  rw [State.restartNotices, State.raise_params, State.editNotices_params]

/-- An answer is held beside the parameters. -/
@[simp] theorem State.replied_params (s : State) (tag code : Octet) (r : ResultCode)
    (data : List Octet) : (s.replied tag code r data).params = s.params :=
  State.editMgmt_params ..

/-- Every block's part of a warm restart leaves the parameters (R172). -/
@[simp] theorem State.restartBlocks_params (s : State) : s.restartBlocks.params = s.params := by
  simp only [State.restartBlocks, State.restartLink_params,
    (State.Yields.rebuildList _).params, State.clearRing_params, State.editSeg_params,
    State.restartStations_params]

/-- What RESTART answers: the deposits released, and the slots that are not FREE (R172). -/
theorem restartRequest_eq (s : State) :
    restartRequest [] s =
      accepted (s.restartBlocks.restartNotices s.deposits.length)
        (be32 s.seconds ++ [octet s.deposits.length, octet s.heldSlots]) := rfl

/-- A RESTART that is carried out leaves what its request answers, with its REPLY (R162). -/
theorem exec_restart_of_carries {s : State} {tag : Octet} {r : Answered} (h : s.Carries tag [0x56])
    (hr : restartRequest [] s = r) :
    exec .restart s = .next (r.state.replied tag 0x56 r.result r.data) :=
  congrArg _ (State.serve_answers (f := restartRequest) h rfl hr)

/-! ### The obligation -/

/-- Settles O16: the parameters taken are the clamped ones, the cold reset writes those of R167's table,
and no block's part of a warm restart writes any. -/
theorem parametersTakenToRange : Obligations.ParametersTakenToRange := by
  unfold Obligations.ParametersTakenToRange
  refine ⟨fun s tag ph pl lift sh sl batch coal h => ?taken, fun lrateHigh s t hcold => ?cold,
    fun s tag h => ⟨_, exec_restart_of_carries h (restartRequest_eq s), ?kept⟩⟩
  case taken =>
    exact ⟨Params.clamp
        { pendingExpiry := u16 ph pl, liftLimit := lift.toNat, supervision := u16 sh sl,
          batchCount := batch.toNat, coalescing := coal.toNat },
      clampTo_eq_max_min (by decide) _, clampTo_eq_max_min (by decide) _, clampPeriod_eq _,
      clampTo_eq_max_min (by decide) _, clampTo_eq_max_min (by decide) _,
      exec_setParameters_of_carries h (State.setParameters_eq ..)⟩
  case cold =>
    obtain rfl := Host.Outcome.next.inj hcold
    rfl
  case kept =>
    exact (State.replied_params ..).trans
      ((State.restartNotices_params ..).trans (State.restartBlocks_params s))

end Sys2Proof.Machine
end

section
/-! PROOF. A notice raised: it joins a queue with room; a full queue displaces or drops by class and counts
the loss (R175), the notice carrying the second it is raised in (R174). The first in an empty queue
starts the coalescing timer (R176). -/

namespace Sys2Proof.Machine

/-! ### The classes a queue holds -/

theorem holdsClass_append_cons {c : NoticeClass} {x : Notice} (hx : x.kind.cls = c)
    (before behind : List Notice) : holdsClass c (before ++ x :: behind) = true :=
  List.any_eq_true.2 ⟨x, List.mem_append_cons_self, decide_eq_true hx⟩

theorem holdsClass_eq_false {c : NoticeClass} {q : List Notice} (h : ∀ y ∈ q, y.kind.cls ≠ c) :
    holdsClass c q = false :=
  List.any_eq_false.2 fun y hy => by simp [h y hy]

/-- The oldest notice of a class is the first of it in the queue, and it alone is taken out. -/
theorem withoutOldest_append_cons {c : NoticeClass} {before : List Notice} {x : Notice}
    (hx : x.kind.cls = c) (hbefore : ∀ y ∈ before, y.kind.cls ≠ c) (behind : List Notice) :
    withoutOldest c (before ++ x :: behind) = before ++ behind := by
  rw [withoutOldest, List.eraseP_append_right _ fun y hy => by simp [hbefore y hy],
    List.eraseP_cons_of_pos (by simpa using hx)]

/-! ### A full queue, by the classes it holds (R175) -/

/-- A STATUS notice held gives way to a notice of any class. -/
theorem displace_of_holds_status {q : List Notice} (h : holdsClass .status q = true) (n : Notice) :
    displace q n = withoutOldest .status q ++ [n] :=
  if_pos h

/-- With no STATUS notice held, a STATUS notice is dropped. -/
theorem displace_of_status {q : List Notice} {n : Notice} (h : holdsClass .status q = false)
    (hn : n.kind.cls = .status) : displace q n = q := by
  simp [displace, h, hn]

/-- With no STATUS notice held, a ROUND notice held gives way to ROUND and ALERT. -/
theorem displace_of_holds_round {q : List Notice} {n : Notice} (h : holdsClass .status q = false)
    (hn : n.kind.cls ≠ .status) (hround : holdsClass .round q = true) :
    displace q n = withoutOldest .round q ++ [n] := by
  simp [displace, h, hn, hround]

/-- A queue of ALERT notices alone displaces none. -/
theorem displace_of_alerts {q : List Notice} (h : holdsClass .status q = false)
    (hround : holdsClass .round q = false) (n : Notice) : displace q n = q := by
  simp [displace, h, hround]

/-! ### The Notice Unit a notice joins -/

/-- A queue with room takes the notice at its end. -/
theorem NoticeUnit.join_of_lt {u : NoticeUnit} (h : u.queue.length < 64) (n : Notice)
    (expiry : Word32) :
    u.join n expiry =
      { u with queue := u.queue ++ [n],
               coalescing := if u.queue = [] then some expiry else u.coalescing } := by
  simp [NoticeUnit.join, h]

/-- A queue without room loses a notice, whichever it is, and counts it. -/
theorem NoticeUnit.join_of_le {u : NoticeUnit} (h : 64 ≤ u.queue.length) (n : Notice)
    (expiry : Word32) :
    u.join n expiry =
      { u with queue := displace u.queue n, lost := min (u.lost + 1) 65535 } :=
  if_neg (Nat.not_lt.2 h)

/-- Beside the queue and the count of losses a join can write the coalescing timer alone, and does so
only where the queue was empty (R176). -/
theorem NoticeUnit.join_queue_lost_restored (u : NoticeUnit) (n : Notice) (expiry : Word32) :
    { u.join n expiry with queue := u.queue, lost := u.lost } =
      { u with coalescing := if u.queue = [] then some expiry else u.coalescing } := by
  rcases Nat.lt_or_ge u.queue.length 64 with hroom | hfull
  · rw [join_of_lt hroom]
  · have hne : u.queue ≠ [] := List.ne_nil_of_length_pos (by omega)
    rw [join_of_le hfull, if_neg hne]

/-! ### The state a notice is raised in -/

/-- A notice raised joins the Notice Unit, with the second as its stamp (R174). -/
@[simp] theorem State.raise_notices (s : State) (k : NoticeKind) (a : Nat) (p : List Octet) :
    (s.raise k a p).notices =
      s.notices.join { kind := k, subject := a, payload := p, stamp := s.seconds }
        (s.after s.params.coalescing) := rfl

/-- With the old Notice Unit put back, a notice raised leaves no trace. -/
theorem State.raise_notices_restored (s : State) (k : NoticeKind) (a : Nat) (p : List Octet) :
    { s.raise k a p with notices := s.notices } = s := rfl

/-- A notice raised on a full queue is taken or dropped as the queue displaces, and the loss is
counted. -/
theorem State.raise_of_full {s : State} (hfull : s.notices.queue.length = 64) (k : NoticeKind)
    (a : Nat) (p : List Octet) {q : List Notice}
    (hq : displace s.notices.queue
      { kind := k, subject := a, payload := p, stamp := s.seconds } = q) :
    (s.raise k a p).notices.queue = q ∧
      (s.raise k a p).notices.lost = min (s.notices.lost + 1) 65535 := by
  rw [State.raise_notices, NoticeUnit.join_of_le hfull.ge]
  exact ⟨hq, rfl⟩

/-! ### The obligation -/

/-- Settles O60: a full queue goes through R175's table, by whether it holds STATUS, then by the class of
the notice raised, then by whether it holds ROUND. -/
theorem fullQueueDisplaces : Obligations.FullQueueDisplaces := by
  unfold Obligations.FullQueueDisplaces
  intro s kind subject payload n q t counted without
  refine ⟨fun hroom => ?joins, fun hfull => ⟨?displacesStatus, fun hstatus hkind => ?dropsStatus,
    fun hstatus hkind => ⟨?displacesRound, fun hround => ?dropsAmongAlerts⟩⟩,
    NoticeUnit.length_join _ _ _, State.raise_notices_restored ..,
    NoticeUnit.join_queue_lost_restored ..⟩
  case joins =>
    have hjoin : t.notices = _ := NoticeUnit.join_of_lt hroom n (s.after s.params.coalescing)
    rw [hjoin]
    exact ⟨rfl, rfl⟩
  case displacesStatus =>
    rintro before behind x ⟨hq, hx, hbefore⟩
    have hheld : holdsClass .status q = true := hq ▸ holdsClass_append_cons hx before behind
    refine State.raise_of_full hfull _ _ _ ((displace_of_holds_status hheld n).trans ?_)
    rw [hq, withoutOldest_append_cons hx hbefore]
  case dropsStatus =>
    exact State.raise_of_full hfull _ _ _ (displace_of_status (holdsClass_eq_false hstatus) hkind)
  case displacesRound =>
    rintro before behind x ⟨hq, hx, hbefore⟩
    have hheld : holdsClass .round q = true := hq ▸ holdsClass_append_cons hx before behind
    refine State.raise_of_full hfull _ _ _
      ((displace_of_holds_round (holdsClass_eq_false hstatus) hkind hheld).trans ?_)
    rw [hq, withoutOldest_append_cons hx hbefore]
  case dropsAmongAlerts =>
    exact State.raise_of_full hfull _ _ _
      (displace_of_alerts (holdsClass_eq_false hstatus) (holdsClass_eq_false hround) n)

end Sys2Proof.Machine
end

section
/-! PROOF. The step, the cold reset, and the laws right after it: every block at its reset values (R17, R58,
R83, R90, R111, R140, R157, R173, R180). -/

namespace Sys2Proof.Machine

/-! ### The step -/

theorem step_of_cons {s : State} {c : Instr} {rest : List Instr} (h : s.pending = c :: rest) :
    step s = exec c { s with pending := rest } := by
  unfold step
  rw [h]

theorem step_of_nil {s : State} (h : s.pending = []) : step s = .next s := by
  unfold step
  rw [h]

/-- Settles O1: the queue is empty or has a front. -/
theorem stepCarriesOutFrontCommand : Obligations.StepCarriesOutFrontCommand :=
  ⟨fun _ _ _ h => step_of_cons h, fun _ h => step_of_nil h⟩

/-! ### The cold reset -/

/-- COLD_RESET leaves the cold state and the commands still waiting. -/
theorem exec_coldReset (high : Bool) (s : State) :
    exec (.coldReset high) s = .next { State.cold high with pending := s.pending } := rfl

@[simp] theorem State.cold_stationRow (high : Bool) (addr : Nat) :
    (State.cold high).stationRow addr = Row.good Station.cold := rfl

@[simp] theorem State.cold_containerRow (high : Bool) (row : Nat) :
    (State.cold high).containerRow row = Row.good Container.unloaded := rfl

@[simp] theorem State.cold_cardRow (high : Bool) (row : Nat) :
    (State.cold high).cardRow row = Row.good CardRow.cold := rfl

@[simp] theorem State.cold_ticket (high : Bool) (slot : Nat) :
    (State.cold high).ticket slot = Ticket.free := rfl

@[simp] theorem State.cold_seg (high : Bool) (g : Seg) : (State.cold high).seg g = Segment.cold := by
  cases g <;> rfl

/-- Settles O12: no table lists a row after the reset, so that every row reads as its cold-reset value. -/
theorem coldResetClearsBlocks : Obligations.ColdResetClearsBlocks := by
  unfold Obligations.ColdResetClearsBlocks
  intro high s
  have hseg : ∀ g, ({ State.cold high with pending := s.pending } : State).seg g = Segment.cold := by
    rintro (_ | _) <;> rfl
  exact ⟨_, exec_coldReset high s, rfl, fun _ => rfl, rfl, fun _ => rfl, rfl, fun _ => rfl, rfl,
    fun _ => rfl, fun _ => rfl, fun _ => rfl, hseg, rfl, rfl, fun _ => rfl, rfl, rfl, rfl, rfl, rfl, rfl,
    rfl, rfl, rfl, rfl, rfl, rfl, rfl⟩

/-! ### The laws after it -/

theorem State.cold_depositLaw (high : Bool) : (State.cold high).depositLaw :=
  ⟨Nat.zero_le _, List.nodup_nil, Nat.zero_le _, fun _ _ => rfl⟩

theorem State.cold_journalLaw (high : Bool) : (State.cold high).journalLaw :=
  ⟨(by decide : 0 < 1024), fun i r h => by simp [State.cold] at h⟩

theorem State.cold_ringLaw (high : Bool) : (State.cold high).ringLaw :=
  ⟨(by decide : 0 < 16), (by decide : 0 < 16), rfl, Or.inr rfl⟩

theorem State.cold_capacityLaw (high : Bool) : (State.cold high).capacityLaw :=
  fun _ h => absurd rfl h

theorem State.cold_stationLaw (high : Bool) : (State.cold high).stationLaw := by
  refine ⟨fun g => ?segments, fun addr _ _ _ => ?stations⟩
  case segments => simp [Segment.cold]
  case stations => simp [State.station, Row.good, Station.cold, Segment.cold]

theorem Container.unloaded_law : Container.unloaded.law := by
  simp [Container.law, Container.unloaded]

theorem State.cold_containerLaw (high : Bool) : (State.cold high).containerLaw :=
  fun _ _ => Container.unloaded_law

theorem Ticket.free_not_plans (row : Nat) : ¬ Ticket.free.plans row := by
  simp [Ticket.plans, Ticket.free]

theorem State.cold_dispatchLaw (high : Bool) : (State.cold high).dispatchLaw := by
  refine ⟨fun _ _ => rfl, List.nodup_nil, fun row _ => ⟨?listed, fun _ => rfl, fun n => ?assigned⟩,
    fun n row _ h => ?once, fun m n row _ _ h _ => ?oneSlot⟩
  case listed =>
    exact ⟨fun h => absurd h List.not_mem_nil, fun h => Bool.noConfusion h⟩
  case assigned =>
    exact ⟨nofun, fun h => absurd h.2 (Ticket.free_not_plans row)⟩
  case once => exact absurd h (Ticket.free_not_plans row)
  case oneSlot => exact absurd h (Ticket.free_not_plans row)

/-- Settles O2: every law is that of a state whose tables, lists and queues are empty but for POWER UP. -/
theorem lawsHoldAtReset : Obligations.LawsHoldAtReset :=
  ⟨by decide, by decide, State.cold_depositLaw _, State.cold_ringLaw _, State.cold_capacityLaw _,
    by decide, State.cold_stationLaw _, State.cold_containerLaw _, State.cold_dispatchLaw _,
    State.cold_journalLaw _⟩

end Sys2Proof.Machine
end

section
/-! PROOF. Requests that are carried out at once: READ STATUS (R171), READ FAULT CAPTURE (R179), LOAD STREAM
(R3, R4), CLEAR CONTAINER FLAGS and CLEAR STATION ERRORS (R14, R155), LOAD SERIES and LOAD WINDOW (R42, R43)
and SET SEGMENT (R138). -/

namespace Sys2Proof.Machine

/-! ### Requests -/

/-- A request that its row serves, in an event that makes no pass due, leaves what the row's request
answers, with its REPLY (R162, R99). -/
theorem State.serve_answers_settled {s : State} {tag c : Octet} {args : List Octet}
    {mine : List Octet → Bool} {f : List Octet → State → Answered} {a : Answered}
    (h : s.Carries tag (c :: args)) (hm : mine args = true) (hf : f args s = a) (ha : a.state.Settled) :
    (s.serve c mine f).endEvent = a.state.replied tag c a.result a.data := by
  rw [State.serve_answers h hm hf]
  exact State.endEvent_of_settled ha

/-! ### READ STATUS -/

/-- A READ STATUS that is carried out leaves what its request answers, with its REPLY (R162). -/
theorem exec_readStatus_of_carries {s : State} {tag clear : Octet} {r : Answered}
    (h : s.Carries tag [0x54, clear]) (hr : readStatusRequest [clear] s = r) :
    exec .readStatus s = .next (r.state.replied tag 0x54 r.result r.data) :=
  congrArg _ (State.serve_answers (f := readStatusRequest) h rfl hr)

theorem readStatusRequest_of_gt {clear : Octet} (h : 1 < clear.toNat) (s : State) :
    readStatusRequest [clear] s = refused s .range := by
  simp [readStatusRequest, parseYesNo_of_gt h]

theorem readStatusRequest_of_le {clear : Octet} (h : clear.toNat ≤ 1) (s : State) :
    readStatusRequest [clear] s =
      accepted { s with link := { s.link with
        counters := if clear = 0 then LinkCounters.zero else s.link.counters } } s.statusReport := by
  simp only [readStatusRequest, parseYesNo_of_le h, decide_eq_true_eq]
  split_ifs <;> rfl

/-- The seconds that remain to the supervision expiry, as a field with a default (R171). -/
theorem State.supervisionRemaining_eq (s : State) :
    s.supervisionRemaining = (s.link.supervision.map s.remaining).getD 0 := by
  unfold State.supervisionRemaining
  cases s.link.supervision <;> rfl

/-- Settles O19: the counters are cleared in the state, and the report is of the state before. -/
theorem readStatusReports : Obligations.ReadStatusReports := by
  unfold Obligations.ReadStatusReports
  intro s tag clear h
  refine ⟨fun hgt => ?refusal, fun hyesNo => ?report⟩
  case refusal => exact exec_readStatus_of_carries h (readStatusRequest_of_gt hgt s)
  case report =>
    have hle : clear.toNat ≤ 1 := by rcases hyesNo with rfl | rfl <;> decide
    rw [exec_readStatus_of_carries h (readStatusRequest_of_le hle s), ← State.supervisionRemaining_eq]
    rfl

/-! ### READ FAULT CAPTURE -/

/-- Settles O20: the record is reported and emptied; a fault fills an empty record and counts in a full
one. -/
theorem faultCaptureHeldAndRead : Obligations.FaultCaptureHeldAndRead := by
  unfold Obligations.FaultCaptureHeldAndRead
  refine ⟨fun s tag h => ?read, fun s x row h => ?held, fun s x row f h hf => ?counted⟩
  case read =>
    refine (congrArg _ (State.serve_answers (f := readFaultCaptureRequest) h rfl rfl)).trans ?_
    show Host.Outcome.next (({ s with capture := none } : State).replied tag 0x55 .accepted
      (captureOctets s.capture)) = _
    cases s.capture <;> rfl
  case held => simp [State.captureFault, h]
  case counted =>
    have hsat : satInc8 f.further = if f.further < 255 then f.further + 1 else 255 := by
      unfold satInc8 satInc
      split_ifs <;> omega
    simp [State.captureFault, h, hsat]

/-! ### LOAD STREAM -/

theorem exec_loadStreamLoad_of_carries {s : State} {tag : Octet} {args : List Octet} {r : Answered}
    (h : s.Carries tag (0x10 :: args)) (hm : actionIs 0 1 args = true)
    (hr : loadStreamRequest streamLoad args s = r) :
    exec .loadStreamLoad s = .next (r.state.replied tag 0x10 r.result r.data) :=
  congrArg _ (State.serve_answers (f := loadStreamRequest streamLoad) h hm hr)

theorem exec_loadStreamUnload_of_carries {s : State} {tag : Octet} {args : List Octet} {r : Answered}
    (h : s.Carries tag (0x10 :: args)) (hm : actionIs 1 1 args = true)
    (hr : loadStreamRequest streamUnload args s = r) (hs : r.state.Settled) :
    exec .loadStreamUnload s = .next (r.state.replied tag 0x10 r.result r.data) :=
  congrArg _ (State.serve_answers_settled (f := loadStreamRequest streamUnload) h hm hr hs)

/-- An octet beyond the last action belongs to the row of every action (log entry 21). -/
theorem actionIs_of_gt {action last a x : Octet} {rest : List Octet} (h : last.toNat < a.toNat) :
    actionIs action last (x :: a :: rest) = true := by
  simp only [actionIs, Bool.or_eq_true, decide_eq_true_eq]
  exact Or.inr (BitVec.lt_def.2 h)

@[simp] theorem actionIs_self (action last x : Octet) (rest : List Octet) :
    actionIs action last (x :: action :: rest) = true := by simp [actionIs]

/-- Within its ranges LOAD STREAM goes on to its action (R3, R163). -/
theorem loadStreamRequest_of_le {act : Nat → Octet → State → Answered} {stream action : Octet}
    (hs : stream.toNat ≤ 7) (ha : action.toNat ≤ 1) (charged : Octet) (s : State) :
    loadStreamRequest act [stream, action, charged] s = act stream.toNat charged s := by
  simp [loadStreamRequest, hs, ha]

theorem loadStreamRequest_of_gt {act : Nat → Octet → State → Answered} {stream action : Octet}
    (h : 7 < stream.toNat ∨ 1 < action.toNat) (charged : Octet) (s : State) :
    loadStreamRequest act [stream, action, charged] s = refused s .range := by
  have hout : (decide (stream.toNat ≤ 7) && decide (action.toNat ≤ 1)) = false := by
    simpa [Nat.not_le, imp_iff_not_or] using h
  simp only [loadStreamRequest, hout]
  rfl

@[simp] theorem State.streamRow_writeStream (s : State) (a b : Nat) (e : StreamEntry) :
    (s.writeStream a e).streamRow b = if b = a then Row.good e else s.streamRow b :=
  State.streamRow_putStream ..

@[simp] theorem State.replied_streamRow (s : State) (tag code : Octet) (r : ResultCode)
    (data : List Octet) (k : Nat) : (s.replied tag code r data).streamRow k = s.streamRow k :=
  State.editMgmt_streamRow ..

/-- With the old Stream Map put back, an entry's write leaves no trace in an answered state. -/
theorem State.replied_writeStream_restored (s : State) (k : Nat) (e : StreamEntry) (tag code : Octet)
    (r : ResultCode) (data : List Octet) :
    { (s.writeStream k e).replied tag code r data with streams := s.streams } =
      s.replied tag code r data := rfl

theorem streamLoad_of_le {charged : Octet} (h : charged.toNat ≤ 1) (stream : Octet) (s : State) :
    streamLoad stream.toNat charged s =
      accepted (s.writeStream stream.toNat { loaded := true, charged := charged = 0 })
        [stream, charged] := by
  simp only [streamLoad, parseYesNo_of_le h, octet_toNat, yesNo_parse h]

theorem streamLoad_of_gt {charged : Octet} (h : 1 < charged.toNat) (stream : Nat) (s : State) :
    streamLoad stream charged s = refused s .range := by
  simp [streamLoad, parseYesNo_of_gt h]

/-- A Container Entry that reads good is read without effect (R15). -/
theorem State.readContainer_of_good {s : State} {row : Nat} (h : (s.containerRow row).bad = false) :
    s.readContainer row = s := by
  simp [State.readContainer, h]

/-- Rows that read good are read without effect. -/
theorem State.foldl_readContainer_of_good {s : State} {rows : List Nat}
    (h : ∀ row ∈ rows, (s.containerRow row).bad = false) :
    rows.foldl State.readContainer s = s := by
  induction rows with
  | nil => rfl
  | cons row rows ih =>
    rw [List.foldl_cons, State.readContainer_of_good (h row List.mem_cons_self)]
    exact ih fun r hr => h r (List.mem_cons_of_mem _ hr)

theorem State.readContainers_of_good {s : State} (h : ∀ row < 256, (s.containerRow row).bad = false) :
    s.readContainers = s :=
  State.foldl_readContainer_of_good fun row hrow => h row (List.mem_range.1 hrow)

theorem State.streamInUse_iff {s : State} {stream : Nat} :
    s.streamInUse stream = true ↔
      ∃ row < 256, (s.container row).loaded = true ∧ (s.container row).cfg.stream = stream := by
  simp [State.streamInUse]

/-- UNLOAD where every Container Entry reads good, by whether the stream is in use (R4). -/
theorem streamUnload_of_good {s : State} (h : ∀ row < 256, (s.containerRow row).bad = false)
    (stream : Nat) (charged : Octet) :
    streamUnload stream charged s =
      if s.streamInUse stream then refused s .state
      else accepted (s.writeStream stream StreamEntry.cold) [] := by
  simp only [streamUnload, State.readContainers_of_good h]

/-- Settles O23: LOAD by its octets' ranges; UNLOAD by the look at the 256 entries. -/
theorem streamsLoadAndUnload : Obligations.StreamsLoadAndUnload := by
  unfold Obligations.StreamsLoadAndUnload
  refine ⟨fun s tag stream charged h => ⟨fun ⟨hs, hc⟩ => ?loads, fun hout => ?loadRefused⟩,
    fun s tag stream action charged hset h => ⟨fun ha => ⟨?beyondLoad, ?beyondUnload⟩,
      fun ha hs => ?unloadRange⟩,
    fun s tag stream charged hset h hgood => ⟨fun hs huse => ?inUse, fun hs hfree => ?unloads⟩⟩
  case loads =>
    refine ⟨_, exec_loadStreamLoad_of_carries h (by simp)
      ((loadStreamRequest_of_le hs (by decide) _ s).trans (streamLoad_of_le hc stream s)), fun k => ?_, ?_⟩
    · exact (State.replied_streamRow ..).trans (State.streamRow_writeStream ..)
    · exact State.replied_writeStream_restored ..
  case loadRefused =>
    refine exec_loadStreamLoad_of_carries h (by simp) (r := refused s .range) ?_
    rcases Nat.lt_or_ge 7 stream.toNat with hs | hs
    · exact loadStreamRequest_of_gt (Or.inl hs) _ s
    · exact (loadStreamRequest_of_le hs (by decide) _ s).trans
        (streamLoad_of_gt (hout.resolve_left (Nat.not_lt.2 hs)) _ s)
  case beyondLoad =>
    exact exec_loadStreamLoad_of_carries h (actionIs_of_gt ha) (loadStreamRequest_of_gt (Or.inr ha) _ s)
  case beyondUnload =>
    exact exec_loadStreamUnload_of_carries h (actionIs_of_gt ha)
      (loadStreamRequest_of_gt (Or.inr ha) _ s) hset
  case unloadRange =>
    subst ha
    exact exec_loadStreamUnload_of_carries h (by simp) (loadStreamRequest_of_gt (Or.inl hs) _ s) hset
  case inUse =>
    have hunload := streamUnload_of_good hgood stream.toNat charged
    rw [if_pos (State.streamInUse_iff.2 huse)] at hunload
    exact exec_loadStreamUnload_of_carries h (by simp)
      ((loadStreamRequest_of_le hs (by decide) _ s).trans hunload) hset
  case unloads =>
    have hnot : ¬ s.streamInUse stream.toNat = true := fun huse => by
      obtain ⟨row, hrow, hloaded, hstream⟩ := State.streamInUse_iff.1 huse
      exact hfree row hrow hloaded hstream
    have hunload := streamUnload_of_good hgood stream.toNat charged
    rw [if_neg hnot] at hunload
    refine ⟨_, exec_loadStreamUnload_of_carries h (by simp)
      ((loadStreamRequest_of_le hs (by decide) _ s).trans hunload) hset, fun k => ?_, ?_⟩
    · exact (State.replied_streamRow ..).trans (State.streamRow_writeStream ..)
    · exact State.replied_writeStream_restored ..

end Sys2Proof.Machine
end

section
/-! PROOF. CLEAR CONTAINER FLAGS and CLEAR STATION ERRORS (R14, R155), and LOAD SERIES and LOAD WINDOW (R42,
R43): the ranges of their octets, and the one entry that each writes. -/

namespace Sys2Proof.Machine

/-! ### Octets -/

theorem Octet.le_one_iff {o : Octet} : o.toNat ≤ 1 ↔ o = 0 ∨ o = 1 := by
  constructor
  · intro h
    rcases Nat.le_one_iff_eq_zero_or_eq_one.1 h with h | h
    · exact Or.inl (BitVec.eq_of_toNat_eq h)
    · exact Or.inr (BitVec.eq_of_toNat_eq h)
  · rintro (rfl | rfl) <;> decide

/-! ### Rows in an answered state -/

@[simp] theorem State.replied_containerRow (s : State) (tag code : Octet) (r : ResultCode)
    (data : List Octet) (k : Nat) : (s.replied tag code r data).containerRow k = s.containerRow k :=
  State.editMgmt_containerRow ..

@[simp] theorem State.replied_stationRow (s : State) (tag code : Octet) (r : ResultCode)
    (data : List Octet) (k : Nat) : (s.replied tag code r data).stationRow k = s.stationRow k :=
  State.editMgmt_stationRow ..

@[simp] theorem State.replied_seriesRow (s : State) (tag code : Octet) (r : ResultCode)
    (data : List Octet) (k : Nat) : (s.replied tag code r data).seriesRow k = s.seriesRow k :=
  State.editMgmt_seriesRow ..

@[simp] theorem State.replied_cardRow (s : State) (tag code : Octet) (r : ResultCode)
    (data : List Octet) (k : Nat) : (s.replied tag code r data).cardRow k = s.cardRow k :=
  State.editMgmt_cardRow ..

@[simp] theorem State.replied_kindRow (s : State) (tag code : Octet) (r : ResultCode)
    (data : List Octet) (k : Nat) : (s.replied tag code r data).kindRow k = s.kindRow k :=
  State.editMgmt_kindRow ..

/-- With the old Container Table put back, an entry's edit leaves no trace in an answered state. -/
theorem State.replied_editContainer_restored (s : State) (k : Nat) (f : Container → Container)
    (tag code : Octet) (r : ResultCode) (data : List Octet) :
    { (s.editContainer k f).replied tag code r data with containers := s.containers } =
      s.replied tag code r data := rfl

/-- With the old Station Table put back, an entry's edit leaves no trace in an answered state. -/
theorem State.replied_editStation_restored (s : State) (k : Nat) (f : Station → Station)
    (tag code : Octet) (r : ResultCode) (data : List Octet) :
    { (s.editStation k f).replied tag code r data with stations := s.stations } =
      s.replied tag code r data := rfl

/-! ### CLEAR CONTAINER FLAGS -/

theorem exec_clearContainerFlags_of_carries {s : State} {tag : Octet} {args : List Octet} {r : Answered}
    (h : s.Carries tag (0x14 :: args)) (hr : clearContainerFlagsRequest args s = r)
    (hs : r.state.Settled) :
    exec .clearContainerFlags s = .next (r.state.replied tag 0x14 r.result r.data) :=
  congrArg _ (State.serve_answers_settled (f := clearContainerFlagsRequest) h rfl hr hs)

theorem clearContainerFlagsRequest_of_gt {count : Octet} (h : 1 < count.toNat) (row named : Octet)
    (s : State) : clearContainerFlagsRequest [row, named, count] s = refused s .range := by
  simp [clearContainerFlagsRequest, parseYesNo_of_gt h]

/-- On an entry that reads good the request is that of R14. -/
theorem clearContainerFlagsRequest_of_le {count row : Octet} {s : State} (h : count.toNat ≤ 1)
    (hgood : (s.containerRow row.toNat).bad = false) (named : Octet) :
    clearContainerFlagsRequest [row, named, count] s =
      s.clearContainerFlags row.toNat named (count = 0) := by
  simp only [clearContainerFlagsRequest, parseYesNo_of_le h, State.readContainer_of_good hgood]

theorem State.clearContainerFlags_of_loaded {s : State} {row : Nat}
    (h : (s.container row).loaded = true) (named : Octet) (count : Bool) :
    s.clearContainerFlags row named count =
      accepted (s.editContainer row fun c =>
        { c with flags := setClear (s.container row).flags named,
                 rejected := if count then 0 else c.rejected })
        [setClear (s.container row).flags named] := by
  simp [State.clearContainerFlags, h]

theorem State.clearContainerFlags_of_unloaded {s : State} {row : Nat}
    (h : (s.container row).loaded = false) (named : Octet) (count : Bool) :
    s.clearContainerFlags row named count = refused s .state := by
  simp [State.clearContainerFlags, h]

/-! ### CLEAR STATION ERRORS -/

theorem exec_clearStationErrors_of_carries {s : State} {tag : Octet} {args : List Octet} {r : Answered}
    (h : s.Carries tag (0x04 :: args)) (hr : clearStationErrorsRequest args s = r)
    (hs : r.state.Settled) :
    exec .clearStationErrors s = .next (r.state.replied tag 0x04 r.result r.data) :=
  congrArg _ (State.serve_answers_settled (f := clearStationErrorsRequest) h rfl hr hs)

theorem clearStationErrorsRequest_of_gt {counts : Octet} (h : 1 < counts.toNat) (addr named : Octet)
    (s : State) : clearStationErrorsRequest [addr, named, counts] s = refused s .range := by
  simp [clearStationErrorsRequest, parseYesNo_of_gt h]

theorem isStation_iff {addr : Nat} : isStation addr = true ↔ 1 ≤ addr ∧ addr ≤ 64 := by
  simp [isStation]

theorem isStation_eq_false {addr : Nat} (h : addr = 0 ∨ 64 < addr) : isStation addr = false := by
  simp only [isStation, Bool.and_eq_false_iff, decide_eq_false_iff_not]
  omega

/-- A Station Entry that reads good is read without effect (R156). -/
theorem State.readStation_of_good {s : State} {addr : Nat} (h : (s.stationRow addr).bad = false) :
    s.readStation addr = s := by
  simp [State.readStation, h]

theorem clearStationErrorsRequest_of_not_station {counts addr : Octet} (h : counts.toNat ≤ 1)
    (ha : addr.toNat = 0 ∨ 64 < addr.toNat) (named : Octet) (s : State) :
    clearStationErrorsRequest [addr, named, counts] s = refused s .range := by
  simp [clearStationErrorsRequest, parseYesNo_of_le h, isStation_eq_false ha]

/-- On an entry that reads good the request is that of R155. -/
theorem clearStationErrorsRequest_of_le {counts addr : Octet} {s : State} (h : counts.toNat ≤ 1)
    (ha : 1 ≤ addr.toNat ∧ addr.toNat ≤ 64) (hgood : (s.stationRow addr.toNat).bad = false)
    (named : Octet) :
    clearStationErrorsRequest [addr, named, counts] s =
      s.clearStationErrors addr.toNat named (counts = 0) := by
  simp only [clearStationErrorsRequest, parseYesNo_of_le h, isStation_iff.2 ha, if_true,
    State.readStation_of_good hgood]

theorem State.clearStationErrors_of_loaded {s : State} {addr : Nat}
    (h : (s.station addr).loaded = true) (named : Octet) (counts : Bool) :
    s.clearStationErrors addr named counts =
      accepted (s.editStation addr fun e =>
        { e with errors := setClear (s.station addr).errors named,
                 lateAnswers := if counts then 0 else e.lateAnswers,
                 discarded := if counts then 0 else e.discarded })
        (setClear (s.station addr).errors named ::
          (be16 (s.station addr).lateAnswers ++ be16 (s.station addr).discarded)) := by
  simp [State.clearStationErrors, h]

theorem State.clearStationErrors_of_absent {s : State} {addr : Nat}
    (h : (s.station addr).loaded = false) (named : Octet) (counts : Bool) :
    s.clearStationErrors addr named counts = refused s .state := by
  simp [State.clearStationErrors, h]

/-- Settles O28: the octet beyond yes and no is refused before the entry is read; on a good one the
entry's loading decides. -/
theorem flagsAreCleared : Obligations.FlagsAreCleared := by
  unfold Obligations.FlagsAreCleared
  refine ⟨fun s tag x named count hs hgt => ⟨fun h => ?containerRange, fun h => ?stationRange⟩,
    fun s tag row named count hs h hyesNo hgood => ⟨fun hl => ?flags, fun hl => ?unloaded⟩,
    fun s tag addr named counts hs h hle => ⟨fun ha => ?noStation,
      fun h1 h64 hgood => ⟨fun hl => ?absent, fun hl => ?errors⟩⟩⟩
  case containerRange =>
    exact exec_clearContainerFlags_of_carries h (clearContainerFlagsRequest_of_gt hgt ..) hs
  case stationRange =>
    exact exec_clearStationErrors_of_carries h (clearStationErrorsRequest_of_gt hgt ..) hs
  case flags =>
    have hr := (clearContainerFlagsRequest_of_le (Octet.le_one_iff.2 hyesNo) hgood named).trans
      (State.clearContainerFlags_of_loaded hl ..)
    refine ⟨_, exec_clearContainerFlags_of_carries h hr hs, fun r => ?_,
      State.replied_editContainer_restored ..⟩
    refine (State.replied_containerRow ..).trans ((State.containerRow_editContainer ..).trans ?_)
    simp only [decide_eq_true_eq, hgood, setClear, Row.good]
  case unloaded =>
    exact exec_clearContainerFlags_of_carries h
      ((clearContainerFlagsRequest_of_le (Octet.le_one_iff.2 hyesNo) hgood named).trans
        (State.clearContainerFlags_of_unloaded hl ..)) hs
  case noStation =>
    exact exec_clearStationErrors_of_carries h (clearStationErrorsRequest_of_not_station hle ha ..) hs
  case absent =>
    exact exec_clearStationErrors_of_carries h
      ((clearStationErrorsRequest_of_le hle ⟨h1, h64⟩ hgood named).trans
        (State.clearStationErrors_of_absent hl ..)) hs
  case errors =>
    have hr := (clearStationErrorsRequest_of_le hle ⟨h1, h64⟩ hgood named).trans
      (State.clearStationErrors_of_loaded hl ..)
    refine ⟨_, exec_clearStationErrors_of_carries h hr hs, fun r => ?_,
      State.replied_editStation_restored ..⟩
    refine (State.replied_stationRow ..).trans ((State.stationRow_editStation ..).trans ?_)
    simp only [decide_eq_true_eq, hgood, setClear]

/-! ### LOAD SERIES and LOAD WINDOW -/

theorem stretchInRange_iff {base span : Nat} :
    stretchInRange base span = true ↔ base ≤ 8191 ∧ 1 ≤ span ∧ span ≤ 8192 ∧ base + span ≤ 8192 := by
  simp only [stretchInRange, Bool.and_eq_true, decide_eq_true_eq, and_assoc]

theorem exec_loadSeries_of_carries {s : State} {tag : Octet} {args : List Octet} {r : Answered}
    (h : s.Carries tag (0x20 :: args)) (hr : loadSeriesRequest args s = r) :
    exec .loadSeries s = .next (r.state.replied tag 0x20 r.result r.data) :=
  congrArg _ (State.serve_answers (f := loadSeriesRequest) h rfl hr)

theorem loadSeriesRequest_of_yesNo_gt {v b o : Octet} (h : 1 < v.toNat ∨ 1 < b.toNat ∨ 1 < o.toNat)
    (n bh bl sh sl : Octet) (s : State) :
    loadSeriesRequest [n, v, b, o, bh, bl, sh, sl] s = refused s .range := by
  rcases h with h | h | h
  · simp [loadSeriesRequest, parseYesNo_of_gt h]
  · cases hv : parseYesNo v <;> simp [loadSeriesRequest, parseYesNo_of_gt h, hv]
  · cases hv : parseYesNo v <;> cases hb : parseYesNo b <;>
      simp [loadSeriesRequest, parseYesNo_of_gt h, hv, hb]

theorem loadSeriesRequest_of_yesNo_le {v b o : Octet} (hv : v.toNat ≤ 1) (hb : b.toNat ≤ 1)
    (ho : o.toNat ≤ 1) (n bh bl sh sl : Octet) (s : State) :
    loadSeriesRequest [n, v, b, o, bh, bl, sh, sl] s =
      s.loadSeries n { valid := v = 0, barred := b = 0, onlineOnly := o = 0, base := u16 bh bl,
                       span := u16 sh sl } := by
  simp only [loadSeriesRequest, parseYesNo_of_le hv, parseYesNo_of_le hb, parseYesNo_of_le ho]

theorem octet_le_254_iff {n : Octet} : n.toNat ≤ 254 ↔ n ≠ 255 := by
  have := n.isLt
  constructor
  · rintro h rfl
    exact absurd h (by decide)
  · intro h
    have : n.toNat ≠ 255 := fun he => h (BitVec.eq_of_toNat_eq he)
    omega

theorem State.loadSeries_of_inRange {s : State} {n : Octet} {e : SeriesEntry} (hn : n ≠ 255)
    (h : stretchInRange e.base e.span = true) :
    s.loadSeries n e = accepted (s.writeSeries n.toNat e)
      ([n, yesNo e.valid, yesNo e.barred, yesNo e.onlineOnly] ++ be16 e.base ++ be16 e.span) := by
  simp [State.loadSeries, octet_le_254_iff.2 hn, h]

theorem State.loadSeries_of_not_inRange {s : State} {n : Octet} {e : SeriesEntry}
    (h : n = 255 ∨ stretchInRange e.base e.span = false) :
    s.loadSeries n e = refused s .range := by
  rcases h with rfl | h
  · rfl
  · simp [State.loadSeries, h]

@[simp] theorem State.seriesRow_writeSeries (s : State) (a b : Nat) (e : SeriesEntry) :
    (s.writeSeries a e).seriesRow b = if b = a then Row.good e else s.seriesRow b :=
  State.seriesRow_putSeries ..

/-- With the old Series Map put back, an entry's write leaves no trace in an answered state. -/
theorem State.replied_writeSeries_restored (s : State) (k : Nat) (e : SeriesEntry) (tag code : Octet)
    (r : ResultCode) (data : List Octet) :
    { (s.writeSeries k e).replied tag code r data with series := s.series } =
      s.replied tag code r data := rfl

theorem exec_loadWindow_of_carries {s : State} {tag : Octet} {args : List Octet} {r : Answered}
    (h : s.Carries tag (0x21 :: args)) (hr : loadWindowRequest args s = r) :
    exec .loadWindow s = .next (r.state.replied tag 0x21 r.result r.data) :=
  congrArg _ (State.serve_answers (f := loadWindowRequest) h rfl hr)

theorem loadWindowRequest_of_inRange {bh bl sh sl o : Octet}
    (h : stretchInRange (u16 bh bl) (u16 sh sl) = true) (ho : o.toNat ≤ 1) (s : State) :
    loadWindowRequest [bh, bl, sh, sl, o] s =
      accepted (s.writeWindow { base := u16 bh bl, span := u16 sh sl, onlineOnly := o = 0 })
        [bh, bl, sh, sl, o] := by
  simp only [loadWindowRequest, parseYesNo_of_le ho, h, if_true, be16_u16, yesNo_parse ho]
  rfl

theorem loadWindowRequest_of_not_inRange {bh bl sh sl o : Octet}
    (h : stretchInRange (u16 bh bl) (u16 sh sl) = false ∨ 1 < o.toNat) (s : State) :
    loadWindowRequest [bh, bl, sh, sl, o] s = refused s .range := by
  rcases h with h | h
  · cases ho : parseYesNo o <;> simp [loadWindowRequest, h, ho]
  · simp [loadWindowRequest, parseYesNo_of_gt h]

theorem SeriesEntry.resolve_of_invalid {e : SeriesEntry} (h : e.valid = false) (serial : Nat) :
    e.resolve serial = .refuse .unknownSeries := by
  simp [SeriesEntry.resolve, h]

theorem SeriesEntry.resolve_of_valid {e : SeriesEntry} {serial : Nat} (hv : e.valid = true)
    (hb : e.barred = false) (hs : serial < e.span) :
    e.resolve serial = .row (e.base + serial) e.onlineOnly := by
  simp [SeriesEntry.resolve, hv, hb, hs]

/-- Settles O29: each request is refused by its octets or by its stretch of the Card Table, and else
writes its entry. -/
theorem seriesAndWindowLoaded : Obligations.SeriesAndWindowLoaded := by
  unfold Obligations.SeriesAndWindowLoaded
  refine ⟨fun s tag n v b o bh bl sh sl h => ⟨fun hout => ?seriesRefused,
      fun hn hbase hspan hspan' hend hv hb ho => ?seriesLoaded⟩,
    fun e serial => ⟨SeriesEntry.resolve_of_invalid rfl serial,
      fun hb hs => SeriesEntry.resolve_of_valid rfl hb hs⟩,
    fun s tag bh bl sh sl o h => ⟨fun hout => ?windowRefused,
      fun hbase hspan hspan' hend ho => ?windowLoaded⟩⟩
  case seriesRefused =>
    refine exec_loadSeries_of_carries h (r := refused s .range) ?_
    by_cases hyesNo : 1 < v.toNat ∨ 1 < b.toNat ∨ 1 < o.toNat
    · exact loadSeriesRequest_of_yesNo_gt hyesNo ..
    · simp only [not_or, Nat.not_lt] at hyesNo
      obtain ⟨hv, hb, ho⟩ := hyesNo
      refine (loadSeriesRequest_of_yesNo_le hv hb ho ..).trans (State.loadSeries_of_not_inRange ?_)
      by_cases hn : n = 255
      · exact Or.inl hn
      · refine Or.inr (Bool.eq_false_iff.2 fun hin => ?_)
        have hin' := stretchInRange_iff.1 hin
        dsimp only at hin'
        simp only [hn, false_or] at hout
        omega
  case seriesLoaded =>
    have hr := (loadSeriesRequest_of_yesNo_le hv hb ho n bh bl sh sl s).trans
      (State.loadSeries_of_inRange hn (stretchInRange_iff.2 ⟨hbase, hspan, hspan', hend⟩))
    simp only [be16_u16, yesNo_parse hv, yesNo_parse hb, yesNo_parse ho] at hr
    refine ⟨_, exec_loadSeries_of_carries h hr, fun k => ?_, State.replied_writeSeries_restored ..⟩
    exact (State.replied_seriesRow ..).trans (State.seriesRow_writeSeries ..)
  case windowRefused =>
    refine exec_loadWindow_of_carries h (r := refused s .range) (loadWindowRequest_of_not_inRange ?_ s)
    by_cases ho : 1 < o.toNat
    · exact Or.inr ho
    · refine Or.inl (Bool.eq_false_iff.2 fun hin => ?_)
      have hin' := stretchInRange_iff.1 hin
      omega
  case windowLoaded =>
    exact exec_loadWindow_of_carries h (loadWindowRequest_of_inRange
      (stretchInRange_iff.2 ⟨hbase, hspan, hspan', hend⟩) ho s)

end Sys2Proof.Machine
end

section
/-! PROOF. The segments' requests and small events: SET SEGMENT (R138), POLL CONTROL (R145), the opening of a
window and the end of an empty cycle (R131, R144), and the timers of the link (R170, R176). -/

namespace Sys2Proof.Machine

/-! ### Segments -/

/-- Two edits that agree on the segment as it stands leave the same state. -/
theorem State.editSeg_congr {s : State} {g : Seg} {f f' : Segment → Segment}
    (h : f (s.seg g) = f' (s.seg g)) : s.editSeg g f = s.editSeg g f' := by
  cases g
  · exact congrArg (fun x => { s with segA := x }) h
  · exact congrArg (fun x => { s with segB := x }) h

/-- An edit that keeps the segment as it stands leaves the state. -/
theorem State.editSeg_of_eq {s : State} {g : Seg} {f : Segment → Segment} (h : f (s.seg g) = s.seg g) :
    s.editSeg g f = s := by
  rw [State.editSeg_congr (f' := id) h]
  cases g <;> rfl

theorem State.editSeg_editSeg (s : State) (g : Seg) (f f' : Segment → Segment) :
    (s.editSeg g f).editSeg g f' = s.editSeg g (f' ∘ f) := by cases g <;> rfl

theorem State.seg_editSeg_same (s : State) (g : Seg) (f : Segment → Segment) :
    (s.editSeg g f).seg g = f (s.seg g) := by rw [State.seg_editSeg, if_pos rfl]

theorem parseSeg_of_le {o : Octet} (h : o.toNat ≤ 1) :
    parseSeg o = some (if o = 0 then .a else .b) := by
  rcases Octet.le_one_iff.1 h with rfl | rfl <;> rfl

theorem parseSeg_of_gt {o : Octet} (h : 1 < o.toNat) : parseSeg o = none := by
  have h0 : o ≠ 0 := by rintro rfl; exact absurd h (by decide)
  have h1 : o ≠ 1 := by rintro rfl; exact absurd h (by decide)
  simp only [parseSeg, h0, h1, if_false]

/-! ### SET SEGMENT -/

theorem exec_setSegment_of_carries {s : State} {tag : Octet} {args : List Octet} {r : Answered}
    (h : s.Carries tag (0x05 :: args)) (hr : setSegmentRequest args s = r) :
    exec .setSegment s = .next (r.state.replied tag 0x05 r.result r.data) :=
  congrArg _ (State.serve_answers (f := setSegmentRequest) h rfl hr)

theorem setSegmentRequest_of_not_fits {seg rh rl timeout : Octet}
    (h : ¬ (seg.toNat ≤ 1 ∧ (u16 rh rl = 9600 ∨ u16 rh rl = 19200 ∨ u16 rh rl = 38400) ∧
      5 ≤ timeout.toNat ∧ timeout.toNat ≤ 250)) (s : State) :
    setSegmentRequest [seg, rh, rl, timeout] s = refused s .range := by
  by_cases hseg : seg.toNat ≤ 1
  · simp only [setSegmentRequest, parseSeg_of_le hseg]
    refine if_neg fun hfit => h ⟨hseg, ?_⟩
    simpa [or_assoc, and_assoc] using hfit
  · simp only [setSegmentRequest, parseSeg_of_gt (Nat.not_le.1 hseg)]

theorem setSegmentRequest_of_fits {seg rh rl timeout : Octet} (hseg : seg.toNat ≤ 1)
    (hrate : u16 rh rl = 9600 ∨ u16 rh rl = 19200 ∨ u16 rh rl = 38400)
    (htime : 5 ≤ timeout.toNat ∧ timeout.toNat ≤ 250) (s : State) :
    setSegmentRequest [seg, rh, rl, timeout] s =
      s.setSegment (if seg = 0 then .a else .b) (u16 rh rl) timeout.toNat := by
  simp only [setSegmentRequest, parseSeg_of_le hseg]
  refine if_pos ?_
  simpa [or_assoc, and_assoc] using And.intro hrate htime

/-- Settles O40: the ranges of the request, then the polling state. -/
theorem setSegmentWhileStopped : Obligations.SetSegmentWhileStopped := by
  unfold Obligations.SetSegmentWhileStopped
  intro s tag seg rh rl timeout h
  refine ⟨fun hout => ?range, fun ⟨hseg, hrate, htime⟩ hpoll => ?busy,
    fun ⟨hseg, hrate, htime⟩ hpoll => ?written⟩
  case range => exact exec_setSegment_of_carries h (setSegmentRequest_of_not_fits hout s)
  case busy =>
    refine exec_setSegment_of_carries h (r := refused s .busy)
      ((setSegmentRequest_of_fits hseg hrate htime s).trans ?_)
    exact if_neg hpoll
  case written =>
    refine (exec_setSegment_of_carries h
      ((setSegmentRequest_of_fits hseg hrate htime s).trans (if_pos hpoll))).trans ?_
    simp only [accepted, hpoll, PollState.code, octet_toNat, flagOctet, be16_u16]
    rfl

/-! ### POLL CONTROL -/

/-- A POLL CONTROL that an act serves, in an event that makes no pass due, reports the segment after it
(R145). -/
theorem pollControlRequest_of_le {act : Seg → State → State} {seg action : Octet} {s : State} {g : Seg}
    (hseg : parseSeg seg = some g) (ha : action.toNat ≤ 3) (hs : (act g s).Settled) :
    pollControlRequest act [seg, action] s =
      accepted (act g s) (pollReport ((act g s).seg g)) := by
  simp only [pollControlRequest, hseg, ha, if_true, State.endEvent_of_settled hs]

theorem pollControlRequest_of_not_fits {act : Seg → State → State} {seg action : Octet}
    (h : 3 < action.toNat ∨ 1 < seg.toNat) (s : State) :
    pollControlRequest act [seg, action] s = refused s .range := by
  by_cases hseg : seg.toNat ≤ 1
  · have ha : ¬ action.toNat ≤ 3 := Nat.not_le.2 (h.resolve_right (Nat.not_lt.2 hseg))
    simp only [pollControlRequest, parseSeg_of_le hseg, ha, if_false]
  · simp only [pollControlRequest, parseSeg_of_gt (Nat.not_le.1 hseg)]

/-- A station in any state but two can be polled in some cycle (R144). -/
theorem StationState.live_iff {st : StationState} : st.live = true ↔ st ≠ .absent ∧ st ≠ .cutOff := by
  cases st <;> simp [StationState.live, StationState.polled]

theorem State.anyLive_iff {s : State} {g : Seg} :
    s.anyLive g = true ↔
      ∃ a ∈ segAddrs g, (s.station a).state ≠ .absent ∧ (s.station a).state ≠ .cutOff := by
  simp only [State.anyLive, List.any_eq_true, StationState.live_iff]

theorem State.foldl_readStation_of_good {s : State} {addrs : List Nat}
    (h : ∀ a ∈ addrs, (s.stationRow a).bad = false) : addrs.foldl State.readStation s = s := by
  induction addrs with
  | nil => rfl
  | cons a addrs ih =>
    rw [List.foldl_cons, State.readStation_of_good (h a List.mem_cons_self)]
    exact ih fun b hb => h b (List.mem_cons_of_mem _ hb)

/-- A segment whose entries read good is read without effect. -/
theorem State.readSegment_of_good {s : State} {g : Seg}
    (h : ∀ a ∈ segAddrs g, (s.stationRow a).bad = false) : s.readSegment g = s :=
  State.foldl_readStation_of_good h

/-- What POLL CONTROL reports, by the polling state. -/
theorem pollReport_eq (y : Segment) :
    pollReport y =
      (match y.polling with
        | .running => [y.state.code, 0, 0, 0]
        | .stopping p => [y.state.code, 1, 1, p.code]
        | .stopped => [y.state.code, 2, 0, 0]) ++
        be16 y.cycleCount ++ [octet y.position] ++ be16 y.stray ++
        [octet y.answers.length, octet y.relays.length, octet y.cfgList.length] := by
  cases hy : y.polling <;> simp [pollReport, hy, PollState.code, PollState.stopPoint, optional]

/-- A POLL CONTROL served by an act that makes of the segment `y` is answered so. -/
theorem serve_pollControl {s : State} {tag seg action : Octet} {mine : List Octet → Bool}
    {act : Seg → State → State} {g : Seg} {y : Segment} (h : s.Carries tag [0x06, seg, action])
    (hs : s.Settled) (hm : mine [seg, action] = true) (hseg : parseSeg seg = some g)
    (ha : action.toNat ≤ 3) (hact : act g s = s.editSeg g fun _ => y) :
    s.serve 0x06 mine (pollControlRequest act) =
      (s.editSeg g fun _ => y).replied tag 0x06 .accepted
        ((match y.polling with
          | .running => [y.state.code, 0, 0, 0]
          | .stopping p => [y.state.code, 1, 1, p.code]
          | .stopped => [y.state.code, 2, 0, 0]) ++
          be16 y.cycleCount ++ [octet y.position] ++ be16 y.stray ++
          [octet y.answers.length, octet y.relays.length, octet y.cfgList.length]) := by
  have hsettled : (act g s).Settled := by rw [hact]; exact (congrArg _ (State.editSeg_dispatch ..)).trans hs
  have hr := pollControlRequest_of_le hseg ha hsettled
  rw [hact, State.seg_editSeg_same, pollReport_eq] at hr
  exact State.serve_answers h hm hr

theorem State.editSeg_self (s : State) (g : Seg) : (s.editSeg g fun _ => s.seg g) = s :=
  State.editSeg_of_eq rfl

/-- A turn falls due on an idle segment, and one that is due stays so (R135). -/
theorem State.turnDueIfIdle_eq (s : State) (g : Seg) :
    s.turnDueIfIdle g = s.editSeg g fun x =>
      { x with turnDue := x.turnDue || (x.state = .up && x.window.isNone && x.pollOut.isNone) } := by
  refine State.editSeg_congr ?_
  show (if (s.seg g).idle = true then _ else _) =
    { s.seg g with turnDue := (s.seg g).turnDue || (s.seg g).idle }
  cases (s.seg g).idle <;> simp

/-- START on a segment that does not poll makes a turn due where it is idle (R145, R135). -/
theorem State.startPolling_eq {s : State} {g : Seg} :
    s.startPolling g = s.editSeg g fun _ =>
      if (s.seg g).polling = .running then s.seg g
      else { s.seg g with polling := .running,
                          turnDue := (s.seg g).turnDue ||
                            ((s.seg g).state = .up &&
                              !((s.seg g).window.isSome || (s.seg g).pollOut.isSome)) } := by
  unfold State.startPolling
  split_ifs with hp
  · exact (State.editSeg_self s g).symm
  · rw [State.turnDueIfIdle_eq, State.editSeg_editSeg]
    exact State.editSeg_congr (by simp [Bool.and_assoc])

/-- Settles O41: the ranges, then R145's table, an action at a time. -/
theorem pollControlActions : Obligations.PollControlActions := by
  unfold Obligations.PollControlActions
  intro s tag seg action hs h
  refine ⟨fun code cmd hcmd hout => ?refused, fun hseg => ⟨fun ha => ?none, fun ha => ?stopNow,
    fun ha hgood => ⟨fun hp => ?afterCycleHeld, fun hp hopen => ?afterCycle, fun hp hopen hlive => ?dead⟩,
    fun ha => ?start⟩⟩
  case refused =>
    have hmine : actionIs code 3 [seg, action] = true := by
      rcases hout with hgt | ⟨rfl, -⟩
      · exact actionIs_of_gt hgt
      · exact actionIs_self ..
    have hanswer : ∀ act, s.serve 0x06 (actionIs code 3) (pollControlRequest act) =
        s.replied tag 0x06 .range [] := fun act =>
      State.serve_answers h hmine (pollControlRequest_of_not_fits (hout.imp_right And.right) s)
    simp only [List.mem_cons, List.not_mem_nil, Prod.mk.injEq, or_false] at hcmd
    rcases hcmd with ⟨rfl, rfl⟩ | ⟨rfl, rfl⟩ | ⟨rfl, rfl⟩ | ⟨rfl, rfl⟩ <;>
      exact congrArg _ (hanswer _)
  case none =>
    subst ha
    exact congrArg _ (serve_pollControl h hs (actionIs_self ..) (parseSeg_of_le hseg) (by decide)
      (State.editSeg_self ..).symm)
  case stopNow =>
    subst ha
    exact congrArg _ (serve_pollControl h hs (actionIs_self ..) (parseSeg_of_le hseg) (by decide)
      (State.editSeg_congr (by unfold Segment.stopNow Segment.awaitsReply; split_ifs <;> rfl)))
  case afterCycleHeld =>
    subst ha
    exact congrArg _ (serve_pollControl h hs (actionIs_self ..) (parseSeg_of_le hseg) (by decide)
      ((if_neg hp).trans (State.editSeg_self ..).symm))
  case afterCycle =>
    subst ha
    refine congrArg _ (serve_pollControl h hs (actionIs_self ..) (parseSeg_of_le hseg) (by decide)
      ((if_pos hp).trans ?_))
    rw [State.readSegment_of_good hgood]
    refine (if_pos ?_).trans (State.editSeg_congr rfl)
    exact Bool.or_eq_true_iff.2 (hopen.imp_right State.anyLive_iff.2)
  case dead =>
    subst ha
    refine congrArg _ (serve_pollControl h hs (actionIs_self ..) (parseSeg_of_le hseg) (by decide)
      ((if_pos hp).trans ?_))
    rw [State.readSegment_of_good hgood]
    refine (if_neg fun hor => ?_).trans (State.editSeg_congr rfl)
    rcases Bool.or_eq_true_iff.1 hor with ho | hl
    · exact Bool.false_ne_true (hopen.symm.trans ho)
    · exact hlive (State.anyLive_iff.1 hl)
  case start =>
    subst ha
    exact congrArg _ (serve_pollControl h hs (actionIs_self ..) (parseSeg_of_le hseg) (by decide)
      State.startPolling_eq)

/-! ### REPLY_WINDOW_OPEN and EMPTY_CYCLE_END -/

/-- Settles O58: the POLL on the line, and the empty cycle waited out. -/
theorem windowOpensAndEmptyCycleEnds : Obligations.WindowOpensAndEmptyCycleEnds := by
  unfold Obligations.WindowOpensAndEmptyCycleEnds
  intro s g
  refine ⟨fun h => ?noPoll, fun addr h => ?opens, fun h => ?noWait, fun h => ?ends⟩
  case noPoll => simp only [exec, execReplyWindowOpen, h]
  case opens =>
    simp only [exec, execReplyWindowOpen, h]
    exact congrArg _ (State.editSeg_congr rfl)
  case noWait =>
    exact congrArg _ (if_neg (by simp [h]))
  case ends =>
    refine congrArg _ ((if_pos h).trans (State.editSeg_congr ?_))
    cases hp : (s.seg g).polling <;> simp [nextCycle, PollState.settle]

/-! ### The timers of the link -/

theorem reached_iff {now expiry : Word32} :
    reached now expiry = true ↔ (now - expiry).toNat < 2147483648 := decide_eq_true_iff

theorem not_reached {now expiry : Word32} (h : 2147483648 ≤ (now - expiry).toNat) :
    ¬ reached now expiry = true := fun hr => Nat.not_lt.2 h (reached_iff.1 hr)

/-- Settles O44: a timer that is stopped, one whose second is to come, and one whose second is reached. -/
theorem linkTimersExpire : Obligations.LinkTimersExpire := by
  unfold Obligations.LinkTimersExpire
  intro s
  refine ⟨fun h => ?stopped, fun x h => ⟨fun hx => ?early, fun hx hi => ?islands, fun hx hi => ?again⟩,
    fun h => ?batchStopped, fun x h => ⟨fun hx => ?batchEarly, fun hx => ?ended⟩⟩
  case stopped => simp only [exec, execSupervisionExpiry, h]
  case early => simp only [exec, execSupervisionExpiry, h, not_reached hx, if_false, Bool.false_eq_true]
  case islands =>
    simp only [exec, execSupervisionExpiry, h, reached_iff.2 hx, if_true, hi, if_false,
      Bool.false_eq_true]
    rfl
  case again =>
    simp only [exec, execSupervisionExpiry, h, reached_iff.2 hx, if_true, if_pos hi]
    rfl
  case batchStopped => simp only [exec, execCoalescingExpiry, h]
  case batchEarly => simp only [exec, execCoalescingExpiry, h, not_reached hx, if_false, Bool.false_eq_true]
  case ended =>
    simp only [exec, execCoalescingExpiry, h, reached_iff.2 hx, if_true]
    rfl

end Sys2Proof.Machine
end

section
/-! PROOF. Requests whose body has no length of the table's, or no code of it, are answered without data and
change nothing (R163). -/

namespace Sys2Proof.Machine

/-! ### Unknown requests -/

theorem exec_unknownRequest_of_empty {s : State} {tag : Octet} (h : s.Carries tag []) :
    exec .unknownRequest s = .next (s.replied tag 0x00 .unknownRequest []) := by
  simp only [exec, execUnknownRequest, h]
  rfl

theorem exec_unknownRequest_of_code {s : State} {tag c : Octet} {args : List Octet}
    (h : s.Carries tag (c :: args)) (hc : c ∉ knownCodes) :
    exec .unknownRequest s = .next (s.replied tag c .unknownRequest []) := by
  simp only [exec, execUnknownRequest, h, if_neg hc]
  rfl

/-! ### Wrong lengths -/

/-- The requests of one length: code, length of the operands, command, and what carries it out (R162). -/
def fixedRequests : List (Octet × Nat × Instr × (List Octet → State → Answered)) :=
  [(0x01, 6, .loadStation, loadStationRequest), (0x02, 1, .removeStation, removeStationRequest),
    (0x03, 1, .readStation, readStationRequest), (0x04, 3, .clearStationErrors, clearStationErrorsRequest),
    (0x05, 4, .setSegment, setSegmentRequest), (0x13, 1, .readContainer, readContainerRequest),
    (0x14, 3, .clearContainerFlags, clearContainerFlagsRequest), (0x20, 8, .loadSeries, loadSeriesRequest),
    (0x21, 5, .loadWindow, loadWindowRequest), (0x23, 5, .adjustBalance, adjustBalanceRequest),
    (0x24, 2, .readCard, readCardRequest), (0x30, 9, .giveTicket, giveTicketRequest),
    (0x31, 1, .recallTicket, recallTicketRequest), (0x32, 1, .retireTicket, retireTicketRequest),
    (0x33, 1, .readTicket, readTicketRequest), (0x40, 1, .readJournal, readJournalRequest),
    (0x41, 4, .releaseJournal, releaseJournalRequest), (0x50, 2, .loadKind, loadKindRequest),
    (0x51, 1, .setUnknownRoute, setUnknownRouteRequest), (0x52, 4, .setClock, setClockRequest),
    (0x53, 7, .setParameters, setParametersRequest), (0x54, 1, .readStatus, readStatusRequest),
    (0x55, 0, .readFaultCapture, readFaultCaptureRequest), (0x56, 0, .restart, restartRequest)]

/-- The requests with an action: code, action, last action, length of the operands, command, and what
carries it out (R162). -/
def actionRequests : List (Octet × Octet × Octet × Nat × Instr × (List Octet → State → Answered)) :=
  [(0x06, 0, 3, 2, .pollControlNone, pollControlRequest fun _ s => s),
    (0x06, 1, 3, 2, .pollControlStopNow, pollControlRequest fun g s => s.editSeg g Segment.stopNow),
    (0x06, 2, 3, 2, .pollControlStopAfterCycle, pollControlRequest State.stopAfterCycle),
    (0x06, 3, 3, 2, .pollControlStart, pollControlRequest State.startPolling),
    (0x10, 0, 1, 3, .loadStreamLoad, loadStreamRequest streamLoad),
    (0x10, 1, 1, 3, .loadStreamUnload, loadStreamRequest streamUnload),
    (0x12, 0, 1, 2, .setContainerServiceOut, serviceRequest serviceOut),
    (0x12, 1, 1, 2, .setContainerServiceIn, serviceRequest serviceIn)]

/-- Each command serves its code, some with the end of the event behind (R99). -/
theorem exec_fixedRequest {code : Octet} {n : Nat} {cmd : Instr} {f : List Octet → State → Answered}
    (h : (code, n, cmd, f) ∈ fixedRequests) (s : State) :
    exec cmd s = .next (s.serve code anyArgs f) ∨ exec cmd s = .next (s.serve code anyArgs f).endEvent := by
  simp only [fixedRequests, List.mem_cons, List.not_mem_nil, Prod.mk.injEq, or_false] at h
  rcases h with h | h | h | h | h | h | h | h | h | h | h | h | h | h | h | h | h | h | h | h | h | h | h |
    h <;> obtain ⟨rfl, rfl, rfl, rfl⟩ := h
  all_goals first | exact Or.inl rfl | exact Or.inr rfl

/-- A body of another length matches no request's operands (R163). -/
theorem fixedRequest_of_length {code : Octet} {n : Nat} {cmd : Instr} {f : List Octet → State → Answered}
    (h : (code, n, cmd, f) ∈ fixedRequests) {args : List Octet} (hn : args.length ≠ n) (s : State) :
    f args s = wrongLength s := by
  simp only [fixedRequests, List.mem_cons, List.not_mem_nil, Prod.mk.injEq, or_false] at h
  rcases h with h | h | h | h | h | h | h | h | h | h | h | h | h | h | h | h | h | h | h | h | h | h | h |
    h <;> obtain ⟨rfl, rfl, rfl, rfl⟩ := h
  all_goals
    simp only [loadStationRequest, removeStationRequest, readStationRequest, clearStationErrorsRequest,
      setSegmentRequest, readContainerRequest, clearContainerFlagsRequest, loadSeriesRequest,
      loadWindowRequest, adjustBalanceRequest, readCardRequest, giveTicketRequest, recallTicketRequest,
      retireTicketRequest, readTicketRequest, readJournalRequest, releaseJournalRequest, loadKindRequest,
      setUnknownRouteRequest, setClockRequest, setParametersRequest, readStatusRequest,
      readFaultCaptureRequest, restartRequest]
    split
    · exact absurd rfl hn
    · rfl

theorem exec_actionRequest {code a last : Octet} {n : Nat} {cmd : Instr}
    {f : List Octet → State → Answered} (h : (code, a, last, n, cmd, f) ∈ actionRequests) (s : State) :
    exec cmd s = .next (s.serve code (actionIs a last) f) ∨
      exec cmd s = .next (s.serve code (actionIs a last) f).endEvent := by
  simp only [actionRequests, List.mem_cons, List.not_mem_nil, Prod.mk.injEq, or_false] at h
  rcases h with h | h | h | h | h | h | h | h <;> obtain ⟨rfl, rfl, rfl, rfl, rfl, rfl⟩ := h
  all_goals first | exact Or.inl rfl | exact Or.inr rfl

theorem length_of_actionRequest {code a last : Octet} {n : Nat} {cmd : Instr}
    {f : List Octet → State → Answered} (h : (code, a, last, n, cmd, f) ∈ actionRequests) : 2 ≤ n := by
  have hall : ∀ r ∈ actionRequests, 2 ≤ r.2.2.2.1 := by simp [actionRequests]
  exact hall _ h

theorem actionRequest_of_length {code a last : Octet} {n : Nat} {cmd : Instr}
    {f : List Octet → State → Answered} (h : (code, a, last, n, cmd, f) ∈ actionRequests)
    {args : List Octet} (hn : args.length ≠ n) (s : State) : f args s = wrongLength s := by
  simp only [actionRequests, List.mem_cons, List.not_mem_nil, Prod.mk.injEq, or_false] at h
  rcases h with h | h | h | h | h | h | h | h <;> obtain ⟨rfl, rfl, rfl, rfl, rfl, rfl⟩ := h
  all_goals
    simp only [pollControlRequest, loadStreamRequest, serviceRequest]
    split
    · exact absurd rfl hn
    · rfl

/-- A request answered LENGTH is so whether or not the event's end follows (R163). -/
theorem exec_of_wrongLength {s : State} {tag code : Octet} {args : List Octet} {cmd : Instr}
    {mine : List Octet → Bool} {f : List Octet → State → Answered} (hs : s.Settled)
    (hcmd : exec cmd s = .next (s.serve code mine f) ∨ exec cmd s = .next (s.serve code mine f).endEvent)
    (h : s.Carries tag (code :: args)) (hm : mine args = true) (hf : f args s = wrongLength s) :
    exec cmd s = .next (s.replied tag code .length []) := by
  rcases hcmd with hcmd | hcmd
  · exact hcmd.trans (congrArg _ (State.serve_answers h hm hf))
  · exact hcmd.trans (congrArg _ (State.serve_answers_settled h hm hf hs))

/-! ### LOAD CONTAINER -/

theorem exec_loadContainerLoad_of_carries {s : State} {tag : Octet} {args : List Octet} {r : Answered}
    (h : s.Carries tag (0x11 :: args)) (hm : actionIs 0 1 args = true)
    (hr : containerLoadRequest args s = r) (hs : r.state.Settled) :
    exec .loadContainerLoad s = .next (r.state.replied tag 0x11 r.result r.data) :=
  congrArg _ (State.serve_answers_settled (f := containerLoadRequest) h hm hr hs)

theorem exec_loadContainerUnload_of_carries {s : State} {tag : Octet} {args : List Octet} {r : Answered}
    (h : s.Carries tag (0x11 :: args)) (hm : actionIs 1 1 args = true)
    (hr : containerUnloadRequest args s = r) (hs : r.state.Settled) :
    exec .loadContainerUnload s = .next (r.state.replied tag 0x11 r.result r.data) :=
  congrArg _ (State.serve_answers_settled (f := containerUnloadRequest) h hm hr hs)

theorem containerLoadRequest_of_action_gt {action : Octet} (h : 1 < action.toNat) (row : Octet)
    (fields : List Octet) (s : State) :
    containerLoadRequest (row :: action :: fields) s = refused s .range := if_pos h

theorem containerUnloadRequest_of_action_gt {action : Octet} (h : 1 < action.toNat) (row : Octet)
    (fields : List Octet) (s : State) :
    containerUnloadRequest (row :: action :: fields) s = refused s .range := if_pos h

theorem parseConfig_of_length {os : List Octet} (h : os.length ≠ 24) : parseConfig os = none := by
  unfold parseConfig
  split
  · exact absurd rfl h
  · rfl

theorem containerLoadRequest_of_length {fields : List Octet} (h : fields.length ≠ 24) (row : Octet)
    (s : State) : containerLoadRequest (row :: 0 :: fields) s = wrongLength s := by
  simp [containerLoadRequest, parseConfig_of_length h]

theorem containerUnloadRequest_of_length {fields : List Octet} (h : fields ≠ []) (row : Octet)
    (s : State) : containerUnloadRequest (row :: 1 :: fields) s = wrongLength s := by
  cases fields with
  | nil => exact absurd rfl h
  | cons _ _ => rfl

/-- A body too short to hold the action belongs to the row of every action (log entry 21). -/
theorem actionIs_of_short {args : List Octet} (h : args.length < 2) (a last : Octet) :
    actionIs a last args = true := by
  match args, h with
  | [], _ => rfl
  | [_], _ => rfl

theorem containerLoadRequest_of_short {args : List Octet} (h : args.length < 2) (s : State) :
    containerLoadRequest args s = wrongLength s := by
  match args, h with
  | [], _ => rfl
  | [_], _ => rfl

theorem containerUnloadRequest_of_short {args : List Octet} (h : args.length < 2) (s : State) :
    containerUnloadRequest args s = wrongLength s := by
  match args, h with
  | [], _ => rfl
  | [_], _ => rfl

/-! ### LOAD CARDS -/

theorem exec_loadCards_of_carries {s : State} {tag : Octet} {args : List Octet} {r : Answered}
    (h : s.Carries tag (0x22 :: args)) (hr : loadCardsRequest args s = r) :
    exec .loadCards s = .next (r.state.replied tag 0x22 r.result r.data) :=
  congrArg _ (State.serve_answers (f := loadCardsRequest) h rfl hr)

/-- A body that parses has ten octets to a record (R162). -/
theorem length_of_parseRecords {n : Nat} {os : List Octet} {rs : List CardRecord}
    (h : parseRecords n os = some rs) : os.length = 10 * n := by
  fun_induction parseRecords n os generalizing rs with
  | case1 => rfl
  | case2 n rh rl st sr zr bh bl lim ph pl rest ih =>
    obtain ⟨rs', hrs', -⟩ := Option.map_eq_some_iff.1 h
    simp only [List.length_cons, ih hrs']
    omega
  | case3 => exact absurd h (by simp)

theorem loadCardsRequest_of_length {count : Octet} {rest : List Octet}
    (h : count = 0 ∨ 8 < count.toNat ∨ rest.length ≠ 10 * count.toNat) (s : State) :
    loadCardsRequest (count :: rest) s = wrongLength s := by
  by_cases hcount : 1 ≤ count.toNat ∧ count.toNat ≤ 8
  · have hlen : rest.length ≠ 10 * count.toNat := by
      rcases h with rfl | h | h
      · exact absurd hcount.1 (by decide)
      · omega
      · exact h
    have hnone : parseRecords count.toNat rest = none := by
      cases hp : parseRecords count.toNat rest with
      | none => rfl
      | some rs => exact absurd (length_of_parseRecords hp) hlen
    simp [loadCardsRequest, hcount, hnone]
  · exact if_neg (by simpa using hcount)

/-! ### The obligation -/

/-- Settles O17: the two tables of the fixed lengths, with LOAD CONTAINER and LOAD CARDS beside them. -/
theorem malformedRequestsAnswered : Obligations.MalformedRequestsAnswered := by
  unfold Obligations.MalformedRequestsAnswered
  refine ⟨fun s tag h => exec_unknownRequest_of_empty h,
    fun s tag c args h hc => exec_unknownRequest_of_code h hc,
    fun code n cmd hrow s tag args hs hn h => ?fixed,
    fun code a last n cmd hrow s tag hs => ?actions,
    fun s tag x action rest hs ha h => ⟨?loadRange, ?unloadRange⟩,
    fun s tag h => exec_loadCards_of_carries h rfl,
    fun s tag count rest hbad h => exec_loadCards_of_carries h (loadCardsRequest_of_length hbad s)⟩
  case fixed =>
    have hmem : (code, n, cmd) ∈ fixedRequests.map fun r => (r.1, r.2.1, r.2.2.1) := hrow
    obtain ⟨⟨_, _, _, f⟩, hf, he⟩ := List.mem_map.1 hmem
    cases he
    exact exec_of_wrongLength hs (exec_fixedRequest hf s) h rfl (fixedRequest_of_length hf hn s)
  case actions =>
    have hmem : (code, a, last, n, cmd) ∈
        (actionRequests.map fun r => (r.1, r.2.1, r.2.2.1, r.2.2.2.1, r.2.2.2.2.1)) ++
          [(0x11, 0, 255, 26, .loadContainerLoad), (0x11, 1, 255, 2, .loadContainerUnload)] := hrow
    rcases List.mem_append.1 hmem with hmem | hmem
    · obtain ⟨⟨_, _, _, _, _, f⟩, hf, he⟩ := List.mem_map.1 hmem
      simp only [Prod.mk.injEq] at he
      obtain ⟨rfl, rfl, rfl, rfl, rfl⟩ := he
      have hn2 := length_of_actionRequest hf
      refine ⟨fun args hshort h => ?_, fun x action rest ha hn h => ?_⟩
      · exact exec_of_wrongLength hs (exec_actionRequest hf s) h (actionIs_of_short hshort ..)
          (actionRequest_of_length hf (hshort.trans_le hn2).ne s)
      · refine exec_of_wrongLength hs (exec_actionRequest hf s) h ?_
          (actionRequest_of_length hf (args := x :: action :: rest) hn s)
        rcases ha with rfl | ha
        · exact actionIs_self ..
        · exact actionIs_of_gt ha
    · have hlast (action : Octet) : ¬ (255 : Octet).toNat < action.toNat := by
        have := action.isLt
        exact Nat.not_lt.2 (Nat.le_of_lt_succ this)
      simp only [List.mem_cons, List.not_mem_nil, Prod.mk.injEq, or_false] at hmem
      rcases hmem with ⟨rfl, rfl, rfl, rfl, rfl⟩ | ⟨rfl, rfl, rfl, rfl, rfl⟩
      · refine ⟨fun args hshort h => ?_, fun x action rest ha hn h => ?_⟩
        · exact exec_loadContainerLoad_of_carries h (actionIs_of_short hshort ..)
            (containerLoadRequest_of_short hshort s) hs
        · obtain rfl := ha.resolve_right (hlast action)
          exact exec_loadContainerLoad_of_carries h (actionIs_self ..)
            (containerLoadRequest_of_length (by omega) x s) hs
      · refine ⟨fun args hshort h => ?_, fun x action rest ha hn h => ?_⟩
        · exact exec_loadContainerUnload_of_carries h (actionIs_of_short hshort ..)
            (containerUnloadRequest_of_short hshort s) hs
        · obtain rfl := ha.resolve_right (hlast action)
          have hne : rest ≠ [] := by
            rintro rfl
            exact hn rfl
          exact exec_loadContainerUnload_of_carries h (actionIs_self ..)
            (containerUnloadRequest_of_length hne x s) hs
  case loadRange =>
    exact exec_loadContainerLoad_of_carries h (actionIs_of_gt ha)
      (containerLoadRequest_of_action_gt ha ..) hs
  case unloadRange =>
    exact exec_loadContainerUnload_of_carries h (actionIs_of_gt ha)
      (containerUnloadRequest_of_action_gt ha ..) hs

end Sys2Proof.Machine
end

section
/-! PROOF. The fill state and its notices (R30 to R33), the checks of LOAD CONTAINER (R5), and the requests on
Card Rows that read good (R49 to R52). -/

namespace Sys2Proof.Machine

/-! ### The fill state -/

/-- R30's table from NONE and from NORMAL. -/
theorem evaluateFill_of_low {f : FillState} (h : f = .none ∨ f = .normal) (cfg : ContainerConfig)
    (e : Nat) :
    evaluateFill cfg f e = if cfg.full ≤ e then .full else if cfg.warn ≤ e then .warn else .normal := by
  rcases h with rfl | rfl <;> rfl

/-- The notice of a fill state change, by the state after it (R31). -/
theorem fillNotice_eq (before after : FillState) (e : Nat) :
    fillNotice before after e =
      if before = after then []
      else if after = .full then [{ kind := .containerFull, payload := be16 e ++ [before.code] }]
      else if after = .normal then [{ kind := .fillNormal, payload := be16 e ++ [before.code] }]
      else if after = .warn ∧ before ≠ .full then
        [{ kind := .fillWarn, payload := be16 e ++ [before.code] }]
      else [] := by
  cases after <;> cases before <;> rfl

theorem arithNotice_of_le {value : Nat} (h : value ≤ 65535) (c : Container) (x : ArithEvent)
    (e : Option Nat) :
    arithNotice c x value e =
      if c.flags.getLsbD x.code = false ∧ c.cfg.reportMask.getLsbD x.code = true then
        [{ kind := .arithmetic, payload := [octet x.code] ++ be16 value ++ be16 (e.getD 65535) }]
      else [] := by
  simp only [arithNotice, setHas, eventValue_of_le h, estimateOctets, Bool.and_eq_true, Bool.not_eq_true',
    List.cons_append, List.nil_append]

/-- Settles O59: the rows of R30's table are the branches of the evaluation. -/
theorem fillStateAndNotices : Obligations.FillStateAndNotices := by
  unfold Obligations.FillStateAndNotices
  refine ⟨fun cfg e => ⟨fun f hf => ?fromLow, ?fromWarn⟩, fun before after e => fillNotice_eq before after e,
    fun c x value e h => arithNotice_of_le h c x e, fun s row => ⟨rfl, fun n rest => rfl⟩⟩
  case fromLow =>
    rw [evaluateFill_of_low hf]
    refine ⟨fun h => if_pos h, fun hw h => ?_, fun hw h => ?_⟩
    · rw [if_neg (Nat.not_le.2 h), if_pos hw]
    · rw [if_neg (by omega), if_neg (by omega)]
  case fromWarn =>
    simp only [evaluateFill]
    refine ⟨fun h => if_pos h, fun hw h => ?_, fun hw h => ?_, fun h => if_pos (by omega), fun hw h => ?_,
      fun hw h => ?_⟩
    · rw [if_neg (Nat.not_le.2 h), if_pos (by omega)]
    · rw [if_neg (by omega), if_neg (by omega)]
    · rw [if_neg (by omega), if_pos (by omega)]
    · rw [if_neg (by omega), if_neg (by omega)]

/-! ### LOAD CONTAINER's checks -/

theorem ContainerConfig.inRange_iff (c : ContainerConfig) : c.inRange = true ↔
    c.stream ≤ 7 ∧ (500 ≤ c.capacity ∧ c.capacity ≤ 5000) ∧ (500 ≤ c.depth ∧ c.depth ≤ 4000) ∧
    (100 ≤ c.deadZone ∧ c.deadZone ≤ 600) ∧ (10 ≤ c.hatchVolume ∧ c.hatchVolume ≤ 200) ∧
    (1 ≤ c.unitCost ∧ c.unitCost ≤ 4) ∧ c.zone ≤ 7 ∧ (1000 ≤ c.warn ∧ c.warn ≤ 9800) ∧
    (1000 ≤ c.full ∧ c.full ≤ 9800) ∧ c.hysteresis ≤ 1000 ∧ (1 ≤ c.gain ∧ c.gain ≤ 16) ∧
    (500 ≤ c.spikeLimit ∧ c.spikeLimit ≤ 10000) ∧ c.qualityMin ≤ 15 ∧ c.residue ≤ 2000 ∧
    (c.deadZone : Int) ≤ (c.depth : Int) - 200 ∧ c.warn < c.full ∧ c.hysteresis < c.warn ∧
    (c.residue : Int) < (c.warn : Int) - (c.hysteresis : Int) := by
  have hdead : (c.deadZone : Int) ≤ (c.depth : Int) - 200 ↔ c.deadZone + 200 ≤ c.depth := by omega
  have hres : (c.residue : Int) < (c.warn : Int) - (c.hysteresis : Int) ↔
      c.residue + c.hysteresis < c.warn := by omega
  rw [hdead, hres]
  simp only [ContainerConfig.inRange, Bool.and_eq_true, decide_eq_true_eq, and_assoc]

/-- LOAD CONTAINER with action LOAD on a body of its length: the fields' ranges, then the stream (R5). -/
theorem containerLoadRequest_of_parse {fields : List Octet} {cfg : ContainerConfig} {grant : Octet}
    (hp : parseConfig fields = some (cfg, grant)) (row : Octet) (s : State) :
    containerLoadRequest (row :: 0 :: fields) s =
      if cfg.inRange = true ∧ grant.toNat ≤ 1 then s.loadOfStream row.toNat cfg
      else refused s .range := by
  have hyes : (parseYesNo grant).isSome = true ↔ grant.toNat ≤ 1 := by
    by_cases h : grant.toNat ≤ 1
    · simp [parseYesNo_of_le h, h]
    · simp [parseYesNo_of_gt (Nat.not_le.1 h), h]
  simp [containerLoadRequest, hp, Bool.and_eq_true, hyes]

/-- A Stream Entry that reads good is read without effect (R16). -/
theorem State.readStream_of_good {s : State} {code : Nat} (h : (s.streamRow code).bad = false) :
    s.readStream code = s := by
  simp [State.readStream, h]

/-- The check of the stream, where its entry reads good (R5). -/
theorem State.loadOfStream_of_good {s : State} {row : Nat} {cfg : ContainerConfig}
    (h : (s.streamRow cfg.stream).bad = false) :
    s.loadOfStream row cfg =
      if (s.streamRow cfg.stream).data.loaded then s.loadUnderStation row cfg
      else refused s .range := by
  simp [State.loadOfStream, State.readStream_of_good h, h]

/-- The check of the station, where the entries read good (R5, R1). -/
theorem State.loadUnderStation_of_good {s : State} {row : Nat} {cfg : ContainerConfig} {e : Station}
    (hst : s.stationRow (rowStation row) = Row.good e) (h : (s.containerRow row).bad = false) :
    s.loadUnderStation row cfg =
      if e.loaded = true ∧ rowSlot row < e.count then s.loadContainer row cfg
      else refused s .state := by
  have hgood : (s.stationRow (rowStation row)).bad = false := by rw [hst]; rfl
  have he : s.station (rowStation row) = e := by rw [State.station, hst]; rfl
  simp [State.loadUnderStation, State.readStation_of_good hgood, he, State.readContainer_of_good h]

theorem State.loadContainer_of_busy {s : State} {row : Nat} {cfg : ContainerConfig}
    (hl : (s.container row).loaded = true)
    (hb : (s.container row).service = .lifting ∨ (s.container row).service = .stalled ∨
      (s.container row).assignment.isSome = true) :
    s.loadContainer row cfg = refused s .state := by
  refine if_pos ?_
  simpa [hl, or_assoc] using hb

/-- Settles O25: the checks one behind the other, each on entries that read good. -/
theorem loadContainerRefusals : Obligations.LoadContainerRefusals := by
  unfold Obligations.LoadContainerRefusals
  refine ⟨ContainerConfig.inRange_iff, fun s tag row fields cfg grant e hs h hp hstream hst hgood =>
    ⟨fun hout => ?range, fun hgrant hin hl hout => ?state⟩⟩
  case range =>
    refine exec_loadContainerLoad_of_carries (r := refused s .range) h (actionIs_self ..)
      ((containerLoadRequest_of_parse hp row s).trans ?_) hs
    by_cases hin : cfg.inRange = true ∧ grant.toNat ≤ 1
    · have hl : ¬ (s.streamRow cfg.stream).data.loaded = true := by
        rcases hout with hg | hc | hl
        · exact absurd hin.2 (Nat.not_le.2 hg)
        · exact absurd hin.1 (by simp [hc])
        · simp [hl]
      rw [if_pos hin, State.loadOfStream_of_good hstream, if_neg hl]
    · exact if_neg hin
  case state =>
    refine exec_loadContainerLoad_of_carries (r := refused s .state) h (actionIs_self ..)
      ((containerLoadRequest_of_parse hp row s).trans ?_) hs
    rw [if_pos ⟨hin, hgrant⟩, State.loadOfStream_of_good hstream, if_pos hl,
      State.loadUnderStation_of_good hst hgood]
    rcases hout with he | hc | ⟨hload, hbusy⟩
    · exact if_neg (by simp [he])
    · exact if_neg fun h => absurd h.2 (Nat.not_lt.2 hc)
    · split_ifs
      · exact State.loadContainer_of_busy hload hbusy
      · rfl

/-! ### LOAD CARDS -/

theorem parseCardState_isSome_iff {o : Octet} : (parseCardState o).isSome = true ↔ o.toNat ≤ 3 := by
  unfold parseCardState
  split_ifs with h0 h1 h2 h3
  · subst h0; decide
  · subst h1; decide
  · subst h2; decide
  · subst h3; decide
  · have hne (n : Nat) (ho : o.toNat = n) : o = BitVec.ofNat 8 n := by subst ho; simp
    have : o.toNat ≠ 0 := fun h => h0 (hne 0 h)
    have : o.toNat ≠ 1 := fun h => h1 (hne 1 h)
    have : o.toNat ≠ 2 := fun h => h2 (hne 2 h)
    have : o.toNat ≠ 3 := fun h => h3 (hne 3 h)
    simp only [Option.isSome_none, Bool.false_eq_true, false_iff]
    omega

theorem parseCardState_eq_empty_iff {o : Octet} : parseCardState o = some .empty ↔ o = 0 := by
  unfold parseCardState
  split_ifs with h0 h1 h2 h3 <;> simp_all

/-- R49's ranges, in the words of the octets. -/
theorem CardRecord.inRange_eq (r : CardRecord) :
    r.inRange = (decide (r.row ≤ 8191) && decide (r.state.toNat ≤ 3) && decide (-255 ≤ r.balance) &&
      decide (r.balance ≤ 32767)) := by
  have h : (parseCardState r.state).isSome = decide (r.state.toNat ≤ 3) := by
    rw [Bool.eq_iff_iff, parseCardState_isSome_iff, decide_eq_true_eq]
  rw [CardRecord.inRange, h]

theorem State.emptiesReserved_eq (s : State) (r : CardRecord) :
    s.emptiesReserved r = (r.state = 0 && 0 < (s.card r.row).reserved : Bool) := by
  rw [State.emptiesReserved]
  simp only [parseCardState_eq_empty_iff]

/-- A Card Row that reads good is read without effect (R57). -/
theorem State.repairCard_of_good {s : State} {row : Nat} (h : (s.cardRow row).bad = false) :
    s.repairCard row = s := by
  simp [State.repairCard, h]

theorem State.foldl_repairCard_of_good {s : State} {rs : List CardRecord}
    (h : ∀ r ∈ rs, (s.cardRow r.row).bad = false) :
    rs.foldl (fun u r => u.repairCard r.row) s = s := by
  induction rs with
  | nil => rfl
  | cons r rs ih =>
    rw [List.foldl_cons, State.repairCard_of_good (h r List.mem_cons_self)]
    exact ih fun q hq => h q (List.mem_cons_of_mem _ hq)

theorem loadCardsRequest_of_parse {count : Octet} {rest : List Octet} {rs : List CardRecord}
    (h1 : 1 ≤ count.toNat) (h8 : count.toNat ≤ 8) (hp : parseRecords count.toNat rest = some rs)
    (s : State) : loadCardsRequest (count :: rest) s = s.loadCards rs := by
  simp [loadCardsRequest, h1, h8, hp]

/-- The first record out of range refuses the request whole (R49). -/
theorem State.loadCards_of_outOfRange {s : State} {rs : List CardRecord} {i : Nat} {r : CardRecord}
    (hr : rs[i]? = some r) (hout : r.inRange = false)
    (hfirst : ∀ j q, j < i → rs[j]? = some q → q.inRange = true) :
    s.loadCards rs = { state := s, result := .range, data := [octet (i + 1)] } := by
  obtain ⟨hi, rfl⟩ := List.getElem?_eq_some_iff.1 hr
  have hfind : rs.findIdx? (fun r => !r.inRange) = some i := by
    rw [List.findIdx?_eq_some_iff_getElem]
    refine ⟨hi, by simp [hout], fun j hj => ?_⟩
    simp [hfirst j _ hj (List.getElem?_eq_getElem (hj.trans hi))]
  simp [State.loadCards, hfind]

/-- With every record in range and every row good, the first that empties a row holding reserved units
refuses it (R49), and else all are written (R50). -/
theorem State.loadCards_of_inRange {s : State} {rs : List CardRecord}
    (hgood : ∀ r ∈ rs, (s.cardRow r.row).bad = false) (hin : ∀ r ∈ rs, r.inRange = true) :
    s.loadCards rs =
      match rs.find? s.emptiesReserved with
      | some r => { state := s, result := .busy, data := be16 r.row }
      | none => accepted (rs.foldl State.loadCard s) [octet rs.length] := by
  have hfind : rs.findIdx? (fun r => !r.inRange) = none := by
    simpa [List.findIdx?_eq_none_iff] using hin
  simp only [State.loadCards, hfind, State.foldl_repairCard_of_good hgood] <;> rfl

/-- A record's write changes the Card Table alone. -/
theorem State.foldl_loadCard_restored (rs : List CardRecord) (s : State) :
    { rs.foldl State.loadCard s with cards := s.cards } = s := by
  induction rs generalizing s with
  | nil => rfl
  | cons r rs ih =>
    exact congrArg (fun t : State => { t with cards := s.cards }) (ih (s.loadCard r))

/-- Every row is as the last record that names it has it (R50). -/
theorem State.cardRow_foldl_loadCard (rs : List CardRecord) (s : State) (row : Nat) :
    (rs.foldl State.loadCard s).cardRow row =
      match rs.reverse.find? (fun r => r.row = row) with
      | some r => Row.good ((s.card row).load r)
      | none => s.cardRow row := by
  induction rs generalizing s with
  | nil => rfl
  | cons r rs ih =>
    have hcell : (s.loadCard r).cardRow row =
        if row = r.row then Row.good ((s.card r.row).load r) else s.cardRow row :=
      State.cardRow_writeCard ..
    rw [List.foldl_cons, ih, List.reverse_cons, List.find?_append]
    cases hlast : rs.reverse.find? (fun r => r.row = row) with
    | some q =>
      simp only [Option.some_or, State.card, hcell]
      by_cases hrow : row = r.row
      · simp [hrow, Row.good, CardRow.load]
      · simp [hrow]
    | none =>
      simp only [Option.none_or, hcell]
      by_cases hrow : row = r.row
      · simp [hrow]
      · simp [hrow, Ne.symm hrow]

theorem length_parseRecords {n : Nat} {os : List Octet} {rs : List CardRecord}
    (h : parseRecords n os = some rs) : rs.length = n := by
  fun_induction parseRecords n os generalizing rs with
  | case1 => cases h; rfl
  | case2 n rh rl st sr zr bh bl lim ph pl rest ih =>
    obtain ⟨rs', hrs', rfl⟩ := Option.map_eq_some_iff.1 h
    rw [List.length_cons, ih hrs']
  | case3 => exact absurd h (by simp)

/-- With the old Card Table put back, an answered state has no trace of a write of cards. -/
theorem State.replied_cards_restored {s t : State} (h : { t with cards := s.cards } = s)
    (tag code : Octet) (r : ResultCode) (data : List Octet) :
    { t.replied tag code r data with cards := s.cards } = s.replied tag code r data := by
  conv_rhs => rw [← h]
  rfl

/-! ### ADJUST BALANCE -/

theorem exec_adjustBalance_of_carries {s : State} {tag : Octet} {args : List Octet} {r : Answered}
    (h : s.Carries tag (0x23 :: args)) (hr : adjustBalanceRequest args s = r) :
    exec .adjustBalance s = .next (r.state.replied tag 0x23 r.result r.data) :=
  congrArg _ (State.serve_answers (f := adjustBalanceRequest) h rfl hr)

theorem adjustBalanceRequest_of_gt {zero : Octet} (h : 1 < zero.toNat) (rh rl ah al : Octet) (s : State) :
    adjustBalanceRequest [rh, rl, ah, al, zero] s = refused s .range := by
  simp [adjustBalanceRequest, parseYesNo_of_gt h]

theorem adjustBalanceRequest_of_le {zero : Octet} (h : zero.toNat ≤ 1) (rh rl ah al : Octet) (s : State) :
    adjustBalanceRequest [rh, rl, ah, al, zero] s =
      if u16 rh rl ≤ 8191 then
        (s.repairCard (u16 rh rl)).adjustBalance (u16 rh rl) (s16 ah al) (zero = 0)
      else refused s .range := by
  simp only [adjustBalanceRequest, parseYesNo_of_le h]

theorem clampBalance_eq (sum : Int) : clampBalance sum = max (-255) (min sum 32767) := by
  unfold clampBalance
  split_ifs <;> omega

theorem State.adjustBalance_of_ne_empty {s : State} {row : Nat} (h : (s.card row).state ≠ .empty)
    (amount : Int) (zero : Bool) :
    s.adjustBalance row amount zero =
      accepted (s.writeCard row ((s.card row).adjust amount zero))
        (be16 row ++ be16s (s.card row).balance ++ be16s ((s.card row).adjust amount zero).balance ++
          [clampCode ((s.card row).balance + amount), octet (s.card row).reserved] ++
          be16 ((s.card row).adjust amount zero).periodDeposits ++ [flagOctet (s.card row).clamped]) :=
  if_neg h

/-- Settles O30: LOAD CARDS by its first failing record, ADJUST BALANCE by the state of its row. -/
theorem cardRowsLoadedAndAdjusted : Obligations.CardRowsLoadedAndAdjusted := by
  unfold Obligations.CardRowsLoadedAndAdjusted
  refine ⟨fun s tag count rest rs h h1 h8 hp hgood => ?cards, fun s tag rh rl ah al zero h =>
    ⟨fun hgt => ?flagRange, fun hle => ⟨fun hrow => ?rowRange, fun hrow hgood hempty => ?empty,
      fun hrow hgood hne => ?adjusts⟩⟩⟩
  case cards =>
    have hexec {r : Answered} (hr : s.loadCards rs = r) :=
      exec_loadCards_of_carries h ((loadCardsRequest_of_parse h1 h8 hp s).trans hr)
    simp only [← CardRecord.inRange_eq, ← State.emptiesReserved_eq]
    refine ⟨fun i r hr hout hfirst => hexec (State.loadCards_of_outOfRange hr hout hfirst),
      fun hin r hr => ?_, fun hin hfree => ?_⟩
    · refine hexec (r := { state := s, result := .busy, data := be16 r.row })
        ((State.loadCards_of_inRange hgood hin).trans ?_)
      rw [show rs.find? s.emptiesReserved = some r from hr]
    · have hnone : rs.find? s.emptiesReserved = none := by simpa using hfree
      refine ⟨_, hexec (r := accepted (rs.foldl State.loadCard s) [count])
        ((State.loadCards_of_inRange hgood hin).trans ?_), fun row => ?_, ?_⟩
      · rw [hnone, length_parseRecords hp, octet_toNat]
      · exact (State.replied_cardRow ..).trans (State.cardRow_foldl_loadCard rs s row)
      · exact State.replied_cards_restored (State.foldl_loadCard_restored rs s) ..
  case flagRange => exact exec_adjustBalance_of_carries h (adjustBalanceRequest_of_gt hgt ..)
  case rowRange =>
    exact exec_adjustBalance_of_carries h (r := refused s .range)
      ((adjustBalanceRequest_of_le hle ..).trans (if_neg (Nat.not_le.2 hrow)))
  case empty =>
    refine exec_adjustBalance_of_carries h (r := refused s .state)
      ((adjustBalanceRequest_of_le hle ..).trans ((if_pos hrow).trans ?_))
    rw [State.repairCard_of_good hgood]
    exact if_pos hempty
  case adjusts =>
    have hr := (adjustBalanceRequest_of_le hle rh rl ah al s).trans (if_pos hrow)
    rw [State.repairCard_of_good hgood, State.adjustBalance_of_ne_empty hne] at hr
    have hexec := exec_adjustBalance_of_carries h hr
    simp only [CardRow.adjust, clampBalance_eq, be16_u16, decide_eq_true_eq] at hexec
    refine ⟨_, hexec, fun r => ?_, rfl⟩
    exact (State.replied_cardRow ..).trans (State.cardRow_writeCard ..)

end Sys2Proof.Machine
end

section
/-! PROOF. The reply of a station IN SERVICE in its open window, as far as its routing (R130, R131, R146,
R152), and the routes of the upward kinds (R153, R168). -/

namespace Sys2Proof.Machine

/-! ### Edits of a segment beside edits of another part -/

section Commute

variable (s : State) (g : Seg) (f : Segment → Segment)

theorem State.editSeg_putStation (a : Nat) (r : Row Station) :
    (s.editSeg g f).putStation a r = (s.putStation a r).editSeg g f := by cases g <;> rfl

theorem State.editSeg_editStation (a : Nat) (k : Station → Station) :
    (s.editSeg g f).editStation a k = (s.editStation a k).editSeg g f := by cases g <;> rfl

theorem State.editSeg_putContainer (a : Nat) (r : Row Container) :
    (s.editSeg g f).putContainer a r = (s.putContainer a r).editSeg g f := by cases g <;> rfl

theorem State.editSeg_writeContainer (a : Nat) (c : Container) :
    (s.editSeg g f).writeContainer a c = (s.writeContainer a c).editSeg g f := by cases g <;> rfl

theorem State.editSeg_editContainer (a : Nat) (k : Container → Container) :
    (s.editSeg g f).editContainer a k = (s.editContainer a k).editSeg g f := by cases g <;> rfl

theorem State.editSeg_writeCard (a : Nat) (c : CardRow) :
    (s.editSeg g f).writeCard a c = (s.writeCard a c).editSeg g f := by cases g <;> rfl

theorem State.editSeg_writeKind (a r : Nat) :
    (s.editSeg g f).writeKind a r = (s.writeKind a r).editSeg g f := by cases g <;> rfl

theorem State.editSeg_editLink (k : Link → Link) :
    (s.editSeg g f).editLink k = (s.editLink k).editSeg g f := by cases g <;> rfl

theorem State.editSeg_editDispatch (k : Dispatch → Dispatch) :
    (s.editSeg g f).editDispatch k = (s.editDispatch k).editSeg g f := by cases g <;> rfl

theorem State.editSeg_editDeposits (k : List Deposit → List Deposit) :
    (s.editSeg g f).editDeposits k = (s.editDeposits k).editSeg g f := by cases g <;> rfl

theorem State.editSeg_raise (k : NoticeKind) (a : Nat) (p : List Octet) :
    (s.editSeg g f).raise k a p = (s.raise k a p).editSeg g f := by cases g <;> rfl

theorem State.editSeg_captureFault (t : FaultTable) (a : Nat) :
    (s.editSeg g f).captureFault t a = (s.captureFault t a).editSeg g f := by cases g <;> rfl

theorem State.editSeg_tableFault (t : FaultTable) (a : Nat) (p : List Octet) :
    (s.editSeg g f).tableFault t a p = (s.tableFault t a p).editSeg g f := by cases g <;> rfl

end Commute

/-! ### The reply of a station IN SERVICE -/

/-- The state once the reply of a station IN SERVICE has been taken, before its send turn is due (R131,
R146). -/
def State.attended (s : State) (addr : Nat) : State := (s.shutWindow (segOf addr)).clearMisses addr

/-- The state in which a reply has been heard has a send turn due besides (R135). -/
theorem State.heard_eq (s : State) (addr : Nat) :
    s.heard addr = (s.attended addr).turnDue (segOf addr) := by
  unfold State.heard State.attended
  generalize segOf addr = g
  cases g <;> rfl

/-- A receiver of an UP segment that hunts takes characters (R127, R129). -/
theorem State.Awaits.receiving {s : State} {g : Seg} {addr : Nat} (h : s.Awaits g addr) :
    (s.seg g).receiving = true := by
  obtain ⟨hup, hpoll, hspace, -⟩ := h
  simp [Segment.receiving, hup, hpoll, hspace]

/-- A valid frame from the polled station closes its window (R131). -/
theorem State.Awaits.exec_frame {s : State} {g : Seg} {addr : Nat} (h : s.Awaits g addr)
    (ha : addr < 256) (kind : Octet) {payload : List Octet} (hp : payload.length ≤ 24) :
    exec (.segmentFrameReceived g (stationFrame addr kind payload)) s =
      .next (s.closeReply g addr kind payload) := by
  rw [exec_stationFrame g addr kind payload s ha hp h.receiving h.2.2.2.1]
  obtain ⟨w, hw, rfl⟩ := h.2.2.2.2
  simp only [State.handFrame, hw, if_true]

@[simp] theorem State.shutWindow_stationRow (s : State) (g : Seg) (a : Nat) :
    (s.shutWindow g).stationRow a = s.stationRow a := State.editSeg_stationRow ..

@[simp] theorem State.shutWindow_station (s : State) (g : Seg) (a : Nat) :
    (s.shutWindow g).station a = s.station a := State.editSeg_station ..

/-- A reply of a station IN SERVICE that is no ANNOUNCE is routed, and a send turn falls due (R146). -/
theorem State.Serving.exec_frame {s : State} {addr : Nat} (h : s.Serving addr) {kind : Octet}
    {payload : List Octet} (hp : payload.length ≤ 24) (ha : announcement kind payload = none) :
    exec (.segmentFrameReceived (segOf addr) (stationFrame addr kind payload)) s =
      .next (((s.attended addr).routeReply addr kind payload).endEvent.turnDue (segOf addr)) := by
  obtain ⟨h1, h64, hs, haw, hgood, hstate⟩ := h
  rw [haw.exec_frame (by omega) kind hp]
  have hread : (s.shutWindow (segOf addr)).readStation addr = s.shutWindow (segOf addr) :=
    State.readStation_of_good ((congrArg Row.bad (State.shutWindow_stationRow ..)).trans hgood)
  unfold State.closeReply State.stationReply State.takeReply
  simp only [hread, State.shutWindow_station, hstate, ha]
  rfl

theorem announcement_of_ne {kind : Octet} (h : kind ≠ 0x01) (payload : List Octet) :
    announcement kind payload = none := if_neg h

/-- The kinds with rules of their own are 0x00 to 0x06 (R152). -/
theorem Octet.ne_of_gt_six {o : Octet} (h : 6 < o.toNat) :
    o ≠ 0x00 ∧ o ≠ 0x01 ∧ o ≠ 0x02 ∧ o ≠ 0x03 ∧ o ≠ 0x04 ∧ o ≠ 0x05 ∧ o ≠ 0x06 := by
  refine ⟨?_, ?_, ?_, ?_, ?_, ?_, ?_⟩ <;> rintro rfl <;> exact absurd h (by decide)

/-- The kinds above 0x06 have no length of their own (R146). -/
theorem malformed_of_gt {kind : Octet} (h : 6 < kind.toNat) (payload : List Octet) :
    malformed kind payload = false := by
  obtain ⟨h0, h1, h2, h3, h4, h5, h6⟩ := Octet.ne_of_gt_six h
  have hnone : kindLength kind = none := by
    unfold kindLength
    rw [if_neg h0, if_neg h1, if_neg h2, if_neg h3, if_neg h4, if_neg h5, if_neg h6]
  simp [malformed, hnone]

/-- A reply of a kind above 0x06 goes by the Kind Table or by the unknown-kind route (R152). -/
theorem State.routeReply_of_gt {kind : Octet} (h : 6 < kind.toNat) (s : State) (addr : Nat)
    (payload : List Octet) :
    s.routeReply addr kind payload =
      if 0x10 ≤ kind.toNat ∧ kind.toNat ≤ 0x3F then s.routeByTable addr kind payload
      else s.routeUnknown addr kind payload := by
  obtain ⟨h0, -, h2, h3, h4, h5, h6⟩ := Octet.ne_of_gt_six h
  unfold State.routeReply State.route
  rw [malformed_of_gt h, if_neg Bool.false_ne_true, if_neg h0, if_neg h2, if_neg h3, if_neg h4,
    if_neg h5, if_neg h6]
  simp only [Bool.and_eq_true, decide_eq_true_eq]

/-! ### The state a reply is acted on -/

@[simp] theorem State.attended_kindRow (s : State) (addr k : Nat) :
    (s.attended addr).kindRow k = s.kindRow k := by
  unfold State.attended State.shutWindow
  exact State.editSeg_kindRow ..

@[simp] theorem State.attended_link (s : State) (addr : Nat) : (s.attended addr).link = s.link := by
  unfold State.attended State.shutWindow
  exact State.editSeg_link ..

@[simp] theorem State.attended_mgmt (s : State) (addr : Nat) : (s.attended addr).mgmt = s.mgmt := by
  unfold State.attended State.shutWindow
  exact State.editSeg_mgmt ..

@[simp] theorem State.attended_dispatch (s : State) (addr : Nat) :
    (s.attended addr).dispatch = s.dispatch := by
  unfold State.attended State.shutWindow
  exact State.editSeg_dispatch ..

/-- An action on a reply that makes no pass due, and that does not see whether a send turn is due, leaves
what it does to the state in which the reply has been heard (R135). -/
theorem State.Serving.exec_frame_of_comm {s : State} {addr : Nat} (h : s.Serving addr) {kind : Octet}
    {payload : List Octet} (hp : payload.length ≤ 24) (ha : announcement kind payload = none)
    {f : State → State} (hf : (s.attended addr).routeReply addr kind payload = f (s.attended addr))
    (hcomm : (f (s.attended addr)).turnDue (segOf addr) = f ((s.attended addr).turnDue (segOf addr)))
    (hdue : (f (s.attended addr)).dispatch = (s.attended addr).dispatch) :
    exec (.segmentFrameReceived (segOf addr) (stationFrame addr kind payload)) s =
      .next (f (s.heard addr)) := by
  have hset : (f (s.attended addr)).Settled := by
    rw [State.Settled, hdue, State.attended_dispatch]
    exact h.2.2.1
  rw [h.exec_frame hp ha, hf, State.endEvent_of_settled hset, hcomm, State.heard_eq]

/-! ### Upward relays -/

/-- A relay joins the uplink relay queue or is dropped and counted; the link alone changes (R153). -/
theorem State.relayUp_eq (s : State) (addr route : Nat) (kind : Octet) (payload : List Octet) :
    s.relayUp addr route kind payload =
      if s.link.relays.length < 16 then
        { s with link := { s.link with relays := s.link.relays ++
            [{ addr := addr, route := route, kind := kind, payload := payload }] } }
      else
        { s with link := { s.link with counters := { s.link.counters with
            uplinkDrops := min (s.link.counters.uplinkDrops + 1) 65535 } } } := rfl

/-- A reply that is relayed leaves the heard state with the link's change (R153). -/
theorem State.Serving.exec_relayed {s : State} {addr : Nat} (h : s.Serving addr) {kind : Octet}
    {payload : List Octet} (hp : payload.length ≤ 24) (ha : announcement kind payload = none) {route : Nat}
    (hf : (s.attended addr).routeReply addr kind payload =
      (s.attended addr).relayUp addr route kind payload) :
    exec (.segmentFrameReceived (segOf addr) (stationFrame addr kind payload)) s =
      .next (if s.link.relays.length < 16 then
        { s.heard addr with link := { s.link with relays := s.link.relays ++
            [{ addr := addr, route := route, kind := kind, payload := payload }] } }
      else
        { s.heard addr with link := { s.link with counters := { s.link.counters with
            uplinkDrops := min (s.link.counters.uplinkDrops + 1) 65535 } } }) := by
  rw [State.relayUp_eq, State.attended_link] at hf
  by_cases hroom : s.link.relays.length < 16
  · rw [if_pos hroom] at hf ⊢
    refine h.exec_frame_of_comm hp ha (f := fun u => { u with link := _ }) hf ?_ rfl
    generalize segOf addr = g
    cases g <;> rfl
  · rw [if_neg hroom] at hf ⊢
    refine h.exec_frame_of_comm hp ha (f := fun u => { u with link := _ }) hf ?_ rfl
    generalize segOf addr = g
    cases g <;> rfl

/-- A reply that is discarded is counted at its station (R152). -/
theorem State.Serving.exec_discarded {s : State} {addr : Nat} (h : s.Serving addr) {kind : Octet}
    {payload : List Octet} (hp : payload.length ≤ 24) (ha : announcement kind payload = none)
    (hf : (s.attended addr).routeReply addr kind payload = (s.attended addr).countDiscarded addr) :
    exec (.segmentFrameReceived (segOf addr) (stationFrame addr kind payload)) s =
      .next ((s.heard addr).editStation addr fun e =>
        { e with discarded := min (e.discarded + 1) 65535 }) :=
  h.exec_frame_of_comm hp ha (f := fun u => u.countDiscarded addr) hf
    (State.editSeg_editStation ..).symm rfl

/-! ### LOAD KIND and SET UNKNOWN ROUTE -/

theorem exec_loadKind_of_carries {s : State} {tag : Octet} {args : List Octet} {r : Answered}
    (h : s.Carries tag (0x50 :: args)) (hr : loadKindRequest args s = r) :
    exec .loadKind s = .next (r.state.replied tag 0x50 r.result r.data) :=
  congrArg _ (State.serve_answers (f := loadKindRequest) h rfl hr)

theorem loadKindRequest_eq (kind route : Octet) (s : State) :
    loadKindRequest [kind, route] s =
      if 0x10 ≤ kind.toNat ∧ kind.toNat ≤ 0x3F then
        accepted (s.writeKind kind.toNat route.toNat) [kind, route]
      else refused s .range := by
  simp only [loadKindRequest, Bool.and_eq_true, decide_eq_true_eq]

@[simp] theorem State.kindRow_writeKind (s : State) (a b route : Nat) :
    (s.writeKind a route).kindRow b = if b = a then Row.good route else s.kindRow b :=
  State.kindRow_putKind ..

/-- Settles O18: the requests write a route; a reply of an upward kind goes by the entry of its kind, read
good or faulty, or by the unknown-kind route. -/
theorem routesLoadedAndFollowed : Obligations.RoutesLoadedAndFollowed := by
  unfold Obligations.RoutesLoadedAndFollowed
  refine ⟨⟨fun s tag kind route h => ⟨fun hin => ?written, fun hout => ?refused⟩,
      fun s tag route h => congrArg _ (State.serve_answers (f := setUnknownRouteRequest) h rfl rfl)⟩,
    fun s addr kind payload h hp hgt => ⟨fun hlo hhi => ⟨fun hgood => ⟨fun hzero => ?dropped,
      fun hroute => ?relayed⟩, fun hbad => ?faulty⟩, fun hout => ⟨fun hzero => ?unknownDropped,
      fun hroute => ?unknownRelayed⟩⟩⟩
  case written =>
    refine ⟨_, exec_loadKind_of_carries h ((loadKindRequest_eq ..).trans (if_pos hin)), fun k => ?_, rfl⟩
    exact (State.replied_kindRow ..).trans (State.kindRow_writeKind ..)
  case refused =>
    exact exec_loadKind_of_carries h (r := refused s .range) ((loadKindRequest_eq ..).trans (if_neg hout))
  all_goals
    obtain ⟨-, hannounce, -⟩ := Octet.ne_of_gt_six hgt
    have ha := announcement_of_ne hannounce payload
    have hroutes := State.routeReply_of_gt hgt (s.attended addr) addr payload
  case dropped =>
    rw [if_pos ⟨hlo, hhi⟩] at hroutes
    refine h.exec_frame_of_comm hp ha (f := id) (hroutes.trans ?_) rfl rfl
    simp [State.routeByTable, hgood, hzero]
  case relayed =>
    rw [if_pos ⟨hlo, hhi⟩] at hroutes
    refine h.exec_relayed hp ha (hroutes.trans ?_)
    simp [State.routeByTable, hgood, hroute]
  case faulty =>
    rw [if_pos ⟨hlo, hhi⟩] at hroutes
    refine h.exec_frame_of_comm hp ha (f := fun u =>
      ((u.tableFault .kind kind.toNat []).writeKind kind.toNat 0).countDiscarded addr) (hroutes.trans ?_) ?_ rfl
    · simp [State.routeByTable, hbad]
    · simp only [State.turnDue, State.countDiscarded, State.editSeg_tableFault, State.editSeg_writeKind,
        State.editSeg_editStation]
  case unknownDropped =>
    rw [if_neg (by omega)] at hroutes
    refine h.exec_discarded hp ha (hroutes.trans ?_)
    simp [State.routeUnknown, hzero]
  case unknownRelayed =>
    rw [if_neg (by omega)] at hroutes
    refine h.exec_relayed hp ha (hroutes.trans ?_)
    simp [State.routeUnknown, hroute]

end Sys2Proof.Machine
end

section
/-! PROOF. The Link Controller: the downlink frames that are received and routed (R159, R160), the relays to the
stations (R154), and the arbiter of the uplink (R161, R162, R176, R177). -/

namespace Sys2Proof.Machine

/-! ### The receiver -/

/-- A run of characters that makes no pass due leaves what the receiver makes of it (R159, R99). -/
theorem exec_downlinkFrame_of_settled {s t : State} {chars : List LinkChar}
    (h : chars.foldl State.takeLinkChar s = t) (ht : t.Settled) :
    exec (.downlinkFrameReceived chars) s = .next t := by
  simp only [exec, execDownlinkFrameReceived, h, State.endEvent_of_settled ht]

/-- A frame's octets from its length on, with its check octets. -/
theorem linkCovered_eq (addr cls tag a b : Octet) (body : List Octet) :
    be16 (body.length + 3) ++ [addr, cls, tag] ++ body ++ [a, b] =
      octet ((body.length + 3) / 256) :: octet (body.length + 3) :: ([addr, cls, tag] ++ body ++ [a, b]) := by
  simp [be16]

/-- A count of the link changes the link alone (R164). -/
theorem State.countLink_eq (s : State) (f : LinkCounters → LinkCounters) :
    s.countLink f = { s with link := { s.link with counters := f s.link.counters } } := rfl

theorem State.hear_cutFrame {s : State} (hx : s.link.rx = .hunting) (addr cls tag a b x : Octet)
    {body : List Octet} (hb : body.length ≤ 256) {n : Nat} (hn : n < body.length + 7) :
    (linkChars ([0xA5, 0x5A] ++ (be16 (body.length + 3) ++ [addr, cls, tag] ++ body ++ [a, b]).take n) ++
        [({ data := x, stopGood := false } : LinkChar)]).foldl State.takeLinkChar s =
      s.countLink fun c => { c with framingErrors := satInc16 c.framingErrors } := by
  have hu : u16 (octet ((body.length + 3) / 256)) (octet (body.length + 3)) = body.length + 3 :=
    u16_be16 (by omega)
  rw [linkCovered_eq]
  exact State.hear_cutLink _ _ x _ s (by omega) (by omega) (by simp [hu]) hx n (by simp; omega)

/-! ### Frames for the part -/

/-- ISLANDED is cleared with its notice, or was clear (R170). -/
theorem State.resumeLink_eq (s : State) :
    s.resumeLink =
      let u : State := { s with link := { s.link with
        islanded := false
        islandedSince := if s.link.islanded then none else s.link.islandedSince } }
      if s.link.islanded then u.raise .linkResumed 0 (be32 (s.seconds - s.link.islandedSince.getD 0))
      else u := by
  unfold State.resumeLink
  by_cases hi : s.link.islanded = true
  · simp only [hi, if_true]
    rfl
  · rw [if_neg hi, if_neg hi, if_neg hi]
    rw [Bool.not_eq_true] at hi
    simp only [← hi]

/-- The oldest request is taken when none is in hand (R162). -/
theorem State.takeRequest_of_free {s : State} {r : Request} {rest : List Request}
    (h : s.link.requests = r :: rest) (ht : s.mgmt.taken = none) (hr : s.mgmt.reply = none) :
    s.takeRequest =
      { s with link := { s.link with requests := rest }, mgmt := { s.mgmt with taken := some r } } := by
  unfold State.takeRequest
  rw [h]
  exact if_pos (by simp [ht, hr])

/-- None is taken while one is carried out or a REPLY waits (R162). -/
theorem State.takeRequest_of_busy {s : State}
    (h : s.mgmt.taken.isSome = true ∨ s.mgmt.reply.isSome = true) : s.takeRequest = s := by
  unfold State.takeRequest
  split
  · rfl
  · refine if_neg fun hfree => ?_
    rw [Bool.and_eq_true, Option.isNone_iff_eq_none, Option.isNone_iff_eq_none] at hfree
    rw [hfree.1, hfree.2] at h
    exact h.elim Bool.noConfusion Bool.noConfusion

theorem State.takeRequest_of_none {s : State} (h : s.link.requests = []) : s.takeRequest = s := by
  unfold State.takeRequest
  rw [h]

/-- Settles O45: the receiver's errors, the frames without a route, and the requests. -/
theorem downlinkFramesRouted : Obligations.DownlinkFramesRouted := by
  unfold Obligations.DownlinkFramesRouted
  intro s addr cls tag body hs hx hb
  have routed {t : State} (h : s.routeLink addr cls tag body = t) (ht : t.Settled) :
      exec (.downlinkFrameReceived (linkChars (linkFrame addr.toNat cls tag body))) s = .next t :=
    exec_downlinkFrame_of_settled ((State.hear_linkFrame addr cls tag body s hb hx).trans h) ht
  refine ⟨fun lh ll hlen => ?badLength, fun x a b n hn => ?cut, fun x => ⟨?noPreamble, ?halfPreamble⟩,
    fun a b hcheck => ?spoiled, fun hnot1 hnot4 => ?unrouted, fun hcls haddr => ?request⟩
  case badLength => exact exec_downlinkFrame_of_settled (State.hear_badLength lh ll s hx hlen) hs
  case cut => exact exec_downlinkFrame_of_settled (State.hear_cutFrame hx addr cls tag a b x hb hn) hs
  case noPreamble =>
    exact exec_downlinkFrame_of_settled (by simp [State.takeLinkChar, hx]) hs
  case halfPreamble =>
    exact exec_downlinkFrame_of_settled
      (by simp [linkChars, State.takeLinkChar, hx, State.setLinkRx_hunting]) hs
  case spoiled =>
    exact exec_downlinkFrame_of_settled (State.hear_spoiledLink addr cls tag a b body s hb hx hcheck) hs
  case unrouted =>
    refine routed ?_ hs
    unfold State.routeLink
    rw [if_neg (by simpa using hnot1), if_neg (by simpa [and_assoc] using hnot4)]
    rfl
  case request =>
    subst hcls haddr
    intro r lk heard
    have hroute : s.routeLink 0 1 tag body =
        (s.countLink fun c => { c with received := satInc16 c.received }).management tag body := rfl
    have hresumed : (s.countLink fun c => { c with received := satInc16 c.received }
        ).restartSupervision.resumeLink = heard lk s.mgmt := State.resumeLink_eq _
    have hlink (l : Link) (m : Management) : (heard l m).link = l := by
      dsimp only [heard]
      split_ifs <;> rfl
    have hmgmt (l : Link) (m : Management) : (heard l m).mgmt = m := by
      dsimp only [heard]
      split_ifs <;> rfl
    have hset (l : Link) (m : Management) : (heard l m).Settled := by
      dsimp only [heard]
      split_ifs <;> exact hs
    have hedit (f : Link → Link) (l : Link) (m : Management) :
        (heard l m).editLink f = heard (f l) m := by
      dsimp only [heard]
      split_ifs <;> rfl
    have hput (l l' : Link) (m m' : Management) :
        ({ heard l m with link := l', mgmt := m' } : State) = heard l' m' := by
      dsimp only [heard]
      split_ifs <;> rfl
    have hqueued (hroom : s.link.requests.length < 4) :
        s.routeLink 0 1 tag body =
          (heard { lk with requests := s.link.requests ++ [r] } s.mgmt).takeRequest := by
      rw [hroute, State.management, hresumed, hlink, if_pos hroom, hedit]
    refine ⟨fun htaken hreply hempty => ?taken, fun hbusy hroom => ?waits, fun hfull => ?overflows⟩
    case taken =>
      refine routed ((hqueued (by simp [hempty])).trans ?_) (hset _ _)
      rw [State.takeRequest_of_free (r := r) (rest := []) (by rw [hlink, hempty]; rfl)
        (by rw [hmgmt]; exact htaken) (by rw [hmgmt]; exact hreply), hput, hlink, hmgmt, ← hempty]
    case waits =>
      refine routed ((hqueued hroom).trans ?_) (hset _ _)
      exact State.takeRequest_of_busy (by rw [hmgmt]; exact hbusy)
    case overflows =>
      refine routed ?_ (hset _ _)
      rw [hroute, State.management, hresumed, hlink, if_neg (Nat.not_lt.2 hfull), State.countLink, hedit]
      rfl

/-! ### Relays for the stations -/

/-- A relay that joins an empty queue makes a turn due on an idle segment (R154, R135). -/
theorem State.queueRelay_eq (s : State) (g : Seg) (r : DownRelay) :
    s.queueRelay g r = s.editSeg g fun x =>
      { x with relays := x.relays ++ [r],
               turnDue := x.turnDue || (x.relays.isEmpty && x.state = .up &&
                 x.window.isNone && x.pollOut.isNone) } := by
  unfold State.queueRelay
  by_cases he : (s.seg g).relays.isEmpty = true
  · simp only [he, if_true, State.turnDueIfIdle_eq, State.editSeg_editSeg]
    refine State.editSeg_congr ?_
    simp [he]
  · simp only [he]
    refine State.editSeg_congr ?_
    simp [he]

/-- A relay whose station's entry reads good is tested by its length, the station's state and the queue
(R154). -/
theorem State.relayDown_of_good {s : State} {addr : Nat} (hgood : (s.stationRow addr).bad = false)
    (kind : Octet) (payload : List Octet) :
    s.relayDown addr (kind :: payload) =
      if 24 < payload.length ∨ (s.station addr).state ≠ .inService ∨
          8 ≤ (s.seg (segOf addr)).relays.length then s.dropRelay
      else s.queueRelay (segOf addr) { addr := addr, kind := kind, payload := payload } := by
  simp only [State.relayDown, State.readStation_of_good hgood]
  by_cases hlen : 24 < payload.length
  · simp [hlen]
  by_cases hstate : (s.station addr).state = .inService
  · simp [hlen, hstate]
  · simp [hlen, hstate]

/-- Settles O46: the tests of R154, and the place in the queue. -/
theorem downlinkRelaysTested : Obligations.DownlinkRelaysTested := by
  unfold Obligations.DownlinkRelaysTested
  intro s addr tag body hs hx hb h1 h64 hgood
  let u := s.countLink fun c => { c with received := satInc16 c.received }
  have routed {t : State} (h : u.relayDown addr.toNat body = t) (ht : t.Settled) :
      exec (.downlinkFrameReceived (linkChars (linkFrame addr.toNat 4 tag body))) s = .next t := by
    refine exec_downlinkFrame_of_settled ((State.hear_linkFrame addr 4 tag body s hb hx).trans ?_) ht
    rw [← h]
    unfold State.routeLink
    rw [if_neg (by simp), if_pos (by simp [h1, h64])]
  have hsame : u.stationRow addr.toNat = s.stationRow addr.toNat ∧
      u.station addr.toNat = s.station addr.toNat ∧
      u.seg (segOf addr.toNat) = s.seg (segOf addr.toNat) := by
    refine ⟨rfl, rfl, ?_⟩
    generalize segOf addr.toNat = g
    cases g <;> rfl
  obtain ⟨hrow, hstation, hseg⟩ := hsame
  refine ⟨fun hbad => ?dropped, fun kind payload hbody hlen hstate hroom => ?queued⟩
  case dropped =>
    refine routed (t := u.dropRelay) ?_ hs
    cases body with
    | nil => rfl
    | cons kind payload =>
      rw [State.relayDown_of_good (by rw [hrow]; exact hgood), hstation, hseg, if_pos]
      simpa [Nat.succ_le_iff] using hbad
  case queued =>
    subst hbody
    refine routed ?_ ((congrArg Dispatch.passDue (State.editSeg_dispatch ..)).trans hs)
    rw [State.relayDown_of_good (by rw [hrow]; exact hgood), hstation, hseg, if_neg (by simp_all),
      State.queueRelay_eq]
    rfl

/-! ### The uplink -/

/-- A batch is due while the queue holds a notice that is no STATUS notice, has the count of the
parameter, or its interval has ended (R176). -/
theorem NoticeUnit.batchDue_iff (u : NoticeUnit) (n : Nat) :
    u.batchDue n = true ↔ u.queue ≠ [] ∧
      ((∃ x ∈ u.queue, x.kind.cls ≠ .status) ∨ n ≤ u.queue.length ∨ u.intervalEnded = true) := by
  have hother : (holdsClass .alert u.queue || holdsClass .round u.queue) = true ↔
      ∃ x ∈ u.queue, x.kind.cls ≠ .status := by
    simp only [holdsClass, Bool.or_eq_true, List.any_eq_true, decide_eq_true_eq]
    constructor
    · rintro (⟨x, hx, hc⟩ | ⟨x, hx, hc⟩) <;> exact ⟨x, hx, by rw [hc]; decide⟩
    · rintro ⟨x, hx, hc⟩
      cases hcls : x.kind.cls with
      | alert => exact Or.inl ⟨x, hx, hcls⟩
      | round => exact Or.inr ⟨x, hx, hcls⟩
      | status => exact absurd hcls hc
  unfold NoticeUnit.batchDue
  rw [Bool.and_eq_true, Bool.or_eq_true, Bool.or_eq_true, hother, decide_eq_true_eq]
  by_cases hall : ∃ x ∈ u.queue, x.kind.cls ≠ .status
  · simp [hall]
  · have hcount : u.queue.countP (fun x => x.kind.cls = .status) = u.queue.length := by
      rw [List.countP_eq_length]
      intro x hx
      by_contra hc
      exact hall ⟨x, hx, by simpa using hc⟩
    simp [hall, hcount]

/-- The Notice Unit after a batch, by the length of its queue (R176, R177). -/
theorem NoticeUnit.takeBatch_eq (u : NoticeUnit) (expiry : Word32) :
    u.takeBatch expiry =
      { u with queue := u.queue.drop 8, intervalEnded := false, batchNumber := u.batchNumber + 1,
               coalescing := if u.queue.length ≤ 8 then none else some expiry } := by
  simp only [NoticeUnit.takeBatch, List.isEmpty_iff, List.drop_eq_nil_iff]

/-- The frame of a batch goes out and the queue is shorter (R177). -/
theorem State.sendBatch_eq (s : State) :
    s.sendBatch = { s with
      link := { s.link with
        onLine := some (linkFrame 0 3 (s.notices.batchNumber + 1)
          (octet (min 8 s.notices.queue.length) :: (be16 s.notices.lost ++
            (s.notices.queue.take 8).flatMap Notice.octets)))
        counters := { s.link.counters with sent := min (s.link.counters.sent + 1) 65535 } }
      notices := { s.notices with
        queue := s.notices.queue.drop 8
        intervalEnded := false
        batchNumber := s.notices.batchNumber + 1
        coalescing := if s.notices.queue.length ≤ 8 then none
          else some (s.seconds + BitVec.ofNat 32 s.params.coalescing) } } := by
  rw [← List.length_take]
  exact congrArg (fun u => (s.editNotices fun _ => u).beginFrame _) (NoticeUnit.takeBatch_eq ..)

theorem State.uplink_of_reply {s : State} {r : Reply} (h : s.mgmt.reply = some r) :
    s.uplink = s.sendReply r := by
  simp only [State.uplink, h]

theorem State.uplink_of_batch {s : State} (h : s.mgmt.reply = none)
    (hdue : s.notices.batchDue s.params.batchCount = true) : s.uplink = s.sendBatch := by
  simp only [State.uplink, h, if_pos hdue]

theorem State.uplink_of_relay {s : State} (h : s.mgmt.reply = none)
    (hdue : ¬ s.notices.batchDue s.params.batchCount = true) {r : UpRelay} {rest : List UpRelay}
    (hr : s.link.relays = r :: rest) : s.uplink = s.sendUplinkRelay r rest := by
  simp only [State.uplink, h, if_neg hdue, hr]

theorem State.uplink_of_none {s : State} (h : s.mgmt.reply = none)
    (hdue : ¬ s.notices.batchDue s.params.batchCount = true) (hr : s.link.relays = []) :
    s.uplink = s.editLink fun l => { l with onLine := none } := by
  simp only [State.uplink, h, if_neg hdue, hr]

/-- Settles O47: the arbiter's choice, by the REPLY, the batch and the relays. -/
theorem uplinkArbiterOrder : Obligations.UplinkArbiterOrder := by
  unfold Obligations.UplinkArbiterOrder
  intro s sent q due
  have hdue : s.notices.batchDue s.params.batchCount = true ↔ due := NoticeUnit.batchDue_iff ..
  refine ⟨fun r hr htaken => ⟨fun hempty => ?replyAlone, fun x rest hnext => ?replyNext⟩,
    fun hr hd => ?batch, fun hr hd => ⟨fun r rest hrelay => ?relay, fun hnone => ?rests⟩⟩
  case replyAlone =>
    exact congrArg _ ((State.uplink_of_reply hr).trans (State.takeRequest_of_none hempty))
  case replyNext =>
    exact congrArg _ ((State.uplink_of_reply hr).trans (State.takeRequest_of_free hnext htaken rfl))
  case batch => exact congrArg _ ((State.uplink_of_batch hr (hdue.2 hd)).trans s.sendBatch_eq)
  case relay => exact congrArg _ (State.uplink_of_relay hr (mt hdue.1 hd) hrelay)
  case rests => exact congrArg _ (State.uplink_of_none hr (mt hdue.1 hd) hnone)

end Sys2Proof.Machine
end

section
/-! PROOF. The Emptying Request list and the passes: the order of urgency and the place that it gives (R93), the
telling of the Dispatch Unit (R94, R95), the walk and the hand-back of a pass (R99 to R103), and the advance
of the dispatch index (R97, R104). -/

namespace Sys2Proof.Machine

/-! ### The order of urgency -/

/-- A container of fill state FULL. -/
def State.isFull (s : State) (row : Nat) : Bool := (s.container row).fill = .full

/-- The estimate by which a container stands in the list. -/
def State.volume (s : State) (row : Nat) : Nat := (s.container row).estimate.getD 0

/-- R93's order: FULL first, then the higher estimate, then the earlier join. -/
def State.Urgent (s : State) (x y : Nat) : Prop :=
  (s.isFull x = true ∧ s.isFull y = false) ∨ (s.isFull x = s.isFull y ∧
    (s.volume y < s.volume x ∨ (s.volume x = s.volume y ∧ s.joinAge y < s.joinAge x)))

theorem State.moreUrgent_iff {s : State} {x y : Nat} : s.moreUrgent x y = true ↔ s.Urgent x y := by
  unfold State.moreUrgent State.Urgent State.isFull State.volume
  by_cases hx : (s.container x).fill = .full <;> by_cases hy : (s.container y).fill = .full <;>
    simp [hx, hy] <;> split_ifs <;> omega

theorem State.moreUrgent_eq_false_iff {s : State} {x y : Nat} :
    s.moreUrgent x y = false ↔ ¬ s.Urgent x y := by
  rw [← State.moreUrgent_iff, Bool.not_eq_true]

/-! ### The place in a list -/

/-- A row stands behind every entry more urgent than it and before the first that is less so (R93). -/
theorem State.place_eq_append (s : State) (row : Nat) (l : List Nat) :
    ∃ ahead behind, s.place row l = ahead ++ row :: behind ∧ l = ahead ++ behind ∧
      (∀ x ∈ ahead, ¬ s.Urgent row x) ∧ ∀ x, behind.head? = some x → s.Urgent row x := by
  induction l with
  | nil => exact ⟨[], [], rfl, rfl, nofun, nofun⟩
  | cons x xs ih =>
    by_cases hx : s.moreUrgent row x = true
    · refine ⟨[], x :: xs, if_pos hx, rfl, nofun, fun y hy => ?_⟩
      obtain rfl := Option.some.inj hy
      exact State.moreUrgent_iff.1 hx
    · obtain ⟨ahead, behind, hplace, hl, hahead, hbehind⟩ := ih
      refine ⟨x :: ahead, behind, (if_neg hx).trans (congrArg _ hplace), congrArg _ hl, ?_, hbehind⟩
      intro y hy
      rcases List.mem_cons.1 hy with rfl | hy
      · exact mt State.moreUrgent_iff.2 hx
      · exact hahead y hy

theorem State.place_perm (s : State) (row : Nat) (l : List Nat) : (s.place row l).Perm (row :: l) := by
  obtain ⟨ahead, behind, hplace, hl, -⟩ := s.place_eq_append row l
  rw [hplace, hl]
  exact List.perm_middle

/-- A row placed in a list ordered by a relation that holds of it by the order of urgency. -/
theorem State.place_pairwise {s : State} {row : Nat} {R : Nat → Nat → Prop} {l : List Nat}
    (htrans : ∀ x y, R row x → R x y → R row y) (hl : l.Pairwise R)
    (hfirst : ∀ x ∈ l, s.Urgent row x → R row x) (hlast : ∀ x ∈ l, ¬ s.Urgent row x → R x row) :
    (s.place row l).Pairwise R := by
  induction l with
  | nil => exact List.pairwise_singleton R row
  | cons x xs ih =>
    obtain ⟨hx, hxs⟩ := List.pairwise_cons.1 hl
    by_cases hu : s.moreUrgent row x = true
    · have hrow : R row x := hfirst x List.mem_cons_self (State.moreUrgent_iff.1 hu)
      rw [State.place, if_pos hu]
      refine List.pairwise_cons.2 ⟨fun y hy => ?_, hl⟩
      rcases List.mem_cons.1 hy with rfl | hy
      · exact hrow
      · exact htrans x y hrow (hx y hy)
    · rw [State.place, if_neg hu]
      refine List.pairwise_cons.2 ⟨fun y hy => ?_,
        ih hxs (fun y hy => hfirst y (List.mem_cons_of_mem _ hy))
          fun y hy => hlast y (List.mem_cons_of_mem _ hy)⟩
      rcases List.mem_cons.1 ((s.place_perm row xs).subset hy) with rfl | hy
      · exact hlast x List.mem_cons_self (mt State.moreUrgent_iff.2 hu)
      · exact hx y hy

/-! ### The telling -/

/-- A row that is not in a list stays out of it. -/
theorem filter_ne_of_notMem {row : Nat} {l : List Nat} (h : row ∉ l) : l.filter (· ≠ row) = l :=
  List.filter_eq_self.2 fun _ hx => decide_eq_true (ne_of_mem_of_not_mem hx h)

/-- A container that has become FULL while SUSPENDED is counted, and nothing else changes (R95). -/
theorem State.countMissedFull_spec (s : State) (row : Nat) (was : Container) :
    s.countMissedFull row was = { s with dispatch := { s.dispatch with
      missedFull := if (s.container row).fill = .full && was.fill != .full && !s.running then
          min (s.dispatch.missedFull + 1) 65535
        else s.dispatch.missedFull } } := by
  unfold State.countMissedFull
  split_ifs <;> rfl

/-- The container after its join: a new sequence number (R93). -/
@[simp] theorem State.joinList_containerRow (s : State) (row r : Nat) :
    (s.joinList row).containerRow r =
      if r = row then
        { data := { s.container row with joinSeq := s.dispatch.joinCounter + 1 },
          bad := (s.containerRow row).bad }
      else s.containerRow r := Table.get_set (Row.good Container.unloaded) s.containers row r _

/-- Settles O36: a telling counts, and then the list and the conditions of R92 give the four cases. -/
theorem tellingKeepsList : Obligations.TellingKeepsList := by
  unfold Obligations.TellingKeepsList
  intro s row was c meets list others counted t age full volume urgent placed
  have hcount : s.countMissedFull row was = { s with dispatch := counted } := s.countMissedFull_spec row was
  have htell : t = ({ s with dispatch := counted } : State).relist row was := by
    rw [← hcount]
    rfl
  have hmeets : c.eligible = meets := rfl
  have placed_of {u : State} {l : List Nat} (hl : l = others) (hlist : t.dispatch.list = u.place row l)
      (hu : ∀ x y, u.Urgent x y = urgent x y) : placed := by
    obtain ⟨ahead, behind, hplace, happend, hahead, hbehind⟩ := u.place_eq_append row l
    refine ⟨ahead, behind, hlist.trans hplace, hl.symm.trans happend, fun x hx => ?_, fun x hx => ?_⟩
    · rw [← hu]; exact hahead x hx
    · rw [← hu]; exact hbehind x hx
  refine ⟨fun hout hnot => ?stays, fun hout hmeet => ?joins, fun hin hnot => ?leaves,
    fun hin hmeet => ⟨fun hsame => ?keeps, fun hchanged => ?moves⟩⟩
  case stays =>
    rw [htell]
    exact (if_neg hout).trans (if_neg (by rw [← Bool.not_eq_true] at hnot; exact hnot))
  case joins =>
    have hjoin : t = (({ s with dispatch := counted } : State).joinList row).makePassDue :=
      htell.trans ((if_neg hout).trans (if_pos hmeet))
    refine ⟨fun r => ?_, placed_of (filter_ne_of_notMem hout).symm (congrArg (·.dispatch.list) hjoin) ?_, ?_⟩
    · rw [hjoin]
      exact State.joinList_containerRow ..
    · intro x y
      simp only [urgent, full, volume, age, hjoin]
      rfl
    · rw [hjoin]
      rfl
  case leaves =>
    rw [htell]
    exact (if_pos hin).trans (if_neg (by rw [← Bool.not_eq_true] at hnot; exact hnot))
  case keeps =>
    have hb : (decide (c.estimate = was.estimate) && decide (c.fill = was.fill)) = true := by
      simpa using hsame
    rw [htell]
    exact (if_pos hin).trans ((if_pos hmeet).trans (if_pos hb))
  case moves =>
    have hb : ¬ (decide (c.estimate = was.estimate) && decide (c.fill = was.fill)) = true := by
      simpa using hchanged
    have hmove : t = ({ s with dispatch := counted } : State).moveInList row :=
      htell.trans ((if_pos hin).trans ((if_pos hmeet).trans (if_neg hb)))
    refine ⟨placed_of rfl (congrArg (·.dispatch.list) hmove) ?_, ?_⟩
    · intro x y
      simp only [urgent, full, volume, age, hmove]
      rfl
    · rw [hmove]
      rfl

/-! ### Passes -/

/-- An assignment writes the ticket, the container and the list (R100). -/
theorem State.assign_containerRow (s : State) (row vol r : Nat) :
    (s.assign row vol).containerRow r =
      if r = row then
        { data := { s.container row with assignment := some s.dispatch.dispatchIndex }, bad := false }
      else s.containerRow r := Table.get_set (Row.good Container.unloaded) s.containers row r _

theorem State.assign_ticket (s : State) (row vol m : Nat) :
    (s.assign row vol).ticket m =
      if m = s.dispatch.dispatchIndex then
        { s.currentTicket with
          stops := s.currentTicket.stops ++
            [{ row := row, volume := vol, status := .planned, mass := none }],
          remaining := s.currentTicket.remaining - vol }
      else s.ticket m := Table.get_set Ticket.free s.tickets s.dispatch.dispatchIndex m _

/-- The walk passes over an entry that reads good, or assigns it and walks on (R100, R101). -/
theorem State.walk_cons_of_good {s : State} {row : Nat} (rows : List Nat)
    (h : (s.containerRow row).bad = false) :
    State.walk (row :: rows) s =
      let k := s.currentTicket
      let c := s.container row
      let vol := dispatchVolume c.cfg (c.estimate.getD 0)
      if k.maxStops ≤ k.stops.length then s
      else if c.cfg.stream = k.stream ∧ k.minVolume ≤ vol ∧ vol ≤ k.remaining then
        State.walk rows (s.assign row vol)
      else State.walk rows s := by
  rw [State.walk]
  simp only [h, State.readContainer_of_good h, Bool.not_false, Bool.true_and, Bool.and_eq_true,
    decide_eq_true_eq, and_assoc]

/-- Settles O37: an entry of the walk, the end of a pass, and the passes of an event. -/
theorem passAssignsFirstFit : Obligations.PassAssignsFirstFit := by
  unfold Obligations.PassAssignsFirstFit
  refine ⟨fun s => rfl, fun s row rows hgood => ⟨fun hfull => ?full, fun hroom hnot => ?passed,
      fun hroom hstream hmin hmax => ?assigned⟩,
    fun s => ?pass, fun s => ⟨rfl, fun left => ⟨fun hdue => ?none, fun hdue hrun => ?suspended,
      fun hdue hrun => ?run⟩⟩⟩
  case full => exact (State.walk_cons_of_good rows hgood).trans (if_pos hfull)
  case passed =>
    exact (State.walk_cons_of_good rows hgood).trans ((if_neg (Nat.not_le.2 hroom)).trans (if_neg hnot))
  case assigned =>
    refine ⟨_, (State.walk_cons_of_good rows hgood).trans
      ((if_neg (Nat.not_le.2 hroom)).trans (if_pos ⟨hstream, hmin, hmax⟩)), ?_, ?_, rfl, rfl⟩
    · exact fun m => State.assign_ticket ..
    · exact fun r => State.assign_containerRow ..
  case pass =>
    intro w k
    show (match k.handBackCause with | some cause => w.handBack cause | none => w) = _
    unfold Ticket.handBackCause
    split_ifs <;> rfl
  case none => exact if_neg (by simp [hdue])
  case suspended => exact (if_pos hdue).trans (if_neg (by rw [← Bool.not_eq_true] at hrun; exact hrun))
  case run => exact (if_pos hdue).trans (if_pos hrun)

end Sys2Proof.Machine
end

section
/-! PROOF. The hold of the current ticket, its hand-back, and the advance of the dispatch index to the next
ticket or to the fill index (R97, R103, R104). -/

namespace Sys2Proof.Machine

/-! ### The advance -/

/-- The slot at which an advance comes to rest: an OPEN one, or the fill index (R97). -/
def State.restsAt (s : State) (x : Nat) : Bool :=
  (s.ticket x).state = .opened || x = s.dispatch.fillIndex

/-- The dispatch index moves slot by slot to the first at which it rests; an OPEN ticket there becomes
current (R97). -/
theorem State.advance_of_restsAt {fuel m j : Nat} {s : State} (hj : 1 ≤ j) (hfuel : j ≤ fuel) (hm : m = (s.dispatch.dispatchIndex + j) % 16)
    (hrest : s.restsAt m = true)
    (hbefore : ∀ i, 1 ≤ i → i < j → s.restsAt ((s.dispatch.dispatchIndex + i) % 16) = false) :
    State.advance fuel s =
      if (s.ticket m).state = .opened then
        { s.putTicket m { s.ticket m with holdStart := some s.seconds } with
          dispatch := { s.dispatch with dispatchIndex := m, passDue := true } }
      else { s with dispatch := { s.dispatch with dispatchIndex := m } } := by
  induction fuel generalizing s j with
  | zero => omega
  | succ fuel ih =>
    have hrest' : (s.ticket m).state = .opened ∨ m = s.dispatch.fillIndex := by
      simpa [State.restsAt] using hrest
    by_cases h1 : j = 1
    · subst h1 hm
      rw [State.advance]
      by_cases ho : (s.ticket ((s.dispatch.dispatchIndex + 1) % 16)).state = .opened
      · exact (if_pos ho).trans (if_pos ho).symm
      · exact (if_neg ho).trans ((if_pos (hrest'.resolve_left ho)).trans (if_neg ho).symm)
    · have hnext := hbefore 1 le_rfl (by omega)
      have hnext' : ¬ (s.ticket ((s.dispatch.dispatchIndex + 1) % 16)).state = .opened ∧
          ¬ (s.dispatch.dispatchIndex + 1) % 16 = s.dispatch.fillIndex := by
        simpa [State.restsAt] using hnext
      rw [State.advance]
      refine (if_neg hnext'.1).trans ((if_neg hnext'.2).trans ?_)
      refine (ih (s := s.editDispatch fun x =>
        { x with dispatchIndex := (s.dispatch.dispatchIndex + 1) % 16 }) (j := j - 1)
        (by omega) (by omega) ?_ hrest fun i hi hij => ?_).trans rfl
      · rw [hm]
        show _ = ((s.dispatch.dispatchIndex + 1) % 16 + (j - 1)) % 16
        omega
      · have hi' := hbefore (i + 1) (by omega) (by omega)
        have hmod : ((s.dispatch.dispatchIndex + 1) % 16 + i) % 16 =
            (s.dispatch.dispatchIndex + (i + 1)) % 16 := by omega
        show s.restsAt (((s.dispatch.dispatchIndex + 1) % 16 + i) % 16) = false
        rw [hmod]
        exact hi'

/-! ### The hold -/

/-- The hold of a current ticket that runs out (R104). -/
theorem State.holdDue_iff {s : State} :
    s.holdDue = true ↔ s.running = true ∧ s.currentTicket.hold ≠ 0 ∧
      ∃ start, s.currentTicket.holdStart = some start ∧
        (s.seconds - (start + BitVec.ofNat 32 (s.currentTicket.hold * 60))).toNat < 2147483648 := by
  unfold State.holdDue Ticket.holdExpiry
  rw [Bool.and_eq_true]
  refine and_congr_right fun _ => ?_
  by_cases h0 : s.currentTicket.hold = 0
  · simp [h0]
  · cases hstart : s.currentTicket.holdStart with
    | none => simp [h0]
    | some start => simp [h0, reached_iff]

theorem exec_holdExpiry_of_due {s : State} (h : s.holdDue = true) :
    exec .holdExpiry s = .next (s.handBack .holdExpired).endEvent := congrArg _ (if_pos h)

theorem exec_holdExpiry_of_not_due {s : State} (h : ¬ s.holdDue = true) :
    exec .holdExpiry s = .next s := congrArg _ (if_neg h)

/-! ### The hand-back -/

/-- The current ticket as its hand-back leaves it, HANDED or, with nothing planned, COMPLETE (R103). -/
def Ticket.handedBack (k : Ticket) (cause : HandBackCause) : Ticket :=
  { k with state := if k.stops.any (fun p => p.status = .planned) then .handed else .complete,
           cause := some cause }

/-- The notices of a hand-back: TICKET READY, and TICKET COMPLETE with nothing planned (R103, R105). -/
def State.toldHandBack (s : State) (cause : HandBackCause) : State :=
  let n := s.dispatch.dispatchIndex
  let k := s.ticket n
  let ready := s.raise .ticketReady n (be16 k.number ++ [octet k.stops.length, cause.code])
  if k.stops.any fun p => p.status = .planned then ready
  else ready.raise .ticketComplete n (be16 k.number ++
    [octet (k.stops.countP fun p => p.status = .done),
      octet (k.stops.countP fun p => p.status = .skipped)])

/-- A hand-back writes the current ticket and tells of it, and the index advances (R103). -/
theorem State.handBack_eq_advance (s : State) (cause : HandBackCause) :
    ∃ u, s.handBack cause = State.advance 16 u ∧
      (∀ x, u.ticket x =
        if x = s.dispatch.dispatchIndex then s.currentTicket.handedBack cause else s.ticket x) ∧
      { u with tickets := s.tickets } = s.toldHandBack cause := by
  unfold State.handBack State.toldHandBack Ticket.handedBack State.currentTicket
  by_cases hplanned : (s.ticket s.dispatch.dispatchIndex).stops.any (fun p => p.status = .planned) = true
  · have hp : (s.ticket s.dispatch.dispatchIndex).stops.any Stop.isPlanned = true := hplanned
    simp only [hp, hplanned, if_true]
    exact ⟨_, rfl, fun x => (State.raise_ticket ..).trans (State.ticket_putTicket ..), rfl⟩
  · have hp : ¬ (s.ticket s.dispatch.dispatchIndex).stops.any Stop.isPlanned = true := hplanned
    simp only [hp, hplanned, if_false, Bool.false_eq_true]
    refine ⟨_, rfl, fun x => ?_, ?_⟩
    · simp only [State.completeTicket, State.raise_ticket, State.ticket_putTicket, if_true]
      split_ifs
      · rfl
      · rfl
    · simp only [State.completeTicket, State.raise_ticket, State.ticket_putTicket, if_true]
      rfl

/-- Where the first slot behind the dispatch index that is OPEN, other than the current one, or at the fill
index is reached, the hand-back comes to rest; an OPEN ticket there becomes current (R97, R103). -/
theorem State.handBack_of_rests {s : State} {cause : HandBackCause} {m j : Nat} {opened : Nat → Bool}
    (hop : ∀ x, opened x = (x != s.dispatch.dispatchIndex && (s.ticket x).state = .opened)) (hj : 1 ≤ j)
    (hm : m = (s.dispatch.dispatchIndex + j) % 16) (hrest : (opened m || m = s.dispatch.fillIndex) = true)
    (hbefore : ∀ i, 1 ≤ i → i < j → (opened ((s.dispatch.dispatchIndex + i) % 16) ||
      (s.dispatch.dispatchIndex + i) % 16 = s.dispatch.fillIndex) = false) (hj16 : j ≤ 16) :
    (∀ x, (s.handBack cause).ticket x =
      if x = s.dispatch.dispatchIndex then s.currentTicket.handedBack cause
      else if x = m && opened m then { s.ticket m with holdStart := some s.seconds }
      else s.ticket x) ∧
    { s.handBack cause with tickets := s.tickets } =
      { s.toldHandBack cause with dispatch := { s.dispatch with
          dispatchIndex := m, passDue := s.dispatch.passDue || opened m } } := by
  obtain ⟨u, hadvance, hticket, hframe⟩ := s.handBack_eq_advance cause
  have htold : (s.toldHandBack cause).dispatch = s.dispatch := by
    unfold State.toldHandBack
    dsimp only
    split_ifs <;> rfl
  have hdispatch : u.dispatch = s.dispatch := (congrArg State.dispatch hframe).trans htold
  have hseconds : u.seconds = s.seconds := by
    refine (congrArg State.seconds hframe).trans ?_
    unfold State.toldHandBack
    dsimp only
    split_ifs <;> rfl
  have hopened (x : Nat) : ((u.ticket x).state = .opened) = (opened x = true) := by
    rw [hticket]
    by_cases hx : x = s.dispatch.dispatchIndex
    · rw [if_pos hx]
      have hnot : (s.currentTicket.handedBack cause).state ≠ .opened := by
        unfold Ticket.handedBack
        dsimp only
        split_ifs <;> exact TicketState.noConfusion
      simp [hop, hx, hnot]
    · rw [if_neg hx]
      simp [hop, hx]
  have hrests (x : Nat) : u.restsAt x = (opened x || (x = s.dispatch.fillIndex : Bool)) := by
    simp only [State.restsAt, hopened, hdispatch, Bool.decide_eq_true]
  have hm' : m = (u.dispatch.dispatchIndex + j) % 16 := by rw [hdispatch]; exact hm
  have hrun := State.advance_of_restsAt (s := u) hj hj16 hm'
    ((hrests m).trans hrest) (fun i hi hij => by rw [hdispatch, hrests]; exact hbefore i hi hij)
  have hput (d : Dispatch) : ({ u with tickets := s.tickets, dispatch := d } : State) =
      { s.toldHandBack cause with dispatch := d } :=
    congrArg (fun v : State => { v with dispatch := d }) hframe
  rw [hadvance, hrun]
  by_cases ho : opened m = true
  · have hmn : m ≠ s.dispatch.dispatchIndex := by
      intro h
      simp [hop, h] at ho
    have hmu : u.ticket m = s.ticket m := (hticket m).trans (if_neg hmn)
    simp only [hopened, ho, if_true, Bool.and_true, decide_eq_true_eq, Bool.or_true]
    refine ⟨fun x => ?_, ?_⟩
    · refine (State.ticket_putTicket ..).trans ?_
      by_cases hx : x = m
      · subst hx
        rw [if_pos rfl, if_neg hmn, if_pos rfl, hmu, hseconds]
      · rw [if_neg hx, if_neg hx]
        exact hticket x
    · rw [hdispatch]
      exact hput _
  · simp only [hopened, ho, if_false, Bool.and_false, Bool.false_eq_true, Bool.or_false]
    refine ⟨hticket, ?_⟩
    rw [hdispatch]
    exact hput _

/-- Settles O35: HOLD_EXPIRY by whether the hold is due; a hand-back by where its advance comes to rest. -/
theorem holdExpiryHandsBack : Obligations.HoldExpiryHandsBack := by
  unfold Obligations.HoldExpiryHandsBack
  refine ⟨fun s hs => ⟨fun hnone => ?noHold, fun start hrun hhold hstart => ⟨fun hearly => ?early,
    fun hdue => ?due⟩⟩, fun s cause m j => ?handBack⟩
  case noHold =>
    refine exec_holdExpiry_of_not_due fun hd => ?_
    obtain ⟨hrun, hhold, start, hstart, -⟩ := State.holdDue_iff.1 hd
    rcases hnone with h | h | h
    · rw [h] at hrun; exact Bool.noConfusion hrun
    · exact hhold h
    · exact Option.some_ne_none start (hstart.symm.trans h)
  case early =>
    refine exec_holdExpiry_of_not_due fun hd => ?_
    obtain ⟨-, -, start', hstart', hdue⟩ := State.holdDue_iff.1 hd
    obtain rfl := Option.some.inj (hstart.symm.trans hstart')
    exact Nat.not_lt.2 hearly hdue
  case due =>
    exact exec_holdExpiry_of_due
      (State.holdDue_iff.2 ⟨hrun, Nat.one_le_iff_ne_zero.1 hhold, start, hstart, hdue⟩)
  case handBack =>
    intro n k opened rests hn hj hm hrest hbefore hj16
    exact State.handBack_of_rests (fun x => rfl) hj hm hrest hbefore hj16

end Sys2Proof.Machine
end

section
/-! PROOF. GIVE TICKET and RECALL TICKET (R98, R99, R106, R107). -/

namespace Sys2Proof.Machine

/-! ### Tables written twice -/

/-- An entry written twice has the value written last. -/
theorem Table.insert_insert {α : Type} (t : Table α) (k : Nat) (v w : α) :
    Table.insert (Table.insert t k v) k w = Table.insert t k w := by
  induction t with
  | nil => simp [Table.insert]
  | cons p t ih =>
    obtain ⟨a, x⟩ := p
    rw [Table.insert, Table.insert]
    by_cases hlt : k < a
    · simp [hlt, Table.insert]
    · by_cases heq : k = a
      · simp [heq, Table.insert]
      · simp [hlt, heq, Table.insert, ih]

theorem State.putTicket_putTicket {k k' : Ticket} (h : k ≠ Ticket.free) (h' : k' ≠ Ticket.free)
    (s : State) (n : Nat) : (s.putTicket n k).putTicket n k' = s.putTicket n k' := by
  simp only [State.putTicket, Table.set, if_neg h, if_neg h', Table.insert_insert]

/-- A ticket that is not FREE is no free slot. -/
theorem Ticket.ne_free {k : Ticket} (h : k.state ≠ .free) : k ≠ Ticket.free :=
  fun heq => h (congrArg Ticket.state heq)

/-! ### GIVE TICKET -/

theorem exec_giveTicket_of_carries {s : State} {tag : Octet} {args : List Octet} {r : Answered}
    (h : s.Carries tag (0x30 :: args)) (hr : giveTicketRequest args s = r) :
    exec .giveTicket s = .next (r.state.replied tag 0x30 r.result r.data) :=
  congrArg _ (State.serve_answers (f := giveTicketRequest) h rfl hr)

/-- Over an empty list a pass only looks at its ticket (R100, R102). -/
theorem State.pass_of_list_nil {s : State} (h : s.dispatch.list = []) :
    s.pass = match s.currentTicket.handBackCause with
      | some cause => s.handBack cause
      | none => s := by
  simp only [State.pass, h, State.walk] <;>
  rfl

/-- A stream that reads good is looked up, and then the slot at the fill index (R98). -/
theorem State.giveOfStream_of_good {s : State} {k : Ticket} (h : (s.streamRow k.stream).bad = false) :
    s.giveOfStream k =
      if (s.streamRow k.stream).data.loaded = false then refused s .range
      else if (s.ticket s.dispatch.fillIndex).state = .free then s.giveTicket k
      else refused s .ringFull := by
  simp only [State.giveOfStream, State.readStream_of_good h, h, Bool.false_eq_true, if_false,
    Bool.not_eq_true']

/-- The ticket stands in the slot at the fill index, which has moved on (R99). -/
def State.placed (s : State) (k : Ticket) : State :=
  ({ s with dispatch := { s.dispatch with fillIndex := (s.dispatch.fillIndex + 1) % 16 } } :
    State).putTicket s.dispatch.fillIndex k

/-- The same while SUSPENDED: the ticket is current and its pass due (R97, R99). -/
def State.placedCurrent (s : State) (k : Ticket) : State :=
  ({ s with dispatch := { s.dispatch with
      fillIndex := (s.dispatch.fillIndex + 1) % 16, passDue := true } } :
    State).putTicket s.dispatch.fillIndex { k with holdStart := some s.seconds }

@[simp] theorem State.placed_ticket (s : State) (k : Ticket) (n : Nat) :
    (s.placed k).ticket n = if n = s.dispatch.fillIndex then k else s.ticket n :=
  State.ticket_putTicket ..

@[simp] theorem State.placedCurrent_ticket (s : State) (k : Ticket) (n : Nat) :
    (s.placedCurrent k).ticket n =
      if n = s.dispatch.fillIndex then { k with holdStart := some s.seconds } else s.ticket n :=
  State.ticket_putTicket ..

theorem State.running_iff {s : State} : s.running = true ↔ s.currentTicket.state = .opened :=
  decide_eq_true_iff

/-- Accepted while RUNNING, a ticket waits in its slot (R99). -/
theorem State.giveTicket_of_running {s : State} (hs : s.Settled) (hrun : s.running = true) {k : Ticket}
    (hk : k.state = .opened) :
    s.giveTicket k = accepted (s.placed k) [octet s.dispatch.fillIndex, 0] := by
  have hrun' : (s.placed k).running = true := by
    refine State.running_iff.2 ((congrArg Ticket.state (State.placed_ticket ..)).trans ?_)
    split_ifs
    · exact hk
    · exact State.running_iff.1 hrun
  have hend : (s.placed k).endEvent = s.placed k := State.endEvent_of_settled hs
  have hgive : s.giveTicket k = accepted (if !s.running then (s.placed k).becomeCurrent else
      s.placed k).endEvent [octet s.dispatch.fillIndex, (if !s.running then (s.placed k).becomeCurrent else
      s.placed k).endEvent.dispatchCode] := rfl
  rw [hgive, hrun, Bool.not_true, if_neg Bool.false_ne_true, hend, State.dispatchCode, if_pos hrun']

/-- Accepted while SUSPENDED, it becomes current and its pass is run (R97, R99). -/
theorem State.giveTicket_of_suspended {s : State} (hrun : s.running = false)
    (hindex : s.dispatch.dispatchIndex = s.dispatch.fillIndex) {k : Ticket} (hk : k.state ≠ .free) :
    s.giveTicket k = accepted (s.placedCurrent k).endEvent
      [octet s.dispatch.fillIndex, (s.placedCurrent k).endEvent.dispatchCode] := by
  have hcurrent : (s.placed k).becomeCurrent = s.placedCurrent k := by
    unfold State.becomeCurrent
    have hk' : (s.placed k).ticket (s.placed k).dispatch.dispatchIndex = k := by
      rw [State.placed_ticket]
      exact if_pos hindex
    simp only [hk']
    show (((s.placed k).putTicket s.dispatch.dispatchIndex { k with holdStart := some s.seconds })).makePassDue = _
    rw [hindex, State.placed, State.putTicket_putTicket (Ticket.ne_free hk)
      (Ticket.ne_free (k := { k with holdStart := some s.seconds }) hk)]
    rfl
  have hgive : s.giveTicket k = accepted (if !s.running then (s.placed k).becomeCurrent else
      s.placed k).endEvent [octet s.dispatch.fillIndex, (if !s.running then (s.placed k).becomeCurrent else
      s.placed k).endEvent.dispatchCode] := rfl
  rw [hgive, hrun, Bool.not_false, if_pos rfl, hcurrent]

/-- With no pass due none is run (R99). -/
theorem State.runPasses_of_settled {s : State} (h : s.Settled) (n : Nat) :
    State.runPasses (n + 1) s = s := by
  rw [State.runPasses, if_neg (by simp [h])]

/-- The new current ticket, with nothing in the list, is handed back at once or stays current (R102). -/
theorem State.placedCurrent_endEvent_of_list_nil {s : State} (hs : s.Settled) {k : Ticket}
    (hk : k.state = .opened) (hindex : s.dispatch.dispatchIndex = s.dispatch.fillIndex)
    (hlist : s.dispatch.list = []) :
    (s.placedCurrent k).endEvent =
      State.runPasses 16 (match k.handBackCause with
        | some cause => (s.placed { k with holdStart := some s.seconds }).handBack cause
        | none => s.placed { k with holdStart := some s.seconds }) := by
  have hcurrent : (s.placedCurrent k).currentTicket = { k with holdStart := some s.seconds } :=
    (State.placedCurrent_ticket ..).trans (if_pos hindex)
  have hrun : (s.placedCurrent k).running = true := by
    rw [State.running_iff, hcurrent]
    exact hk
  have hlooked : ((s.placedCurrent k).editDispatch fun x => { x with passDue := false }) =
      s.placed { k with holdStart := some s.seconds } := by
    have hd : ({ s.dispatch with fillIndex := (s.dispatch.fillIndex + 1) % 16, passDue := false } : Dispatch) =
        { s.dispatch with fillIndex := (s.dispatch.fillIndex + 1) % 16 } := by rw [← hs]
    exact congrArg (fun d : Dispatch => ({ s with dispatch := d } : State).putTicket
      s.dispatch.fillIndex { k with holdStart := some s.seconds }) hd
  rw [State.endEvent_of_running hrun rfl, hlooked, State.pass_of_list_nil (s := s.placed _) hlist,
    show (s.placed _).currentTicket = _ from (State.placed_ticket ..).trans (if_pos hindex)]
  rfl

/-- R98's ranges. -/
theorem Ticket.inRange_given_iff {number stream capacity maxStops minVolume hold : Nat} :
    (Ticket.given number stream capacity maxStops minVolume hold).inRange = true ↔
      stream ≤ 7 ∧ 100 ≤ capacity ∧ capacity ≤ 60000 ∧ 1 ≤ maxStops ∧ maxStops ≤ 24 ∧
        minVolume ≤ 5000 := by
  simp only [Ticket.inRange, Bool.and_eq_true, decide_eq_true_eq, and_assoc]
  exact Iff.rfl

/-- Settles O32: the checks in their order, then RUNNING or SUSPENDED. -/
theorem giveTicketTakesSlot : Obligations.GiveTicketTakesSlot := by
  unfold Obligations.GiveTicketTakesSlot
  intro s tag nh nl stream ch cl stops vh vl hold hs h capacity given fits slot
  have hfits : given.inRange = true ↔ fits := Ticket.inRange_given_iff
  have answers {r : Answered} (hfit : fits) (hgood : (s.streamRow stream.toNat).bad = false)
      (hr : (if (s.streamRow stream.toNat).data.loaded = false then refused s .range
        else if (s.ticket s.dispatch.fillIndex).state = .free then s.giveTicket given
        else refused s .ringFull) = r) :
      exec .giveTicket s = .next (r.state.replied tag 0x30 r.result r.data) := by
    refine exec_giveTicket_of_carries h ?_
    show (if given.inRange then s.giveOfStream given else refused s .range) = r
    rw [if_pos (hfits.2 hfit), State.giveOfStream_of_good hgood, hr]
  refine ⟨fun hout => ?range, fun hfit hgood => ⟨fun hload => ?unloaded, fun hload hbusy => ?ringFull,
    fun hload hfree => ⟨fun hrun => ?waits, fun hrun hindex => ?suspended⟩⟩⟩
  case range =>
    refine exec_giveTicket_of_carries h (r := refused s .range) ?_
    exact if_neg (mt hfits.1 hout)
  case unloaded => exact answers (r := refused s .range) hfit hgood (if_pos hload)
  case ringFull =>
    exact answers (r := refused s .ringFull) hfit hgood ((if_neg (by simp [hload])).trans (if_neg hbusy))
  case waits =>
    refine ⟨_, answers hfit hgood ((if_neg (by simp [hload])).trans ((if_pos hfree).trans
      (State.giveTicket_of_running hs hrun rfl))), fun k => ?_, rfl⟩
    exact (State.replied_ticket ..).trans (State.placed_ticket ..)
  case suspended =>
    have hgive := answers hfit hgood ((if_neg (by simp [hload])).trans ((if_pos hfree).trans
      (State.giveTicket_of_suspended (k := given) hrun hindex (by simp [given]))))
    have hcause : given.handBackCause =
        if capacity < u16 vh vl then some .capacity else if hold.toNat = 0 then some .noHold else none := by
      have hstops : ¬ 0 = stops.toNat := by omega
      exact if_neg hstops
    refine ⟨hgive, fun hlist hvol hhold => ?stays, fun hlist hback hnext => ?handedBack⟩
    case stays =>
      have hnone : given.handBackCause = none :=
        hcause.trans ((if_neg (by omega)).trans (if_neg (by omega)))
      have hend := State.placedCurrent_endEvent_of_list_nil hs (k := given) rfl hindex hlist
      rw [hnone] at hend
      have hend' : (s.placedCurrent given).endEvent = s.placed { given with holdStart := some s.seconds } :=
        hend.trans (State.runPasses_of_settled (s := s.placed _) hs 15)
      have hrunning : (s.placed { given with holdStart := some s.seconds }).running = true :=
        State.running_iff.2 (congrArg Ticket.state ((State.placed_ticket ..).trans (if_pos hindex)))
      rw [hend', State.dispatchCode, if_pos hrunning] at hgive
      exact ⟨_, hgive, fun k => (State.replied_ticket ..).trans (State.placed_ticket ..), rfl⟩
    case handedBack =>
      intro cause
      have hsome : given.handBackCause = some cause := by
        refine hcause.trans ?_
        by_cases hvol : capacity < u16 vh vl
        · simp only [cause, if_pos hvol]
        · have hzero : hold.toNat = 0 := by rw [hback.resolve_left hvol]; rfl
          simp only [cause, if_neg hvol, if_pos hzero]
      have hend := State.placedCurrent_endEvent_of_list_nil hs (k := given) rfl hindex hlist
      rw [hsome] at hend
      let current : Ticket := { given with holdStart := some s.seconds }
      let u := s.placed current
      let m := (slot + 1) % 16
      have hne : m ≠ slot := by
        simp only [m]
        omega
      have hu : u.ticket m = s.ticket m := (State.placed_ticket ..).trans (if_neg hne)
      have hslot : u.dispatch.dispatchIndex = slot := hindex
      have hcurrent : u.ticket slot = current := (State.placed_ticket ..).trans (if_pos rfl)
      have hclosed : (m != u.dispatch.dispatchIndex && (u.ticket m).state = .opened) = false := by
        rw [hu]
        simp [hnext, m]
      obtain ⟨hticket, hframe⟩ := State.handBack_of_rests (s := u) (cause := cause) (m := m) (j := 1)
        (fun x => rfl) le_rfl (by rw [hslot]) (by rw [hclosed]; exact decide_eq_true rfl)
        (fun i hi hij => by omega) (by omega)
      rw [hclosed, Bool.or_false] at hframe
      have hsettled : (u.handBack cause).Settled :=
        (congrArg (fun v : State => v.dispatch.passDue) hframe).trans hs
      have hend' : (s.placedCurrent given).endEvent = u.handBack cause :=
        hend.trans (State.runPasses_of_settled hsettled 15)
      have hrest (n : Nat) : (u.handBack cause).ticket n =
          if n = slot then current.handedBack cause else s.ticket n := by
        rw [hticket n, hclosed, Bool.and_false, if_neg Bool.false_ne_true, State.currentTicket, hslot,
          hcurrent]
        by_cases hn : n = slot
        · rw [if_pos hn, if_pos hn]
        · rw [if_neg hn, if_neg hn]
          exact (State.placed_ticket ..).trans (if_neg hn)
      have hindex' : (u.handBack cause).dispatch.dispatchIndex = m :=
        congrArg (fun v : State => v.dispatch.dispatchIndex) hframe
      have hsuspended : ¬ (u.handBack cause).running = true := by
        rw [State.running_iff, State.currentTicket, hindex', hrest, if_neg hne]
        exact hnext
      rw [hend', State.dispatchCode, if_neg hsuspended] at hgive
      refine ⟨_, hgive, fun k => (State.replied_ticket ..).trans (hrest k), ?_⟩
      have htold : u.toldHandBack cause =
          (u.raise .ticketReady slot [nh, nl, 0, cause.code]).raise .ticketComplete slot [nh, nl, 0, 0] := by
        unfold State.toldHandBack
        simp only [hslot, hcurrent, current, given, List.any_nil, Bool.false_eq_true, if_false, be16_u16]
        rfl
      rw [htold] at hframe
      exact congrArg (fun v : State => ({ v with tickets := s.tickets } : State).replied tag 0x30 .accepted
        [octet slot, 1]) hframe

/-! ### RECALL TICKET -/

theorem exec_recallTicket_of_carries {s : State} {tag slot : Octet} {r : Answered}
    (h : s.Carries tag [0x31, slot]) (hr : recallTicketRequest [slot] s = r) :
    exec .recallTicket s = .next (r.state.replied tag 0x31 r.result r.data) :=
  congrArg _ (State.serve_answers (f := recallTicketRequest) h rfl hr)

theorem recallTicketRequest_of_gt {slot : Octet} (h : 15 < slot.toNat) (s : State) :
    recallTicketRequest [slot] s = refused s .range := if_pos h

theorem recallTicketRequest_of_closed {slot : Octet} {s : State} (h : slot.toNat ≤ 15)
    (hstate : (s.ticket slot.toNat).state = .free ∨ (s.ticket slot.toNat).state = .complete) :
    recallTicketRequest [slot] s = refused s .state := by
  refine (if_neg (Nat.not_lt.2 h)).trans (if_neg ?_)
  rcases hstate with hstate | hstate <;> simp [hstate]

theorem recallTicketRequest_of_live {slot : Octet} {s : State} (h : slot.toNat ≤ 15)
    (hstate : (s.ticket slot.toNat).state = .opened ∨ (s.ticket slot.toNat).state = .handed) :
    recallTicketRequest [slot] s = accepted (s.recall slot.toNat).endEvent
      [(s.ticket slot.toNat).state.code, octet (s.ticket slot.toNat).plannedRows.length] := by
  refine (if_neg (Nat.not_lt.2 h)).trans (if_pos ?_)
  simpa using hstate

/-- A PLANNED stop is SKIPPED by a recall, and no other is changed (R106). -/
theorem Stop.skip_eq (p : Stop) :
    p.skip = if p.status = .planned then { p with status := .skipped } else p := by
  simp only [Stop.skip, Stop.isPlanned, decide_eq_true_eq]

theorem Ticket.recalled_eq (k : Ticket) :
    k.recalled = { k with state := .complete,
                          cause := if k.state = .opened then some .recalled else k.cause,
                          stops := k.stops.map fun p =>
                            if p.status = .planned then { p with status := .skipped } else p } := by
  simp only [Ticket.recalled, ← Stop.skip_eq]

/-- A ticket without a PLANNED stop keeps its stops in a recall. -/
theorem Ticket.map_skip_of_plannedRows_nil {k : Ticket} (h : k.plannedRows = []) :
    k.stops.map Stop.skip = k.stops := by
  have hnone : ∀ p ∈ k.stops, ¬ p.isPlanned = true := by
    intro p hp hplan
    have hmem : p.row ∈ k.plannedRows :=
      List.mem_map.2 ⟨p, List.mem_filter.2 ⟨hp, hplan⟩, rfl⟩
    rw [h] at hmem
    exact List.not_mem_nil hmem
  have hmap : k.stops.map Stop.skip = k.stops.map id :=
    List.map_congr_left fun p hp => if_neg (hnone p hp)
  rw [hmap, List.map_id]

/-- The ticket is recalled and its containers are told of, before the index moves (R106). -/
def State.recallTold (s : State) (slot : Nat) : State :=
  let k := s.ticket slot
  k.plannedRows.foldl State.tellSame ((k.plannedRows.foldl State.unassign s).putTicket slot k.recalled)

theorem State.recall_of_current {s : State} {slot : Nat} (hrun : s.running = true)
    (hslot : s.dispatch.dispatchIndex = slot) : s.recall slot = State.advance 16 (s.recallTold slot) :=
  if_pos (by simp [hrun, hslot])

theorem State.recall_of_not_current {s : State} {slot : Nat}
    (h : s.running = false ∨ s.dispatch.dispatchIndex ≠ slot) : s.recall slot = s.recallTold slot := by
  refine if_neg fun hc => ?_
  rw [Bool.and_eq_true, decide_eq_true_eq] at hc
  rcases h with h | h
  · exact Bool.false_ne_true (h.symm.trans hc.1)
  · exact h hc.2.symm

/-- What a recall leaves alone before the index moves, and what it makes of the ring and of the
assignments (R106). -/
theorem State.recallTold_spec (s : State) (slot : Nat) :
    (∃ l j p cs ts, s.recallTold slot = { s with
      containers := cs
      tickets := ts
      dispatch := { s.dispatch with list := l, joinCounter := j, passDue := p } }) ∧
    (∀ n, (s.recallTold slot).ticket n =
      if n = slot then (s.ticket slot).recalled else s.ticket n) ∧
    (∀ row, ((s.recallTold slot).container row).assignment =
      if row ∈ (s.ticket slot).plannedRows then none else (s.container row).assignment) ∧
    ∀ row, row ∉ (s.ticket slot).plannedRows →
      (s.recallTold slot).containerRow row = s.containerRow row := by
  obtain ⟨⟨cs, hun⟩, hrows⟩ := State.unassign_rows (s.ticket slot).plannedRows s
  let u := ((s.ticket slot).plannedRows.foldl State.unassign s).putTicket slot (s.ticket slot).recalled
  obtain ⟨⟨l, j, p, cs', htell⟩, hsame, hassign⟩ := State.tellSame_rows (s.ticket slot).plannedRows u
  have hu : u = ({ s with containers := cs } : State).putTicket slot (s.ticket slot).recalled := by
    simp only [u, hun]
  have hurow (row : Nat) : u.containerRow row =
      if row ∈ (s.ticket slot).plannedRows then
        { data := { s.container row with assignment := none }, bad := (s.containerRow row).bad }
      else s.containerRow row := hrows row
  have htold : s.recallTold slot = { u with
      containers := cs'
      dispatch := { u.dispatch with list := l, joinCounter := j, passDue := p } } := htell
  refine ⟨⟨l, j, p, cs', u.tickets, ?_⟩, fun n => ?_, fun row => ?_, fun row hrow => ?_⟩
  · rw [htold, hu]
    rfl
  · have hn : (s.recallTold slot).ticket n = u.ticket n := by
      rw [htold]
      rfl
    rw [hn, hu]
    exact State.ticket_putTicket ..
  · refine (hassign row).trans ((congrArg (fun r : Row Container => r.data.assignment) (hurow row)).trans ?_)
    split_ifs <;> rfl
  · exact (hsame row hrow).trans ((hurow row).trans (if_neg hrow))

/-- Settles O33: a recall by what its ticket is, and the index by where it comes to rest. -/
theorem recallTicketSkipsStops : Obligations.RecallTicketSkipsStops := by
  unfold Obligations.RecallTicketSkipsStops
  intro s tag slot hs h k rows
  have hrowsEq : k.plannedRows = rows := rfl
  obtain ⟨⟨l, j', p, cs, ts, htold⟩, htickets, hassign, hothers⟩ := s.recallTold_spec slot.toNat
  refine ⟨fun hgt => ?above, fun hle hstate => ?closed,
    fun hle hrun hindex hfill hnone hclosed => ?current,
    fun hle hstate hquiet => ?notCurrent, fun hle hstate => ?exact⟩
  case above => exact exec_recallTicket_of_carries h (recallTicketRequest_of_gt hgt s)
  case closed => exact exec_recallTicket_of_carries h (recallTicketRequest_of_closed hle hstate)
  case current =>
    have hopen : k.state = .opened := by
      have hcurrent := State.running_iff.1 hrun
      rwa [State.currentTicket, hindex] at hcurrent
    have hput : s.recallTold slot.toNat = s.putTicket slot.toNat k.recalled := by
      unfold State.recallTold
      simp only [hrowsEq, hnone, List.foldl_nil, k]
    have hadvance : s.recall slot.toNat = (s.putTicket slot.toNat k.recalled).editDispatch
        fun x => { x with dispatchIndex := x.fillIndex } := by
      rw [State.recall_of_current hrun hindex, hput]
      refine State.advance_rests 16 _ (fun m => ?_) (hindex.trans_le hle |> Nat.lt_succ_of_le) hfill
        (Nat.mod_lt _ (by decide))
      rw [State.ticket_putTicket]
      split_ifs with hm
      · exact TicketState.noConfusion
      · exact hclosed m hm
    have hend : (s.recall slot.toNat).endEvent = s.recall slot.toNat :=
      State.endEvent_of_settled (by rw [hadvance]; exact hs)
    have hr := recallTicketRequest_of_live hle (Or.inl hopen)
    rw [hend, hadvance, hopen, hrowsEq, hnone] at hr
    refine ⟨_, exec_recallTicket_of_carries h hr, fun n => ?_, rfl, rfl⟩
    have hticket := State.ticket_putTicket s slot.toNat n k.recalled
    have hrecalled : k.recalled = { k with state := .complete, cause := some .recalled } := by
      unfold Ticket.recalled
      rw [Ticket.map_skip_of_plannedRows_nil (hrowsEq.trans hnone), if_pos hopen]
    rw [hrecalled] at hticket
    rw [hrecalled]
    exact (State.replied_ticket ..).trans hticket
  case notCurrent =>
    have hquiet' : s.running = false ∨ s.dispatch.dispatchIndex ≠ slot.toNat := hquiet.imp_right And.left
    have hend : ∃ b, (s.recallTold slot.toNat).endEvent =
        (s.recallTold slot.toNat).editDispatch fun x => { x with passDue := b } := by
      rcases hquiet with hstop | ⟨-, hnone⟩
      · refine ⟨false, State.endEvent_of_suspended (Bool.eq_false_iff.2 fun hrun => ?_)⟩
        have hcurrent := State.running_iff.1 hrun
        rw [State.currentTicket, htickets] at hcurrent
        split_ifs at hcurrent
        · exact TicketState.noConfusion hcurrent
        · rw [htold] at hcurrent
          exact Bool.false_ne_true (hstop.symm.trans (State.running_iff.2 hcurrent))
      · have hput : s.recallTold slot.toNat = s.putTicket slot.toNat k.recalled := by
          unfold State.recallTold
          simp only [hrowsEq, hnone, List.foldl_nil, k]
        exact ⟨_, State.endEvent_of_settled (by rw [hput]; exact hs)⟩
    obtain ⟨b, hend⟩ := hend
    have hr := recallTicketRequest_of_live hle hstate
    rw [State.recall_of_not_current hquiet', hend] at hr
    refine ⟨_, exec_recallTicket_of_carries h hr, fun n => ?_, fun row => hassign row,
      fun row hrow => hothers row hrow, ?_, ?_, ?_, ?_⟩
    · exact (htickets n).trans (by rw [Ticket.recalled_eq])
    · exact (congrArg (fun v : State => v.dispatch.fillIndex) htold :)
    · exact (congrArg (fun v : State => v.dispatch.dispatchIndex) htold :)
    · exact (congrArg State.notices htold :)
    · exact (congrArg (fun v : State =>
        ({ v with tickets := s.tickets, containers := s.containers, dispatch := s.dispatch } :
          State).replied tag 0x31 .accepted [k.state.code, octet rows.length]) htold :)
  case exact =>
    intro unassigned ended told answered
    have htoldEq : s.recallTold slot.toNat = told := by
      simp only [told, ended, unassigned, ← Ticket.recalled_eq]
      rfl
    have hr := recallTicketRequest_of_live hle hstate
    refine ⟨fun hquiet => ?_, fun hrun hindex m j => ?_⟩
    · rw [State.recall_of_not_current hquiet, htoldEq] at hr
      exact exec_recallTicket_of_carries h hr
    · intro opened rests hj hj16 hm hrest hbefore
      rw [htoldEq] at htold htickets
      have hdispatch : told.dispatch.dispatchIndex = slot.toNat :=
        (congrArg (fun v : State => v.dispatch.dispatchIndex) htold).trans hindex
      have hfill : told.dispatch.fillIndex = s.dispatch.fillIndex :=
        (congrArg (fun v : State => v.dispatch.fillIndex) htold :)
      have hopened (x : Nat) : ((told.ticket x).state = .opened) = (opened x = true) := by
        rw [htickets]
        by_cases hx : x = slot.toNat
        · simp [opened, hx, Ticket.recalled]
        · simp [opened, hx]
      have hrests (x : Nat) : told.restsAt x = rests x := by
        simp only [State.restsAt, hopened, hfill, Bool.decide_eq_true, rests]
      have hadvance := State.advance_of_restsAt (s := told) hj hj16 (by rw [hdispatch]; exact hm)
        ((hrests m).trans hrest) (fun i hi hij => by rw [hdispatch, hrests]; exact hbefore i hi hij)
      rw [State.recall_of_current hrun hindex, htoldEq, hadvance] at hr
      have hexec := exec_recallTicket_of_carries h hr
      by_cases ho : opened m = true
      · have hmn : m ≠ slot.toNat := by
          intro hm'
          simp [opened, hm'] at ho
        have hseconds : told.seconds = s.seconds := (congrArg State.seconds htold :)
        rw [if_pos (by rw [hopened]; exact ho), (htickets m).trans (if_neg hmn), hseconds] at hexec
        rw [if_pos ho]
        exact hexec
      · rw [if_neg (by rw [hopened]; exact ho)] at hexec
        rw [if_neg ho]
        exact hexec

end Sys2Proof.Machine
end

section
/-! PROOF. The clocks (R165, R166), and the warm restart: what it keeps, what it makes of the segments and their
stations, and the list it rebuilds (R18, R59, R83, R112, R126, R141, R157, R172, R180). -/

namespace Sys2Proof.Machine

/-! ### Upsets and the seconds count -/

/-- The state with the memory tables and the Journal of another. -/
def State.withMemory (s r : State) : State :=
  { s with stations := r.stations, containers := r.containers, streams := r.streams, series := r.series,
           window := r.window, cards := r.cards, kinds := r.kinds, journal := r.journal }

/-- An upset reaches the memory tables and the Journal alone (log entry 3). -/
theorem State.upset_withMemory (s : State) (u : Upset) (r : State) :
    (s.upset u).withMemory r = s.withMemory r := by
  unfold State.upset
  split_ifs
  · cases u <;> rfl
  · rfl

/-- It disturbs records of the Journal, and not their number nor their slots. -/
theorem State.upset_journal (s : State) (u : Upset) :
    (s.upset u).journal.counter = s.journal.counter ∧
      (s.upset u).journal.nextSlot = s.journal.nextSlot ∧
      (s.upset u).journal.records.length = s.journal.records.length := by
  unfold State.upset
  split_ifs
  · cases u
    case journal slot found => exact ⟨rfl, rfl, List.length_mapIdx⟩
    all_goals exact ⟨rfl, rfl, rfl⟩
  · exact ⟨rfl, rfl, rfl⟩

theorem State.foldl_upset_withMemory (ups : List Upset) (s r : State) :
    (ups.foldl State.upset s).withMemory r = s.withMemory r := by
  induction ups generalizing s with
  | nil => rfl
  | cons u ups ih => exact (ih _).trans (State.upset_withMemory ..)

theorem State.foldl_upset_journal (ups : List Upset) (s : State) :
    (ups.foldl State.upset s).journal.counter = s.journal.counter ∧
      (ups.foldl State.upset s).journal.nextSlot = s.journal.nextSlot ∧
      (ups.foldl State.upset s).journal.records.length = s.journal.records.length := by
  induction ups generalizing s with
  | nil => exact ⟨rfl, rfl, rfl⟩
  | cons u ups ih =>
    obtain ⟨hc, hn, hl⟩ := s.upset_journal u
    obtain ⟨hc', hn', hl'⟩ := ih (s.upset u)
    exact ⟨hc'.trans hc, hn'.trans hn, hl'.trans hl⟩

theorem exec_secondsCountAdvance (ups : List Upset) (s : State) :
    exec (.secondsCountAdvance ups) s = .next (ups.foldl State.upset s.tick) := rfl

/-- The district clock after a second of its day (R166). -/
theorem Clock.tick_eq {day minute second : Nat} (hs : second ≤ 59) (hm : minute ≤ 1439) (hd : day ≤ 65535) :
    ({ day := day, minute := minute, second := second } : Clock).tick =
      if second < 59 then { day := day, minute := minute, second := second + 1 }
      else if minute < 1439 then { day := day, minute := minute + 1, second := 0 }
      else if day < 65535 then { day := day + 1, minute := 0, second := 0 }
      else { day := 0, minute := 0, second := 0 } := by
  by_cases hsecond : second < 59
  · rw [if_pos hsecond]
    exact if_pos (Nat.succ_lt_succ hsecond)
  · refine (if_neg (by simp only; omega)).trans ?_
    rw [if_neg hsecond]
    by_cases hminute : minute < 1439
    · rw [if_pos hminute]
      exact if_pos (Nat.succ_lt_succ hminute)
    · refine (if_neg (by simp only; omega)).trans ?_
      rw [if_neg hminute]
      by_cases hday : day < 65535
      · rw [if_pos hday, Nat.mod_eq_of_lt (by simp only; omega)]
      · obtain rfl : day = 65535 := by omega
        simp

/-! ### The stations of a segment -/

theorem mem_segAddrs {g : Seg} {a : Nat} : a ∈ segAddrs g ↔ 1 ≤ a ∧ a ≤ 64 ∧ segOf a = g := by
  unfold segOf
  cases g
  · simp only [segAddrs, List.mem_range'_1]
    split_ifs with h
    · simp; omega
    · simp; omega
  · simp only [segAddrs, List.mem_range'_1]
    split_ifs with h
    · simp; omega
    · simp; omega

theorem nodup_segAddrs (g : Seg) : (segAddrs g).Nodup := by
  cases g <;> exact List.nodup_range'

/-- A change of stations one by one leaves all but the Station Table. -/
theorem State.foldl_editStation_restored (f : Station → Station) (addrs : List Nat) (s : State) :
    { addrs.foldl (fun s addr => s.editStation addr f) s with stations := s.stations } = s := by
  induction addrs generalizing s with
  | nil => rfl
  | cons a addrs ih =>
    exact congrArg (fun t : State => { t with stations := s.stations }) (ih (s.editStation a f))

/-- Each station named once is changed once. -/
theorem State.foldl_editStation_stationRow (f : Station → Station) {addrs : List Nat}
    (hnodup : addrs.Nodup) (s : State) (a : Nat) :
    (addrs.foldl (fun s addr => s.editStation addr f) s).stationRow a =
      if a ∈ addrs then { data := f (s.station a), bad := (s.stationRow a).bad } else s.stationRow a := by
  induction addrs generalizing s with
  | nil => rfl
  | cons b addrs ih =>
    obtain ⟨hb, hrest⟩ := List.nodup_cons.1 hnodup
    rw [List.foldl_cons, ih hrest]
    unfold State.station
    rw [State.stationRow_editStation]
    by_cases hab : a = b
    · subst hab
      simp [hb, State.station]
    · simp [hab]

theorem State.editSegStations_restored (s : State) (g : Seg) (f : Station → Station) :
    { s.editSegStations g f with stations := s.stations } = s :=
  State.foldl_editStation_restored f (segAddrs g) s

theorem State.editSegStations_stationRow (s : State) (g : Seg) (f : Station → Station) (a : Nat) :
    (s.editSegStations g f).stationRow a =
      if a ∈ segAddrs g then { data := f (s.station a), bad := (s.stationRow a).bad }
      else s.stationRow a :=
  State.foldl_editStation_stationRow f (nodup_segAddrs g) s a

/-! ### The list rebuilt -/

/-- The rows below a bound that meet R92's conditions, in row order. -/
def State.eligibleBelow (s : State) (n : Nat) : List Nat :=
  (List.range n).filter fun row => (s.container row).eligible

theorem State.eligibleBelow_succ (s : State) (n : Nat) :
    s.eligibleBelow (n + 1) =
      if (s.container n).eligible then s.eligibleBelow n ++ [n] else s.eligibleBelow n := by
  unfold State.eligibleBelow
  rw [List.range_succ, List.filter_append, List.filter_cons, List.filter_nil]
  split_ifs
  · rfl
  · exact List.append_nil _

theorem State.mem_eligibleBelow {s : State} {n row : Nat} :
    row ∈ s.eligibleBelow n ↔ row < n ∧ (s.container row).eligible = true := by
  simp [State.eligibleBelow]

/-- R93's order among rows that join in row order. -/
def State.RanksBefore (s : State) (x y : Nat) : Prop :=
  (s.isFull x = true ∧ s.isFull y = false) ∨ (s.isFull x = s.isFull y ∧
    (s.volume y < s.volume x ∨ (s.volume x = s.volume y ∧ x < y)))

theorem State.RanksBefore.trans {s : State} {x y z : Nat} (hxy : s.RanksBefore x y)
    (hyz : s.RanksBefore y z) : s.RanksBefore x z := by
  unfold State.RanksBefore at *
  rcases hxy with ⟨hx, hy⟩ | ⟨hxy, hvol⟩
  · rcases hyz with ⟨hy', -⟩ | ⟨hyz, -⟩
    · rw [hy] at hy'; exact Bool.noConfusion hy'
    · exact Or.inl ⟨hx, hyz ▸ hy⟩
  · rcases hyz with ⟨hy', hz⟩ | ⟨hyz, hvol'⟩
    · exact Or.inl ⟨hxy.trans hy', hz⟩
    · exact Or.inr ⟨hxy.trans hyz, by omega⟩

/-- A container after the joins of the rows below a bound (R112). -/
def State.rejoined (s : State) (n row : Nat) : Container :=
  if row ∈ s.eligibleBelow n then
    { s.container row with
      joinSeq := s.dispatch.joinCounter + BitVec.ofNat 32 ((s.eligibleBelow n).countP (· ≤ row)) }
  else s.container row

/-- What the joins of the rows below a bound have made of a state whose list was empty (R112, R93). -/
structure State.Rebuilt (s : State) (n : Nat) (t : State) : Prop where
  rows : ∀ row, t.containerRow row = { data := s.rejoined n row, bad := (s.containerRow row).bad }
  perm : t.dispatch.list.Perm (s.eligibleBelow n)
  ordered : t.dispatch.list.Pairwise s.RanksBefore
  counter : t.dispatch.joinCounter =
    s.dispatch.joinCounter + BitVec.ofNat 32 (s.eligibleBelow n).length
  ring : { t.dispatch with list := s.dispatch.list, joinCounter := s.dispatch.joinCounter } = s.dispatch
  outside : { t with containers := s.containers, dispatch := s.dispatch } = s

/-- But for their join sequences the containers are as they were. -/
theorem State.Rebuilt.container {s t : State} {n : Nat} (h : s.Rebuilt n t) (row : Nat) :
    (t.container row).fill = (s.container row).fill ∧
      (t.container row).estimate = (s.container row).estimate ∧
      (t.container row).eligible = (s.container row).eligible := by
  have hrow : t.container row = s.rejoined n row := congrArg Row.data (h.rows row)
  rw [hrow]
  unfold State.rejoined
  split_ifs <;> exact ⟨rfl, rfl, rfl⟩

/-- A row just joined stands level with no entry: no entry joined later (R93). -/
theorem State.joinList_list (s : State) (row : Nat) :
    ∃ u : State, (s.joinList row).dispatch.list = u.place row s.dispatch.list ∧
      ∀ x, x ≠ row → (u.Urgent row x ↔ (s.isFull row = true ∧ s.isFull x = false) ∨
        (s.isFull row = s.isFull x ∧ s.volume x < s.volume row)) := by
  let u := (s.editDispatch fun x => { x with joinCounter := s.dispatch.joinCounter + 1 }).editContainer row
    fun c => { c with joinSeq := s.dispatch.joinCounter + 1 }
  have hrow (x : Nat) : u.containerRow x =
      if x = row then
        { data := { s.container row with joinSeq := s.dispatch.joinCounter + 1 },
          bad := (s.containerRow row).bad }
      else s.containerRow x := State.joinList_containerRow s row x
  have hkeeps (x : Nat) : u.isFull x = s.isFull x ∧ u.volume x = s.volume x := by
    unfold State.isFull State.volume State.container
    rw [hrow]
    split_ifs with hx
    · subst hx
      exact ⟨rfl, rfl⟩
    · exact ⟨rfl, rfl⟩
  have hage : u.joinAge row = 0 := by
    unfold State.joinAge State.container
    rw [hrow, if_pos rfl]
    show (s.dispatch.joinCounter + 1 - (s.dispatch.joinCounter + 1)).toNat = 0
    rw [BitVec.sub_self]
    rfl
  refine ⟨u, rfl, fun x _ => ?_⟩
  unfold State.Urgent
  rw [(hkeeps row).1, (hkeeps row).2, (hkeeps x).1, (hkeeps x).2, hage]
  simp

theorem State.Rebuilt.zero {s : State} (h : s.dispatch.list = []) : s.Rebuilt 0 s where
  rows row := by simp [State.rejoined, State.eligibleBelow, State.container]
  perm := h ▸ List.Perm.refl _
  ordered := h ▸ List.Pairwise.nil
  counter := by simp [State.eligibleBelow]
  ring := rfl
  outside := rfl

/-- One more row joins, or is passed over. -/
theorem State.Rebuilt.succ {s t : State} {n : Nat} (h : s.Rebuilt n t) :
    s.Rebuilt (n + 1) (if (t.container n).eligible then t.joinList n else t) := by
  obtain ⟨-, -, helig⟩ := h.container n
  have hsucc := s.eligibleBelow_succ n
  rw [helig]
  by_cases he : (s.container n).eligible = true
  · rw [if_pos he] at hsucc ⊢
    obtain ⟨u, hlist, hurgent⟩ := t.joinList_list n
    have hfull (x : Nat) : t.isFull x = s.isFull x := by
      unfold State.isFull; rw [(h.container x).1]
    have hvolume (x : Nat) : t.volume x = s.volume x := by
      unfold State.volume; rw [(h.container x).2.1]
    have hbelow : ∀ x ∈ t.dispatch.list, x < n := fun x hx =>
      (State.mem_eligibleBelow.1 (h.perm.subset hx)).1
    have hrejoined (row : Nat) : s.rejoined (n + 1) row =
        if row = n then { s.container n with joinSeq := t.dispatch.joinCounter + 1 }
        else s.rejoined n row := by
      unfold State.rejoined
      rw [hsucc]
      by_cases hrow : row = n
      · subst hrow
        have hall : (s.eligibleBelow row).countP (· ≤ row) = (s.eligibleBelow row).length := by
          rw [List.countP_eq_length]
          exact fun x hx => decide_eq_true (State.mem_eligibleBelow.1 hx).1.le
        rw [if_pos (by simp), if_pos rfl, h.counter, List.countP_append, hall]
        simp [BitVec.ofNat_add, BitVec.add_assoc]
      · rw [if_neg hrow]
        by_cases hmem : row ∈ s.eligibleBelow n
        · have hlt := (State.mem_eligibleBelow.1 hmem).1
          rw [if_pos (List.mem_append_left _ hmem), if_pos hmem, List.countP_append,
            List.countP_singleton, if_neg (by simpa using hlt)]
          rfl
        · rw [if_neg (by simp [hmem, hrow]), if_neg hmem]
    constructor
    · intro row
      rw [State.joinList_containerRow, hrejoined]
      split_ifs with hrow
      · subst hrow
        have hdata : t.container row = s.rejoined row row := congrArg Row.data (h.rows row)
        have hkept : s.rejoined row row = s.container row :=
          if_neg fun hmem => Nat.lt_irrefl row (State.mem_eligibleBelow.1 hmem).1
        rw [hdata, hkept, h.rows]
      · exact h.rows row
    · rw [hlist, hsucc]
      exact (u.place_perm n _).trans ((List.Perm.cons n h.perm).trans
        (List.perm_append_singleton n _).symm)
    · rw [hlist]
      refine State.place_pairwise (fun x y => State.RanksBefore.trans) h.ordered (fun x hx hu => ?_)
        fun x hx hu => ?_
      · have hlevel := (hurgent x (hbelow x hx).ne).1 hu
        simp only [hfull, hvolume] at hlevel
        exact hlevel.imp_right (And.imp_right Or.inl)
      · have hlevel := mt (hurgent x (hbelow x hx).ne).2 hu
        have hlt := hbelow x hx
        simp only [hfull, hvolume] at hlevel
        unfold State.RanksBefore
        cases hn : s.isFull n <;> cases hxf : s.isFull x <;> simp [hn, hxf] at hlevel ⊢ <;> omega
    · rw [hsucc, List.length_append]
      show t.dispatch.joinCounter + 1 = _
      rw [h.counter]
      simp [BitVec.ofNat_add, BitVec.add_assoc]
    · exact h.ring
    · exact h.outside
  · rw [if_neg he] at hsucc ⊢
    constructor
    · intro row
      rw [h.rows, State.rejoined, State.rejoined, hsucc]
    · rw [hsucc]; exact h.perm
    · exact h.ordered
    · rw [hsucc]; exact h.counter
    · exact h.ring
    · exact h.outside

theorem State.rebuilt (s : State) (h : s.dispatch.list = []) : s.Rebuilt 256 s.rebuildList := by
  have hbelow (n : Nat) : s.Rebuilt n ((List.range n).foldl
      (fun s row => if (s.container row).eligible then s.joinList row else s) s) := by
    induction n with
    | zero => exact State.Rebuilt.zero h
    | succ n ih =>
      rw [List.range_succ, List.foldl_append, List.foldl_cons, List.foldl_nil]
      exact ih.succ
  exact hbelow 256

/-! ### The restart of every block -/

theorem State.restartStations_restored (s : State) (g : Seg) :
    { s.restartStations g with stations := s.stations } = s := s.editSegStations_restored g _

/-- The stations of both segments, each edited by the state of its own (R157). -/
def State.stationsRestarted (s : State) : State := (s.restartStations .a).restartStations .b

/-- Two changes of the Station Table alone make one. -/
theorem State.stations_restored_trans {s t u : State} (h : { t with stations := s.stations } = s)
    (k : { u with stations := t.stations } = t) : { u with stations := s.stations } = s :=
  (congrArg (fun x : State => { x with stations := s.stations }) k).trans h

theorem State.stationsRestarted_restored (s : State) :
    { s.stationsRestarted with stations := s.stations } = s :=
  State.stations_restored_trans (s.restartStations_restored .a)
    ((s.restartStations .a).restartStations_restored .b)

theorem State.restartStations_stationRow (s : State) (g : Seg) (addr : Nat) :
    (s.restartStations g).stationRow addr =
      if addr ∈ segAddrs g then
        { data := (s.station addr).restart ((s.seg g).state = .down), bad := (s.stationRow addr).bad }
      else s.stationRow addr := State.editSegStations_stationRow ..

theorem State.stationsRestarted_stationRow (s : State) {addr : Nat} (h1 : 1 ≤ addr) (h64 : addr ≤ 64) :
    s.stationsRestarted.stationRow addr =
      { data := (s.station addr).restart ((s.seg (segOf addr)).state = .down),
        bad := (s.stationRow addr).bad } := by
  have hb : (s.restartStations .a).seg .b = s.seg .b := by
    have h := s.restartStations_restored .a
    generalize s.restartStations .a = t at h ⊢
    exact (congrArg State.segB h :)
  unfold State.stationsRestarted
  rw [State.restartStations_stationRow]
  unfold State.station
  rw [State.restartStations_stationRow]
  cases hseg : segOf addr with
  | a =>
    rw [if_neg (fun h => by rw [(mem_segAddrs.1 h).2.2] at hseg; exact Seg.noConfusion hseg),
      if_pos (mem_segAddrs.2 ⟨h1, h64, hseg⟩)]
    rfl
  | b =>
    rw [if_pos (mem_segAddrs.2 ⟨h1, h64, hseg⟩),
      if_neg (fun h => by rw [(mem_segAddrs.1 h).2.2] at hseg; exact Seg.noConfusion hseg),
      hb]

/-- The tables of cards and containers after a warm restart, with the deposits released (R18, R59, R83). -/
def State.tablesRestarted (s : State) : State :=
  { s with
    deposits := []
    cards := Table.mapRows (Row.good CardRow.cold) CardRow.restart s.cards
    containers := Table.mapRows (Row.good Container.unloaded) Container.restart s.containers }

/-- The segments after a warm restart, and the ring given up (R141, R112). -/
def State.segmentsRestarted (s : State) : State :=
  ((s.editSeg .a Segment.restart).editSeg .b Segment.restart).clearRing

/-- Every part but the link, the list and the notices restarted. -/
def State.partsRestarted (s : State) : State := s.tablesRestarted.stationsRestarted.segmentsRestarted

theorem State.restartBlocks_eq (s : State) :
    s.restartBlocks = s.partsRestarted.rebuildList.restartLink := rfl

theorem State.tablesRestarted_containerRow {s : State} (h : s.tablesCanonical = true) (row : Nat) :
    s.tablesRestarted.containerRow row =
      { data := (s.container row).restart, bad := (s.containerRow row).bad } := by
  simp only [State.tablesCanonical, Bool.and_eq_true] at h
  obtain ⟨⟨⟨⟨⟨⟨-, hcontainers⟩, -⟩, -⟩, -⟩, -⟩, -⟩ := h
  exact Table.get_mapRows Container.unloaded Container.restart rfl hcontainers row

theorem State.tablesRestarted_cardRow {s : State} (h : s.tablesCanonical = true) (row : Nat) :
    s.tablesRestarted.cardRow row =
      { data := { s.card row with reserved := 0 }, bad := (s.cardRow row).bad } := by
  simp only [State.tablesCanonical, Bool.and_eq_true] at h
  obtain ⟨⟨⟨-, hcards⟩, -⟩, -⟩ := h
  exact Table.get_mapRows CardRow.cold CardRow.restart rfl hcards row

/-- The stations apart, the restart of the parts is that of the tables and of the segments. -/
theorem State.partsRestarted_eq (s : State) :
    { s.partsRestarted with stations := s.stations } = s.tablesRestarted.segmentsRestarted := by
  have h := s.tablesRestarted.stationsRestarted_restored
  unfold State.partsRestarted
  generalize s.tablesRestarted.stationsRestarted = t at h ⊢
  exact congrArg State.segmentsRestarted h

/-- What the restart leaves alone before the list is rebuilt. -/
theorem State.partsRestarted_restored (s : State) :
    { s.partsRestarted with
      stations := s.stations, containers := s.containers, cards := s.cards, segA := s.segA, segB := s.segB,
      deposits := s.deposits, tickets := s.tickets, dispatch := s.dispatch } = s := by
  have h := s.partsRestarted_eq
  generalize s.partsRestarted = t at h ⊢
  exact congrArg (fun t : State => { t with
    containers := s.containers, cards := s.cards, segA := s.segA, segB := s.segB,
    deposits := s.deposits, tickets := s.tickets, dispatch := s.dispatch }) h

theorem State.partsRestarted_dispatch (s : State) :
    s.partsRestarted.dispatch =
      { s.dispatch with list := [], fillIndex := 0, dispatchIndex := 0, passDue := false } := by
  have h := s.partsRestarted_eq
  generalize s.partsRestarted = t at h ⊢
  exact congrArg State.dispatch h

theorem State.partsRestarted_seg (s : State) (g : Seg) :
    s.partsRestarted.seg g = (s.seg g).restart := by
  have h := s.partsRestarted_eq
  generalize s.partsRestarted = t at h ⊢
  cases g
  · exact congrArg State.segA h
  · exact congrArg State.segB h

theorem State.partsRestarted_containerRow {s : State} (h : s.tablesCanonical = true) (row : Nat) :
    s.partsRestarted.containerRow row =
      { data := (s.container row).restart, bad := (s.containerRow row).bad } := by
  have hparts := s.partsRestarted_eq
  generalize s.partsRestarted = t at hparts ⊢
  have hsame : t.containers = s.tablesRestarted.containers := (congrArg State.containers hparts :)
  rw [← State.tablesRestarted_containerRow h, State.containerRow, hsame, State.containerRow]

theorem State.partsRestarted_cardRow {s : State} (h : s.tablesCanonical = true) (row : Nat) :
    s.partsRestarted.cardRow row =
      { data := { s.card row with reserved := 0 }, bad := (s.cardRow row).bad } := by
  have hparts := s.partsRestarted_eq
  generalize s.partsRestarted = t at hparts ⊢
  have hsame : t.cards = s.tablesRestarted.cards := (congrArg State.cards hparts :)
  rw [← State.tablesRestarted_cardRow h, State.cardRow, hsame, State.cardRow]

/-- The list is rebuilt from an empty one (R112). -/
theorem State.partsRestarted_rebuilt (s : State) :
    s.partsRestarted.Rebuilt 256 s.partsRestarted.rebuildList :=
  State.rebuilt _ (congrArg Dispatch.list s.partsRestarted_dispatch)

/-- Stations, containers and list apart, the restart up to the rebuilt list is that of the tables and of the
segments. -/
theorem State.listRestarted_eq (s : State) :
    { s.partsRestarted.rebuildList with
      stations := s.stations
      containers := s.partsRestarted.containers
      dispatch := s.partsRestarted.dispatch } = s.tablesRestarted.segmentsRestarted := by
  have h := s.partsRestarted_rebuilt.outside
  have hparts := s.partsRestarted_eq
  generalize s.partsRestarted = u at h hparts ⊢
  generalize u.rebuildList = t at h ⊢
  exact (congrArg (fun t : State => { t with stations := s.stations }) h).trans hparts

/-- What the restart leaves alone up to the rebuilt list. -/
theorem State.listRestarted_restored (s : State) :
    { s.partsRestarted.rebuildList with
      stations := s.stations, containers := s.containers, cards := s.cards, segA := s.segA, segB := s.segB,
      deposits := s.deposits, tickets := s.tickets, dispatch := s.dispatch } = s := by
  have h := s.partsRestarted_rebuilt.outside
  have hparts := s.partsRestarted_restored
  generalize s.partsRestarted = u at h hparts ⊢
  generalize u.rebuildList = t at h ⊢
  exact (congrArg (fun t : State => { t with
    stations := s.stations, containers := s.containers, cards := s.cards, segA := s.segA, segB := s.segB,
    deposits := s.deposits, tickets := s.tickets, dispatch := s.dispatch }) h).trans hparts

/-- The link after a warm restart (R172). -/
def Link.restarted (l : Link) (supervision : Option Word32) : Link :=
  { l with requests := [], relays := [], supervision := supervision,
           counters := { l.counters with
             overflow := min (l.counters.overflow + l.requests.length) 65535 } }

/-- The Notice Unit after a warm restart holds WARM START alone (R180, R176). -/
def NoticeUnit.restarted (u : NoticeUnit) (released : Nat) (now expiry : Word32) : NoticeUnit :=
  { u with queue := [{ kind := .warmStart, subject := 0, payload := [octet released], stamp := now }],
           coalescing := some expiry, intervalEnded := false }

theorem State.restartLink_eq (u : State) :
    u.restartLink = { u with link := u.link.restarted (if u.params.supervision = 0 then none
      else some (u.seconds + BitVec.ofNat 32 u.params.supervision)) } := rfl

theorem State.restartNotices_eq (u : State) (released : Nat) :
    u.restartNotices released =
      { u with notices :=
          u.notices.restarted released u.seconds (u.seconds + BitVec.ofNat 32 u.params.coalescing) } := rfl

/-- What a warm restart comes to, with its answer (R172, R180). -/
def State.restarted (s : State) (tag : Octet) : State :=
  { s.partsRestarted.rebuildList with
    link := s.link.restarted (if s.params.supervision = 0 then none
      else some (s.seconds + BitVec.ofNat 32 s.params.supervision))
    notices := s.notices.restarted s.deposits.length s.seconds
      (s.seconds + BitVec.ofNat 32 s.params.coalescing)
    mgmt := { s.mgmt with
      taken := none
      reply := some { tag := tag, code := 0x56, result := .accepted,
                      data := be32 s.seconds ++ [octet s.deposits.length, octet s.heldSlots] } } }

theorem exec_restart_eq {s : State} {tag : Octet} (h : s.Carries tag [0x56]) :
    exec .restart s = .next (s.restarted tag) := by
  have hr := s.listRestarted_restored
  rw [exec_restart_of_carries h (restartRequest_eq s), State.restarted, State.restartBlocks_eq]
  generalize s.partsRestarted.rebuildList = u at hr ⊢
  have hlink : u.link = s.link := (congrArg State.link hr :)
  have hnotices : u.notices = s.notices := (congrArg State.notices hr :)
  have hmgmt : u.mgmt = s.mgmt := (congrArg State.mgmt hr :)
  have hparams : u.params = s.params := (congrArg State.params hr :)
  have hseconds : u.seconds = s.seconds := (congrArg State.seconds hr :)
  rw [State.restartLink_eq, State.restartNotices_eq]
  simp only [accepted, State.replied, State.editMgmt, hlink, hnotices, hmgmt, hparams, hseconds]

/-- What a warm restart leaves alone (R172). -/
theorem State.restarted_restored (s : State) (tag : Octet) :
    { s.restarted tag with
      stations := s.stations, containers := s.containers, cards := s.cards, segA := s.segA, segB := s.segB,
      deposits := s.deposits, tickets := s.tickets, dispatch := s.dispatch, link := s.link, mgmt := s.mgmt,
      notices := s.notices } = s := by
  have h := s.listRestarted_restored
  unfold State.restarted
  generalize s.partsRestarted.rebuildList = t at h ⊢
  exact (congrArg (fun t : State => { t with
    link := s.link, mgmt := s.mgmt, notices := s.notices }) h :)

/-- Settles O15: the tick and the upsets of a second, SET CLOCK, and the two resets. -/
theorem secondsAndDistrictClock : Obligations.SecondsAndDistrictClock := by
  unfold Obligations.SecondsAndDistrictClock
  have hclock (ups : List Upset) (s : State) :
      (ups.foldl State.upset s.tick).clock = s.clock.map Clock.tick :=
    (congrArg State.clock (State.foldl_upset_withMemory ups s.tick s) :)
  refine ⟨fun s ups => ⟨_, exec_secondsCountAdvance ups s, ?seconds, fun hnone => ?noUpset, ?memory,
      State.foldl_upset_journal ups s.tick⟩,
    fun h s t hcold => ?cold, fun s tag dh dl mh ml h => ?setClock,
    fun s ups day minute second hc hs hm hd => ⟨_, exec_secondsCountAdvance ups s, ?ticks⟩,
    fun s ups hc => ⟨_, exec_secondsCountAdvance ups s, ?absent⟩,
    fun s tag h => ⟨_, exec_restart_eq h, ?kept⟩⟩
  case seconds => exact (congrArg State.seconds (State.foldl_upset_withMemory ups s.tick s) :)
  case noUpset =>
    subst hnone
    rfl
  case memory =>
    exact (congrArg (fun t : State => { t with seconds := s.seconds, clock := s.clock })
      (State.foldl_upset_withMemory ups s.tick s) :)
  case cold =>
    obtain rfl := Host.Outcome.next.inj hcold
    rfl
  case setClock =>
    by_cases hin : u16 mh ml ≤ 1439
    · refine (congrArg _ (State.serve_answers (f := setClockRequest) h rfl (if_pos hin))).trans ?_
      rw [if_pos hin]
      rfl
    · refine (congrArg _ (State.serve_answers (f := setClockRequest) h rfl (if_neg hin))).trans ?_
      rw [if_neg hin]
      rfl
  case ticks =>
    rw [hclock, hc, Option.map_some, Clock.tick_eq hs hm hd]
  case absent => rw [hclock, hc, Option.map_none]
  case kept =>
    have hr := s.restarted_restored tag
    generalize s.restarted tag = t at hr ⊢
    exact (congrArg State.clock hr :)

/-- A container after a warm restart, in the words of R18 and R126. -/
theorem Container.restart_eq (c : Container) :
    c.restart =
      let k : Container := { c with hasPending := false, assignment := none }
      if k.service = .lifting ∨ k.service = .stalled then
        { k with service := .inService, liftTimer := none, liftStage := .none, estimate := none,
                 fill := .none, suspect := none }
      else k := by
  simp only [Container.restart, Bool.or_eq_true, decide_eq_true_eq]

theorem Container.restart_assignment (c : Container) : c.restart.assignment = none := by
  rw [Container.restart_eq]
  dsimp only
  split_ifs <;> rfl

/-- Settles O13: the tables row by row, the list as it is rebuilt, the link and the notices. -/
theorem warmRestartKeepsTables : Obligations.WarmRestartKeepsTables := by
  unfold Obligations.WarmRestartKeepsTables
  intro s tag h hcanonical kept joins rows full volume before
  have hkept (row : Nat) : s.partsRestarted.container row = kept row :=
    (congrArg Row.data (State.partsRestarted_containerRow hcanonical row)).trans (Container.restart_eq _)
  have hrows : s.partsRestarted.eligibleBelow 256 = rows := by
    refine List.filter_congr fun row _ => ?_
    have hassign : (kept row).assignment = none := by
      rw [← hkept, State.container, State.partsRestarted_containerRow hcanonical]
      exact Container.restart_assignment _
    rw [hkept, Container.eligible, hassign]
    exact Bool.and_true _
  have hrebuilt := s.partsRestarted_rebuilt
  have hdispatch := s.partsRestarted_dispatch
  have hcounter : s.partsRestarted.dispatch.joinCounter = s.dispatch.joinCounter := by rw [hdispatch]
  have hring := hrebuilt.ring
  rw [hdispatch] at hring
  have hlist := s.listRestarted_eq
  have hrestored := s.restarted_restored tag
  have hexec := exec_restart_eq h
  unfold State.restarted at hexec hrestored
  generalize s.partsRestarted.rebuildList = r at hrebuilt hlist hring hexec hrestored
  have hcards : r.cards = s.tablesRestarted.cards := (congrArg State.cards hlist :)
  have htickets : r.tickets = [] := (congrArg State.tickets hlist :)
  refine ⟨_, hexec, rfl, ?deposits, fun slot => ?slots, ?suspended, fun row => ?cards,
    fun row => ?containers, ?perm, ?ordered, ?counter, ?fill, ?index, ?due, ?missed, rfl, rfl, hrestored⟩
  case deposits => exact (congrArg State.deposits hlist :)
  case slots => exact congrArg (fun t : Table Ticket => (Table.get Ticket.free t slot).state) htickets
  case suspended =>
    exact congrArg (fun t : Table Ticket =>
      (((Table.get Ticket.free t r.dispatch.dispatchIndex).state = .opened : Bool))) htickets
  case cards =>
    exact (congrArg (fun t => Table.get (Row.good CardRow.cold) t row) hcards).trans
      (State.tablesRestarted_cardRow hcanonical row)
  case containers =>
    refine (hrebuilt.rows row).trans ?_
    rw [State.rejoined, hrows, hkept, hcounter, State.partsRestarted_containerRow hcanonical]
  case perm => exact hrows ▸ hrebuilt.perm
  case ordered =>
    refine hrebuilt.ordered.imp fun {x y} hxy => ?_
    simp only [State.RanksBefore, State.isFull, State.volume, hkept] at hxy
    exact hxy
  case counter => rw [← hrows, ← hcounter]; exact hrebuilt.counter
  case fill => exact (congrArg Dispatch.fillIndex hring :)
  case index => exact (congrArg Dispatch.dispatchIndex hring :)
  case due => exact (congrArg Dispatch.passDue hring :)
  case missed => exact (congrArg Dispatch.missedFull hring :)

end Sys2Proof.Machine
end

section
/-! PROOF. The windows that close as misses (R131, R132, R147), and the segments that go down and come back
(R133, R134, R151), with what a warm restart makes of them (R141, R157). -/

namespace Sys2Proof.Machine

/-! ### The stations of a segment -/

@[simp] theorem State.editSegStations_seg (s : State) (g h : Seg) (f : Station → Station) :
    (s.editSegStations g f).seg h = s.seg h := by
  have hr := s.editSegStations_restored g f
  generalize s.editSegStations g f = t at hr ⊢
  cases h
  · exact (congrArg State.segA hr :)
  · exact (congrArg State.segB hr :)

@[simp] theorem State.editSegStations_notices (s : State) (g : Seg) (f : Station → Station) :
    (s.editSegStations g f).notices = s.notices := by
  have hr := s.editSegStations_restored g f
  generalize s.editSegStations g f = t at hr ⊢
  exact (congrArg State.notices hr :)

theorem segAddrs_eq (g : Seg) :
    segAddrs g = if g = .a then List.range' 1 32 else List.range' 33 32 := by cases g <;> rfl

theorem segCode_eq (g : Seg) : segCode g = if g = .a then 0 else 1 := by cases g <;> rfl

/-! ### Down and back -/

theorem exec_segmentDown_of {s : State} {g : Seg} (h : (s.seg g).state = .up ∧ (s.seg g).pollOut = none ∧
    (s.seg g).atSpace = true ∧ (s.seg g).lowMeasured = true) :
    exec (.segmentDown g) s =
      .next (((s.editSeg g Segment.goDown).editSegStations g Station.cut).raise .segmentDown (segCode g) []) := by
  obtain ⟨hup, hpoll, hspace, hlow⟩ := h
  exact congrArg _ (if_pos (by simp [hup, hpoll, hspace, hlow]))

theorem exec_segmentDown_of_not {s : State} {g : Seg} (h : ¬ ((s.seg g).state = .up ∧
    (s.seg g).pollOut = none ∧ (s.seg g).atSpace = true ∧ (s.seg g).lowMeasured = true)) :
    exec (.segmentDown g) s = .next s :=
  congrArg _ (if_neg (by simpa [and_assoc] using h))

/-- With the old Station Table put back, a change of a segment's stations leaves no trace in a notice's
state. -/
theorem State.raise_editSegStations_restored (u : State) (g : Seg) (f : Station → Station) (k : NoticeKind)
    (a : Nat) (p : List Octet) :
    { (u.editSegStations g f).raise k a p with stations := u.stations } = u.raise k a p := by
  have hr := u.editSegStations_restored g f
  generalize u.editSegStations g f = t at hr ⊢
  exact (congrArg (fun t : State => t.raise k a p) hr :)

theorem State.raise_editSegStations_notices (u : State) (g : Seg) (f : Station → Station) (k : NoticeKind)
    (a : Nat) (p : List Octet) :
    ((u.editSegStations g f).raise k a p).notices = (u.raise k a p).notices := by
  have hr := u.raise_editSegStations_restored g f k a p
  generalize (u.editSegStations g f).raise k a p = t at hr ⊢
  exact (congrArg State.notices hr :)

theorem Station.cut_row (r : Row Station) :
    ({ data := r.data.cut, bad := r.bad } : Row Station) =
      if r.data.loaded = true then
        { data := { r.data with state := .cutOff, misses := 0, attempts := 0, awaiting := false },
          bad := r.bad }
      else r := by
  unfold Station.cut
  split_ifs <;> rfl

theorem Station.uncut_row (r : Row Station) :
    ({ data := r.data.uncut, bad := r.bad } : Row Station) =
      if r.data.state = .cutOff then { data := { r.data with state := .unconfigured }, bad := r.bad }
      else r := by
  unfold Station.uncut
  split_ifs <;> rfl

/-- The end of a bus-reset break (R134, R141). -/
theorem exec_busResetBreakEnd_of_restoring {s : State} {g : Seg} (h : (s.seg g).state = .restoring) :
    exec (.busResetBreakEnd g) s =
      let up := (s.editSeg g fun x => { x with state := .up, quietRestore := false }).editSegStations g
        Station.uncut
      .next ((if (s.seg g).quietRestore then up else up.raise .segmentRestored (segCode g) []).turnDue g) :=
  congrArg _ (if_pos h)

/-! ### The frame that ends in a window -/

/-- The segment once a spoiled frame has been discarded and the open window marked (R129, R130). -/
def Segment.spoiled (x : Segment) : Segment :=
  { x with rx := none, window := x.window.map fun w => { w with framingError := true } }

theorem State.spoilFrame_eq {s : State} {g : Seg} (hrx : (s.seg g).rx.isSome = true) :
    s.spoilFrame g = (s.editSeg g Segment.spoiled).frameEnded g := by
  rw [State.spoilFrame, if_pos hrx, State.handError, State.setRx, State.editSeg_editSeg]
  refine congrArg (State.frameEnded · g) (State.editSeg_congr ?_)
  simp [Segment.spoiled]

theorem State.spoilFrame_of_hunting {s : State} {g : Seg} (hrx : (s.seg g).rx = none) :
    s.spoilFrame g = s := if_neg (by simp [hrx])

/-- A window that is not held stays open as a frame ends (R131). -/
theorem State.frameEnded_of_not_held {s : State} {g : Seg}
    (h : ∀ w, (s.seg g).window = some w → w.heldOpen = false) : s.frameEnded g = s := by
  unfold State.frameEnded
  split
  · rfl
  next w hw => rw [if_neg (by simp [h w hw])]

theorem State.frameEnded_of_held {s : State} {g : Seg} {w : Window} (hw : (s.seg g).window = some w)
    (h : w.heldOpen = true) : s.frameEnded g = s.closeMiss g := by
  unfold State.frameEnded
  simp only [hw, h, if_true]

theorem State.spoilFrame_of_not_held {s : State} {g : Seg} (hrx : (s.seg g).rx.isSome = true)
    (h : ∀ w, (s.seg g).window = some w → w.heldOpen = false) :
    s.spoilFrame g = s.editSeg g Segment.spoiled := by
  rw [State.spoilFrame_eq hrx]
  refine State.frameEnded_of_not_held fun w hw => ?_
  rw [State.seg_editSeg_same, Segment.spoiled, Option.map_eq_some_iff] at hw
  obtain ⟨w', hw', rfl⟩ := hw
  exact h w' hw'

theorem State.spoilFrame_of_held {s : State} {g : Seg} (hrx : (s.seg g).rx.isSome = true) {w : Window}
    (hw : (s.seg g).window = some w) (h : w.heldOpen = true) :
    s.spoilFrame g = (s.editSeg g Segment.spoiled).closeMiss g := by
  rw [State.spoilFrame_eq hrx]
  refine State.frameEnded_of_held (w := { w with framingError := true }) ?_ h
  rw [State.seg_editSeg_same, Segment.spoiled, hw, Option.map_some]

/-- What a held window's REPLY_TIMEOUT makes of it, the frame in progress having ended. -/
theorem exec_replyTimeout_of_spoiled (s : State) (g : Seg) :
    exec (.replyTimeout g) (s.editSeg g Segment.spoiled) =
      .next ((s.editSeg g Segment.spoiled).closeMiss g) := by
  refine congrArg _ (if_neg ?_)
  rw [State.seg_editSeg_same]
  exact Bool.false_ne_true

/-! ### BREAK_OVER -/

theorem exec_breakOver_of_up {s : State} {g : Seg} (hup : (s.seg g).state = .up)
    (hpoll : (s.seg g).pollOut = none) :
    exec (.breakOver g) s =
      .next ((s.spoilFrame g).editSeg g fun x => { x with atSpace := false, lowMeasured := false }) :=
  congrArg _ (if_pos (by simp [hup, hpoll]))

theorem exec_breakOver_of_not {s : State} {g : Seg}
    (h : ¬ ((s.seg g).state = .up ∧ (s.seg g).pollOut = none)) : exec (.breakOver g) s = .next s :=
  congrArg _ (if_neg (by simpa using h))

/-- Settles O56: each event by the state of the segment and of its receiver. -/
theorem segmentsGoDownAndComeBack : Obligations.SegmentsGoDownAndComeBack := by
  unfold Obligations.SegmentsGoDownAndComeBack
  intro s g x code addrs
  have hcode : segCode g = code := segCode_eq g
  have haddrs : segAddrs g = addrs := segAddrs_eq g
  refine ⟨fun hup hpoll hspace hlow =>
      ⟨_, exec_segmentDown_of ⟨hup, hpoll, hspace, hlow⟩, fun a => ?downRow, ?downRest⟩,
    fun hnot => exec_segmentDown_of_not hnot, fun hdown => congrArg _ (if_pos hdown),
    fun hup => congrArg _ (if_neg hup),
    fun hrest => ⟨_, exec_busResetBreakEnd_of_restoring hrest, fun a => ?upRow, ?upRest⟩,
    fun hnot => congrArg _ (if_neg hnot), fun hup hpoll hrx => ?quiet, fun hup hpoll hrx hheld => ?spoiled,
    fun w hup hpoll hrx hw hheld => ?closes, fun hnot => exec_breakOver_of_not hnot⟩
  case downRow =>
    rw [State.raise_stationRow, State.editSegStations_stationRow, State.editSeg_stationRow,
      State.editSeg_station, haddrs]
    by_cases ha : a ∈ addrs
    · simp only [ha, if_true, true_and]
      exact Station.cut_row (s.stationRow a)
    · simp only [ha, if_false, false_and]
  case downRest =>
    have hrest := State.raise_editSegStations_restored (s.editSeg g Segment.goDown) g Station.cut
      .segmentDown (segCode g) []
    rw [State.editSeg_stations, hcode] at hrest
    rw [hcode]
    exact hrest
  case upRow =>
    rw [State.turnDue, State.editSeg_stationRow, apply_ite (State.stationRow · a), State.raise_stationRow,
      ite_self, State.editSegStations_stationRow, State.editSeg_stationRow, State.editSeg_station, haddrs]
    by_cases ha : a ∈ addrs
    · simp only [ha, if_true, true_and]
      exact Station.uncut_row (s.stationRow a)
    · simp only [ha, if_false, false_and]
  case upRest =>
    have hrest := State.editSegStations_restored
      (s.editSeg g fun y => { y with state := .up, quietRestore := false }) g Station.uncut
    rw [State.editSeg_stations] at hrest
    rw [hcode]
    generalize (s.editSeg g fun y => { y with state := .up, quietRestore := false }).editSegStations g
      Station.uncut = u at hrest ⊢
    have hturn : ({ u.turnDue g with stations := s.stations } : State) =
        s.editSeg g fun y => { y with state := .up, quietRestore := false, turnDue := true } := by
      have hdue := congrArg (State.turnDue · g) hrest
      simp only [State.turnDue, State.editSeg_editSeg] at hdue
      cases g <;> exact hdue
    by_cases hq : x.quietRestore = true
    · simp only [x] at hq
      simp only [hq, x, if_true]
      exact hturn
    · simp only [x] at hq
      simp only [hq, x, if_false, Bool.false_eq_true]
      rw [← hturn]
      cases g <;> rfl
  case quiet =>
    rw [exec_breakOver_of_up hup hpoll, State.spoilFrame_of_hunting hrx]
  case spoiled =>
    rw [exec_breakOver_of_up hup hpoll, State.spoilFrame_of_not_held hrx hheld, State.editSeg_editSeg]
    exact congrArg _ (State.editSeg_congr rfl)
  case closes =>
    have hedit : (s.editSeg g fun y =>
        { y with rx := none, window := some { w with framingError := true } }) =
        s.editSeg g Segment.spoiled := State.editSeg_congr (by
      show _ = (s.seg g).spoiled
      simp only [Segment.spoiled, x] at hw ⊢
      rw [hw, Option.map_some])
    rw [hedit]
    refine ⟨_, exec_replyTimeout_of_spoiled s g, ?_⟩
    rw [exec_breakOver_of_up hup hpoll, State.spoilFrame_of_held hrx hw hheld]

/-! ### The segments of a warm restart -/

theorem State.restarted_seg (s : State) (tag : Octet) (g : Seg) :
    (s.restarted tag).seg g = (s.seg g).restart := by
  have hlist := s.listRestarted_eq
  unfold State.restarted
  generalize s.partsRestarted.rebuildList = r at hlist ⊢
  cases g
  · exact (congrArg State.segA hlist :)
  · exact (congrArg State.segB hlist :)

theorem State.segmentsRestarted_stationRow (s : State) (addr : Nat) :
    s.segmentsRestarted.stationRow addr = s.stationRow addr := rfl

theorem State.restarted_stationRow (s : State) (tag : Octet) {addr : Nat} (h1 : 1 ≤ addr)
    (h64 : addr ≤ 64) :
    (s.restarted tag).stationRow addr =
      { data := (s.station addr).restart ((s.seg (segOf addr)).state = .down),
        bad := (s.stationRow addr).bad } := by
  have houtside := s.partsRestarted_rebuilt.outside
  have hparts : s.partsRestarted.stationRow addr = s.tablesRestarted.stationsRestarted.stationRow addr :=
    State.segmentsRestarted_stationRow ..
  rw [State.stationsRestarted_stationRow _ h1 h64] at hparts
  unfold State.restarted
  generalize s.partsRestarted = u at houtside hparts ⊢
  generalize u.rebuildList = r at houtside ⊢
  have hrow : r.stationRow addr = u.stationRow addr := (congrArg (State.stationRow · addr) houtside :)
  refine Eq.trans (hrow.trans hparts) ?_
  have hseg (g : Seg) : s.tablesRestarted.seg g = s.seg g := by cases g <;> rfl
  rw [hseg]
  rfl

theorem Segment.restart_state {x : Segment} (h : x.state ≠ .down) : x.restart.state = .restoring := by
  unfold Segment.restart
  cases hx : x.state with
  | up => rfl
  | down => exact absurd hx h
  | restoring => rfl

theorem Segment.restart_quietRestore {x : Segment} (h : x.state ≠ .down) :
    x.restart.quietRestore = (x.state = .up : Bool) := by
  unfold Segment.restart
  cases hx : x.state with
  | up => rfl
  | down => exact absurd hx h
  | restoring => rfl

/-- The end of a break brings the segment UP and raises its notice unless the break is quiet (R134, R141). -/
theorem exec_busResetBreakEnd_spec {t : State} {g : Seg} (h : (t.seg g).state = .restoring) :
    ∃ u, exec (.busResetBreakEnd g) t = .next u ∧ (u.seg g).state = .up ∧
      u.notices = if (t.seg g).quietRestore then t.notices
        else (t.raise .segmentRestored (if g = .a then 0 else 1) []).notices := by
  refine ⟨_, exec_busResetBreakEnd_of_restoring h, ?_, ?_⟩
  · rw [State.turnDue, State.seg_editSeg_same, apply_ite (State.seg · g), State.raise_seg, ite_self,
      State.editSegStations_seg, State.seg_editSeg_same]
  · rw [State.turnDue, State.editSeg_notices, apply_ite State.notices, State.editSegStations_notices,
      State.editSeg_notices, State.raise_editSegStations_notices, State.editSeg_raise,
      State.editSeg_notices, segCode_eq]

/-- Settles O14: each segment by its state, the end of its break, and each station by its entry. -/
theorem warmRestartSegments : Obligations.WarmRestartSegments := by
  unfold Obligations.WarmRestartSegments
  intro s tag h
  refine ⟨_, exec_restart_eq h, fun g => ?segment, fun g hg => ?breakEnd, fun addr h1 h64 => ?station⟩
  case segment =>
    intro x idle
    rw [State.restarted_seg]
    unfold Segment.restart
    cases hx : x.state <;> simp only [x] at hx <;> simp only [hx, idle, x]
  case breakEnd =>
    have hseg := s.restarted_seg tag g
    obtain ⟨u, hexec, hup, hnotices⟩ :=
      exec_busResetBreakEnd_spec (t := s.restarted tag) (by rw [hseg]; exact Segment.restart_state hg)
    refine ⟨u, hexec, hup, hnotices.trans ?_⟩
    rw [hseg, Segment.restart_quietRestore hg]
    simp only [decide_eq_true_eq]
  case station =>
    rw [s.restarted_stationRow tag h1 h64]
    unfold Station.restart
    refine ⟨fun hload => ?_, fun hload => ?_⟩
    · rw [if_neg (by simp [hload])]
      rfl
    · rw [if_pos hload]
      simp only [decide_eq_true_eq]

/-! ### A window that closes as a miss -/

theorem exec_replyTimeout_of_hunting {s : State} {g : Seg} (h : (s.seg g).rx = none) :
    exec (.replyTimeout g) s = .next (s.closeMiss g) := congrArg _ (if_neg (by simp [h]))

theorem exec_replyTimeout_of_receiving {s : State} {g : Seg} (h : (s.seg g).rx.isSome = true) :
    exec (.replyTimeout g) s = .next (s.editSeg g fun x =>
      { x with window := x.window.map fun w => { w with heldOpen := true } }) := congrArg _ (if_pos h)

theorem State.closeMiss_of_none {s : State} {g : Seg} (h : (s.seg g).window = none) :
    s.closeMiss g = s := by
  unfold State.closeMiss
  rw [h]

/-- A miss that makes no pass due leaves what it does at its station, with a send turn due (R131, R135). -/
theorem State.closeMiss_of_settled {s : State} {g : Seg} {w : Window} (hw : (s.seg g).window = some w)
    (hs : ((s.shutWindow g).stationMiss w.addr w.checkError w.framingError).Settled) :
    s.closeMiss g = ((s.shutWindow g).stationMiss w.addr w.checkError w.framingError).turnDue g := by
  unfold State.closeMiss
  simp only [hw]
  rw [State.endEvent_of_settled hs]

/-- The errors of a window's life, as they are set among a station's flags (R147). -/
theorem Station.flagErrors_eq (e : Station) (check framing : Bool) :
    e.flagErrors check framing =
      { e with errors := e.errors ||| (if check then 1 else 0) ||| (if framing then 2 else 0) } := by
  cases check <;> cases framing <;> simp [Station.flagErrors, Station.flag, setAdd, StationError.bit]

/-- A miss at a station whose entry reads good (R147). -/
theorem State.stationMiss_of_good {s : State} {addr : Nat} (hgood : (s.stationRow addr).bad = false)
    (check framing : Bool) :
    s.stationMiss addr check framing =
      match (s.station addr).state with
      | .absent => s
      | .cutOff => s
      | .silent => s.editStation addr fun e => e.flagErrors check framing
      | _ => (s.editStation addr fun e => e.flagErrors check framing).countMiss addr := by
  unfold State.stationMiss
  rw [State.readStation_of_good hgood] <;>
  rfl

/-- An entry that reads good and is edited twice stands as the second edit of the first leaves it. -/
theorem State.editStation_editStation_stationRow {s : State} {addr : Nat}
    (hgood : (s.stationRow addr).bad = false) (f f' : Station → Station) (a : Nat) :
    ((s.editStation addr f).editStation addr f').stationRow a =
      if a = addr then { data := f' (f (s.station addr)), bad := false } else s.stationRow a := by
  rw [State.stationRow_editStation]
  unfold State.station
  rw [State.stationRow_editStation, State.stationRow_editStation]
  by_cases ha : a = addr
  · simp [ha, hgood, State.station]
  · simp [ha]

/-- The first two misses are counted (R147). -/
theorem State.countMiss_of_lt {s : State} {addr : Nat} (h : (s.station addr).misses < 2) :
    s.countMiss addr = s.editStation addr fun e => { e with misses := e.misses + 1 } :=
  if_pos (by omega)

/-- The third makes the station SILENT (R147). -/
theorem State.countMiss_of_le {s : State} {addr : Nat} (h : 2 ≤ (s.station addr).misses) :
    s.countMiss addr =
      ((s.leaveConfigure addr).editStation addr fun e =>
        { e with misses := 3, state := .silent, awaiting := false }).raise .stationSilent addr
        [(s.station addr).state.code] :=
  if_neg (by omega)

/-- The window shut and a send turn due make the closed segment (R131, R135). -/
theorem State.shutWindow_turnDue (s : State) (g : Seg) :
    (s.shutWindow g).turnDue g = s.editSeg g Segment.closed := by cases g <;> rfl

/-! ### No window is opened but by a POLL -/

/-- The segments as they are left by work on containers and the dispatch. -/
theorem State.Yields.seg {s t : State} (h : s.Yields t) (g : Seg) : t.seg g = s.seg g := by
  have ho := h.outside
  cases g
  · exact (congrArg State.segA ho :)
  · exact (congrArg State.segB ho :)

@[simp] theorem State.editStation_seg (s : State) (addr : Nat) (f : Station → Station) (h : Seg) :
    (s.editStation addr f).seg h = s.seg h := State.putStation_seg ..

@[simp] theorem State.tableFault_seg (s : State) (t : FaultTable) (row : Nat) (p : List Octet) (h : Seg) :
    (s.tableFault t row p).seg h = s.seg h := by cases h <;> rfl

/-- An edit that keeps the windows. -/
theorem State.editSeg_seg_window {s : State} {g h : Seg} {f : Segment → Segment}
    (hf : ∀ x, (f x).window = x.window) : ((s.editSeg g f).seg h).window = (s.seg h).window := by
  rw [State.seg_editSeg]
  split_ifs
  · exact hf _
  · rfl

theorem State.turnDueIfIdle_seg_window (s : State) (g h : Seg) :
    ((s.turnDueIfIdle g).seg h).window = (s.seg h).window :=
  State.editSeg_seg_window fun x => by split_ifs <;> rfl

theorem State.turnDue_seg_window (s : State) (g h : Seg) :
    ((s.turnDue g).seg h).window = (s.seg h).window :=
  State.editSeg_seg_window (f := fun x => { x with turnDue := true }) fun _ => rfl

theorem State.leaveConfigure_seg_window (s : State) (addr : Nat) (h : Seg) :
    ((s.leaveConfigure addr).seg h).window = (s.seg h).window := State.editSeg_seg_window fun _ => rfl

/-- A read of a Station Entry opens and closes no window (R156). -/
theorem State.readStation_seg_window (s : State) (addr : Nat) (h : Seg) :
    ((s.readStation addr).seg h).window = (s.seg h).window := by
  unfold State.readStation
  split_ifs with hbad
  · dsimp only
    have hleft : ((((s.tableFault .station addr []).leaveConfigure addr).seg h)).window =
        (s.seg h).window := by
      rw [State.leaveConfigure_seg_window, State.tableFault_seg]
    split_ifs
    · rw [State.putStation_seg, hleft]
    · rw [State.turnDueIfIdle_seg_window, State.putStation_seg, hleft]
    · rw [(State.Yields.unloadStation _ _).seg, State.putStation_seg, hleft]
  · rfl

theorem State.countMiss_seg_window (s : State) (addr : Nat) (h : Seg) :
    ((s.countMiss addr).seg h).window = (s.seg h).window := by
  unfold State.countMiss
  dsimp only
  split_ifs
  · rw [State.editStation_seg]
  · rw [State.raise_seg, State.editStation_seg, State.leaveConfigure_seg_window]

theorem State.stationMiss_seg_window (s : State) (addr : Nat) (check framing : Bool) (h : Seg) :
    ((s.stationMiss addr check framing).seg h).window = (s.seg h).window := by
  unfold State.stationMiss
  have hread := s.readStation_seg_window addr h
  dsimp only
  cases ((s.readStation addr).station addr).state with
  | absent => exact hread
  | cutOff => exact hread
  | silent => exact (congrArg Segment.window (State.editStation_seg ..)).trans hread
  | unconfigured | configuring | inService =>
    exact (State.countMiss_seg_window ..).trans
      ((congrArg Segment.window (State.editStation_seg ..)).trans hread)

/-- A miss leaves its segment without a window (R131). -/
theorem State.closeMiss_seg_window (s : State) (g : Seg) : ((s.closeMiss g).seg g).window = none := by
  unfold State.closeMiss
  split
  · assumption
  next w hw =>
    rw [State.turnDue_seg_window, (State.Yields.endEvent _).seg, State.stationMiss_seg_window, State.shutWindow,
      State.seg_editSeg_same]

/-! ### LINE_LOW -/

theorem exec_lineLow_of {s : State} {g : Seg} (hup : (s.seg g).state = .up)
    (hpoll : (s.seg g).pollOut = none) (hlow : (s.seg g).lowMeasured = false) :
    exec (.lineLow g) s =
      .next ((((s.spoilFrame g).editSeg g fun x =>
        { x with atSpace := true, lowMeasured := true, lineLow := true }).raise .lineLow (segCode g)
          []).closeMiss g) :=
  congrArg _ (if_pos (by simp [hup, hpoll, hlow]))

theorem exec_lineLow_of_not {s : State} {g : Seg} (h : ¬ ((s.seg g).state = .up ∧
    (s.seg g).pollOut = none ∧ (s.seg g).lowMeasured = false)) : exec (.lineLow g) s = .next s :=
  congrArg _ (if_neg (by simpa [and_assoc] using h))

/-- Settles O55: REPLY_TIMEOUT by the receiver and the station's state, LINE_LOW by what was in progress. -/
theorem windowsCloseAsMisses : Obligations.WindowsCloseAsMisses := by
  unfold Obligations.WindowsCloseAsMisses
  intro s g hs x
  refine ⟨fun hw => ?noWindow, fun w hw hrx => ?held, fun w hw hrx hown hgood => ?closes,
    fun hnot => exec_lineLow_of_not hnot, fun hup hpoll hlow hrx => ?low,
    fun hup hpoll hlow hrx hheld => ?spoiled, fun w hup hpoll hlow hrx hw hheld => ?spoiledHeld⟩
  case noWindow =>
    by_cases hrx : (s.seg g).rx.isSome = true
    · rw [exec_replyTimeout_of_receiving hrx]
      refine congrArg _ (State.editSeg_of_eq ?_)
      simp only [x] at hw
      simp only [hw, Option.map_none]
      rw [← hw]
    · rw [exec_replyTimeout_of_hunting (by simpa using hrx), State.closeMiss_of_none hw]
  case held =>
    rw [exec_replyTimeout_of_receiving hrx]
    exact congrArg _ (State.editSeg_congr (by simp only [x] at hw; simp only [hw, Option.map_some]))
  case closes =>
    intro e flagged shut
    obtain ⟨-, -, hseg⟩ := mem_segAddrs.1 hown
    let u := s.shutWindow g
    have hrow (a : Nat) : u.stationRow a = s.stationRow a := State.shutWindow_stationRow ..
    have hstation : u.station w.addr = e := State.shutWindow_station ..
    have hgood' : (u.stationRow w.addr).bad = false := by rw [hrow]; exact hgood
    have hset : u.Settled := (congrArg Dispatch.passDue (State.editSeg_dispatch ..)).trans hs
    have hshut : u.turnDue g = shut := State.shutWindow_turnDue ..
    have hflags : e.flagErrors w.checkError w.framingError = { e with errors := flagged } :=
      Station.flagErrors_eq ..
    have hmiss := State.stationMiss_of_good hgood' w.checkError w.framingError
    rw [hstation] at hmiss
    have hclose {v : State} (hv : u.stationMiss w.addr w.checkError w.framingError = v) (hvs : v.Settled) :
        exec (.replyTimeout g) s = .next (v.turnDue g) := by
      subst hv
      rw [exec_replyTimeout_of_hunting hrx, State.closeMiss_of_settled hw hvs]
    have hshutRow (a : Nat) : shut.stationRow a = s.stationRow a := State.editSeg_stationRow ..
    have hshutStation : shut.station w.addr = e := State.editSeg_station ..
    have hshutGood : (shut.stationRow w.addr).bad = false := by rw [hshutRow]; exact hgood
    have hshutTable : shut.stations = s.stations := State.editSeg_stations ..
    have hdue (f : Station → Station) :
        (u.editStation w.addr f).turnDue g = shut.editStation w.addr f := by
      rw [← hshut]
      exact (State.editSeg_editStation ..).symm
    refine ⟨fun hstate => ?unheard, fun hstate => ?silent, fun hstate => ?counted⟩
    case unheard =>
      rw [← hshut]
      rcases hstate with hstate | hstate <;> exact hclose (hmiss.trans (by rw [hstate])) hset
    case silent =>
      refine ⟨_, hclose (v := u.editStation w.addr _) (hmiss.trans (by rw [hstate])) hset, fun a => ?_, ?_⟩
      · rw [hdue, State.stationRow_editStation, hshutStation, hshutGood, hshutRow, hflags]
      · rw [hdue, ← hshutTable]
        rfl
    case counted =>
      have hmiss' : u.stationMiss w.addr w.checkError w.framingError =
          (u.editStation w.addr fun e => e.flagErrors w.checkError w.framingError).countMiss w.addr := by
        rw [hmiss]
        rcases hstate with hstate | hstate | hstate <;> rw [hstate]
      have hflagged : (u.editStation w.addr fun e => e.flagErrors w.checkError w.framingError).station
          w.addr = { e with errors := flagged } := by
        rw [State.station, State.stationRow_editStation, if_pos rfl, hstation, hflags]
      refine ⟨fun hfew => ?first, fun hmany => ?third⟩
      case first =>
        rw [State.countMiss_of_lt (by rw [hflagged]; exact hfew)] at hmiss'
        refine ⟨_, hclose hmiss' hset, fun a => ?_, ?_⟩
        · rw [State.turnDue, ← State.editSeg_editStation, ← State.turnDue, hdue,
            State.editStation_editStation_stationRow hshutGood, hshutStation, hflags, hshutRow]
        · rw [State.turnDue, ← State.editSeg_editStation, ← State.turnDue, hdue, ← hshutTable]
          rfl
      case third =>
        rw [State.countMiss_of_le (by rw [hflagged]; exact hmany), hflagged] at hmiss'
        let off : State := shut.editSeg g fun y => { y with cfgList := y.cfgList.filter (· ≠ w.addr) }
        have hoffRow (a : Nat) : off.stationRow a = s.stationRow a :=
          (State.editSeg_stationRow ..).trans (hshutRow a)
        have hoffStation : off.station w.addr = e := (State.editSeg_station ..).trans hshutStation
        have hoffTable : off.stations = s.stations := (State.editSeg_stations ..).trans hshutTable
        have hthird (f f' : Station → Station) (k : NoticeKind) (p : List Octet) :
            ((((u.editStation w.addr f).leaveConfigure w.addr).editStation w.addr f').raise k w.addr
              p).turnDue g = ((off.editStation w.addr f).editStation w.addr f').raise k w.addr p := by
          simp only [State.turnDue, State.leaveConfigure, hseg, u, shut, off, State.shutWindow,
            State.editSeg_editStation, State.editSeg_raise, State.editSeg_editSeg]
          exact State.editSeg_congr rfl
        refine ⟨_, hclose hmiss' ((congrArg Dispatch.passDue (State.editSeg_dispatch ..)).trans hset),
          fun a => ?_, ?_⟩
        · rw [hthird, State.raise_stationRow,
            State.editStation_editStation_stationRow (by rw [hoffRow]; exact hgood), hoffStation, hflags,
            hoffRow]
        · rw [hthird, ← hoffTable]
          rfl
  case low =>
    have hlowEq : exec (.lineLow g) s = .next (((s.editSeg g fun y =>
        { y with atSpace := true, lowMeasured := true, lineLow := true }).raise .lineLow
          (if g = .a then 0 else 1) []).closeMiss g) := by
      rw [exec_lineLow_of hup hpoll hlow, State.spoilFrame_of_hunting hrx, segCode_eq]
    intro low
    have hseg : low.seg g = { s.seg g with atSpace := true, lowMeasured := true, lineLow := true } :=
      (State.raise_seg ..).trans (State.seg_editSeg_same ..)
    refine ⟨fun hw => ?_, fun hw => ?_⟩
    · rw [hlowEq, State.closeMiss_of_none (by rw [hseg]; exact hw)]
    · rw [hlowEq, exec_replyTimeout_of_hunting (by rw [hseg]; exact hrx)]
  case spoiled =>
    have hedit : (s.editSeg g fun y => { y with
        rx := none, window := x.window.map fun w => { w with framingError := true } }) =
        s.editSeg g Segment.spoiled := State.editSeg_congr rfl
    rw [hedit, exec_lineLow_of hup hpoll hlow, State.spoilFrame_of_not_held hrx hheld]
    have hseg := State.seg_editSeg_same s g Segment.spoiled
    rw [exec_lineLow_of (by rw [hseg]; exact hup) (by rw [hseg]; exact hpoll) (by rw [hseg]; exact hlow),
      State.spoilFrame_of_hunting (by rw [hseg]; rfl)]
  case spoiledHeld =>
    have hedit : (s.editSeg g fun y =>
        { y with rx := none, window := some { w with framingError := true } }) =
        s.editSeg g Segment.spoiled := State.editSeg_congr (by
      show _ = (s.seg g).spoiled
      simp only [Segment.spoiled, x] at hw ⊢
      rw [hw, Option.map_some])
    rw [hedit]
    refine ⟨_, exec_replyTimeout_of_spoiled s g, ?_⟩
    rw [exec_lineLow_of hup hpoll hlow, State.spoilFrame_of_held hrx hw hheld, segCode_eq]
    refine congrArg _ (State.closeMiss_of_none ?_)
    rw [State.raise_seg, State.seg_editSeg_same]
    exact State.closeMiss_seg_window ..

end Sys2Proof.Machine
end

section
/-! PROOF. The release of a container's deposit, the end of its PLANNED stop, and the requests that take a
container out of the system: LOAD CONTAINER with UNLOAD and SET CONTAINER SERVICE (R9, R11, R12, R81,
R105). -/

namespace Sys2Proof.Machine

/-! ### The release of a container's deposit -/

theorem State.depositAt_row {s : State} {row : Nat} {d : Deposit} (h : s.depositAt row = some d) :
    d.row = row := by
  simpa using List.find?_some h

theorem State.releaseAt_of_none {s : State} {row : Nat} (h : s.depositAt row = none) :
    s.releaseAt row = s := by
  simp [State.releaseAt, h]

theorem State.releaseAt_of_some {s : State} {row : Nat} {d : Deposit} (h : s.depositAt row = some d) :
    s.releaseAt row = s.release d := by
  simp [State.releaseAt, h]

/-- A release from a Card Row that reads good and holds the units (R81, R48). -/
theorem State.release_of_holds {s : State} {d : Deposit} (h : s.Holds d) : s.release d = s.returned d := by
  obtain ⟨-, hgood, hunits⟩ := h
  simp only [State.release, State.repairCard_of_good hgood, lowerReserved, if_pos hunits]
  rfl

theorem State.releaseAt_of_holds {s : State} {row : Nat} {d : Deposit} (hd : s.depositAt row = some d)
    (h : s.Holds d) : s.releaseAt row = s.returned d :=
  (State.releaseAt_of_some hd).trans (State.release_of_holds h)

/-- The repair of a Card Row is no matter of the containers, the deposits or the ring. -/
theorem State.repairCard_restored (s : State) (row : Nat) :
    { s.repairCard row with cards := s.cards, notices := s.notices, capture := s.capture } = s := by
  unfold State.repairCard
  split_ifs <;> rfl

/-- What a release touches beside the cards, the notices and the capture (R81). -/
theorem State.release_restored (s : State) (d : Deposit) :
    { s.release d with cards := s.cards, notices := s.notices, capture := s.capture } =
      (s.removeDeposit d.row).editContainer d.row fun x => { x with hasPending := false } :=
  congrArg (fun t : State => (t.removeDeposit d.row).editContainer d.row
    fun x => { x with hasPending := false }) (s.repairCard_restored d.cardRow)

/-- The container's row once its deposit, if it held one, is released (R81). -/
theorem State.releaseAt_containerRow (s : State) (row r : Nat) :
    (s.releaseAt row).containerRow r =
      if r = row then
        { data := { s.container row with
                    hasPending := (s.container row).hasPending && (s.depositAt row).isNone },
          bad := (s.containerRow row).bad }
      else s.containerRow r := by
  cases hd : s.depositAt row with
  | none =>
    rw [State.releaseAt_of_none hd]
    split_ifs with hr
    · subst hr
      simp [State.container]
    · rfl
  | some d =>
    obtain rfl := State.depositAt_row hd
    rw [State.releaseAt_of_some hd]
    have hrow : (s.release d).containerRow r =
        ((s.removeDeposit d.row).editContainer d.row fun x =>
          { x with hasPending := false }).containerRow r :=
      (congrArg (fun t : State => t.containerRow r) (s.release_restored d) :)
    rw [hrow, State.containerRow_editContainer, Option.isNone_some, Bool.and_false]
    rfl

theorem State.releaseAt_deposits (s : State) (row : Nat) :
    (s.releaseAt row).deposits = s.deposits.eraseP fun d => d.row = row := by
  cases hd : s.depositAt row with
  | none =>
    rw [State.releaseAt_of_none hd, List.eraseP_of_forall_not]
    exact fun d hmem => List.find?_eq_none.1 hd d hmem
  | some d =>
    obtain rfl := State.depositAt_row hd
    rw [State.releaseAt_of_some hd]
    exact (congrArg State.deposits (s.release_restored d) :)

/-- The dispatch, the ring and the rest are left alone by a release (R81). -/
theorem State.releaseAt_restored (s : State) (row : Nat) :
    { s.releaseAt row with containers := s.containers, deposits := s.deposits, cards := s.cards,
                           notices := s.notices, capture := s.capture } = s := by
  unfold State.releaseAt
  split
  · exact (congrArg (fun t : State => { t with containers := s.containers, deposits := s.deposits })
      (s.release_restored _) :)
  · rfl

/-- A deposit whose Card Row reads good is released without a notice (R81). -/
theorem State.releaseAt_quiet {s : State} {row : Nat}
    (h : ∀ d, s.depositAt row = some d → (s.cardRow d.cardRow).bad = false) :
    (s.releaseAt row).notices = s.notices ∧ (s.releaseAt row).capture = s.capture := by
  cases hd : s.depositAt row with
  | none =>
    rw [State.releaseAt_of_none hd]
    exact ⟨rfl, rfl⟩
  | some d =>
    rw [State.releaseAt_of_some hd, State.release, State.repairCard_of_good (h d hd)]
    exact ⟨rfl, rfl⟩

/-! ### The end of a PLANNED stop -/

/-- The end of the row's stop leaves a HANDED ticket with nothing planned (R105). -/
abbrev Ticket.completesAt (w : Ticket) (row : Nat) (st : StopStatus) (mass : Option Nat) : Prop :=
  w.state = .handed ∧ ∀ p ∈ endStop row st mass w.stops, p.status ≠ .planned

/-- The ticket once the row's PLANNED stop has its end (R105). -/
def Ticket.stopEnded (w : Ticket) (row : Nat) (st : StopStatus) (mass : Option Nat) : Ticket :=
  { w with stops := endStop row st mass w.stops,
           state := if w.completesAt row st mass then .complete else w.state }

/-- TICKET COMPLETE, where the end of the row's stop completes the ticket (R105). -/
def State.toldStopEnd (s : State) (row slot : Nat) (st : StopStatus) (mass : Option Nat) : State :=
  let w := s.ticket slot
  let stops := endStop row st mass w.stops
  if w.completesAt row st mass then
    s.raise .ticketComplete slot (be16 w.number ++
      [octet (stops.countP fun p => p.status = .done),
        octet (stops.countP fun p => p.status = .skipped)])
  else s

/-- The end of a PLANNED stop: the ticket, the assignment, the notice (R105). -/
theorem State.leavePlanned_eq (s : State) (row slot : Nat) (st : StopStatus) (mass : Option Nat) :
    s.leavePlanned row slot st mass =
      ((s.toldStopEnd row slot st mass).putTicket slot ((s.ticket slot).stopEnded row st mass)).editContainer
        row fun c => { c with assignment := none } := by
  unfold State.leavePlanned State.toldStopEnd Ticket.stopEnded
  have hplanned : (((s.ticket slot).state = .handed &&
      !(endStop row st mass (s.ticket slot).stops).any Stop.isPlanned : Bool) = true) ↔
      (s.ticket slot).completesAt row st mass := by
    simp [Stop.isPlanned]
  dsimp only
  by_cases hc : (s.ticket slot).completesAt row st mass
  · rw [if_pos (hplanned.2 hc), if_pos hc, if_pos hc]
    unfold State.completeTicket
    have hcell : ((s.putTicket slot
        { s.ticket slot with stops := endStop row st mass (s.ticket slot).stops }).editContainer row
          fun c => { c with assignment := none }).ticket slot =
        { s.ticket slot with stops := endStop row st mass (s.ticket slot).stops } :=
      (State.ticket_putTicket ..).trans (if_pos rfl)
    rw [hcell]
    dsimp only
    generalize be16 (s.ticket slot).number ++ _ = payload
    have hhanded : { s.ticket slot with stops := endStop row st mass (s.ticket slot).stops } ≠
        Ticket.free := Ticket.ne_free fun h => nomatch hc.1.symm.trans h
    have hcomplete : { s.ticket slot with
        stops := endStop row st mass (s.ticket slot).stops, state := .complete } ≠ Ticket.free :=
      Ticket.ne_free TicketState.noConfusion
    exact (congrArg (fun u : State => (u.raise .ticketComplete slot payload).editContainer row
      fun c => { c with assignment := none }) (State.putTicket_putTicket hhanded hcomplete s slot) :)
  · rw [if_neg (mt hplanned.1 hc), if_neg hc, if_neg hc]

theorem State.toldStopEnd_restored (s : State) (row slot : Nat) (st : StopStatus) (mass : Option Nat) :
    { s.toldStopEnd row slot st mass with notices := s.notices } = s := by
  unfold State.toldStopEnd
  dsimp only
  split_ifs <;> rfl

/-- The ring, the containers and the notices alone are touched by a skip (R105). -/
theorem State.skipStop_restored (s : State) (row : Nat) (slot : Option Nat) :
    { s.skipStop row slot with containers := s.containers, tickets := s.tickets,
                               notices := s.notices } = s := by
  cases slot with
  | none => rfl
  | some n =>
    refine (congrArg (fun t : State => { t with containers := s.containers, tickets := s.tickets,
                                                notices := s.notices }) (s.leavePlanned_eq ..)).trans ?_
    exact (congrArg (fun t : State => { t with containers := s.containers, tickets := s.tickets })
      (s.toldStopEnd_restored row n .skipped none) :)

theorem State.toldStopEnd_containerRow (s : State) (row slot : Nat) (st : StopStatus)
    (mass : Option Nat) (r : Nat) :
    (s.toldStopEnd row slot st mass).containerRow r = s.containerRow r := by
  unfold State.toldStopEnd
  dsimp only
  split_ifs <;> simp

theorem State.toldStopEnd_ticket (s : State) (row slot : Nat) (st : StopStatus)
    (mass : Option Nat) (n : Nat) :
    (s.toldStopEnd row slot st mass).ticket n = s.ticket n := by
  unfold State.toldStopEnd
  dsimp only
  split_ifs <;> simp

theorem State.leavePlanned_containerRow (s : State) (row slot : Nat) (st : StopStatus)
    (mass : Option Nat) (r : Nat) :
    (s.leavePlanned row slot st mass).containerRow r =
      if r = row then
        { data := { s.container row with assignment := none }, bad := (s.containerRow row).bad }
      else s.containerRow r := by
  have hrow (q : Nat) : ((s.toldStopEnd row slot st mass).putTicket slot
      ((s.ticket slot).stopEnded row st mass)).containerRow q = s.containerRow q :=
    s.toldStopEnd_containerRow ..
  simp only [State.leavePlanned_eq, State.containerRow_editContainer, State.container, hrow]

theorem State.leavePlanned_ticket (s : State) (row slot : Nat) (st : StopStatus) (mass : Option Nat)
    (n : Nat) :
    (s.leavePlanned row slot st mass).ticket n =
      if n = slot then (s.ticket slot).stopEnded row st mass else s.ticket n := by
  rw [State.leavePlanned_eq]
  refine (State.ticket_putTicket ..).trans ?_
  rw [State.toldStopEnd_ticket]

theorem State.leavePlanned_notices (s : State) (row slot : Nat) (st : StopStatus) (mass : Option Nat) :
    (s.leavePlanned row slot st mass).notices = (s.toldStopEnd row slot st mass).notices := by
  rw [State.leavePlanned_eq]
  rfl

theorem State.skipStop_containerRow (s : State) (row r : Nat) (slot : Option Nat) :
    (s.skipStop row slot).containerRow r =
      if r = row then
        { data := { s.container row with
                    assignment := if slot.isSome then none else (s.container row).assignment },
          bad := (s.containerRow row).bad }
      else s.containerRow r := by
  cases slot with
  | none =>
    by_cases hr : r = row
    · rw [hr, if_pos rfl]
      simp [State.skipStop, State.container]
    · rw [if_neg hr]
      rfl
  | some n => exact s.leavePlanned_containerRow ..

/-! ### LOAD CONTAINER with action UNLOAD -/

/-- A row that is cleared leaves the list; it is never one that became FULL (R9, R94). -/
theorem State.clearContainer_eq (s : State) (row : Nat) :
    s.clearContainer row = (s.writeContainer row Container.unloaded).leaveList row := by
  have hrow : (s.writeContainer row Container.unloaded).container row = Container.unloaded :=
    congrArg Row.data ((State.containerRow_writeContainer ..).trans (if_pos rfl))
  refine State.tell_of_ineligible (fun h => ?_) (congrArg Container.eligible hrow)
  rw [hrow] at h
  exact absurd h (by decide)

@[simp] theorem State.leaveList_containerRow (s : State) (row r : Nat) :
    (s.leaveList row).containerRow r = s.containerRow r := rfl

theorem State.clearContainer_containerRow (s : State) (row r : Nat) :
    (s.clearContainer row).containerRow r =
      if r = row then Row.good Container.unloaded else s.containerRow r := by
  rw [State.clearContainer_eq, State.leaveList_containerRow, State.containerRow_writeContainer]

theorem State.clearContainer_dispatch (s : State) (row : Nat) :
    (s.clearContainer row).dispatch =
      { s.dispatch with list := s.dispatch.list.filter (· ≠ row) } := by
  rw [State.clearContainer_eq]
  rfl

/-- A clearing touches the row and the list (R9, R94). -/
theorem State.clearContainer_restored (s : State) (row : Nat) :
    { s.clearContainer row with containers := s.containers, dispatch := s.dispatch } = s := by
  rw [State.clearContainer_eq]
  rfl

theorem State.replied_mgmt_congr {s t : State} (h : t.mgmt = s.mgmt) (tag code : Octet)
    (r : ResultCode) (data : List Octet) :
    (t.replied tag code r data).mgmt = (s.replied tag code r data).mgmt := by
  simp only [State.replied, State.editMgmt, h]

theorem containerUnloadRequest_of_good {s : State} {row : Octet} (h : (s.containerRow row.toNat).bad = false) :
    containerUnloadRequest [row, 1] s = s.unloadContainer row.toNat := by
  simp [containerUnloadRequest, State.readContainer_of_good h]

theorem State.unloadContainer_of_held {s : State} {row : Nat}
    (h : (s.container row).assignment.isSome = true ∨ (s.container row).service = .lifting) :
    s.unloadContainer row = refused s .state := by
  refine if_pos ?_
  simpa using h

theorem State.unloadContainer_of_free {s : State} {row : Nat} (ha : (s.container row).assignment = none)
    (hs : (s.container row).service ≠ .lifting) :
    s.unloadContainer row =
      if (s.container row).loaded then accepted ((s.releaseAt row).clearContainer row) []
      else accepted s [] := by
  refine if_neg ?_
  simp [ha, hs]

/-- Settles O26: the checks of the unload, then the row cleared behind the release of its deposit. -/
theorem unloadClearsRow : Obligations.UnloadClearsRow := by
  unfold Obligations.UnloadClearsRow
  intro s tag row hs h hgood
  have hexec {r : Answered} (hr : s.unloadContainer row.toNat = r) (hset : r.state.Settled) :=
    exec_loadContainerUnload_of_carries h (actionIs_self ..)
      ((containerUnloadRequest_of_good hgood).trans hr) hset
  refine ⟨fun hheld => hexec (State.unloadContainer_of_held hheld) hs,
    fun ha hsvc hl => hexec (r := accepted s [])
      ((State.unloadContainer_of_free ha hsvc).trans (if_neg (by simp [hl]))) hs,
    fun ha hsvc hl => ?unload⟩
  case unload =>
    have hr := (State.unloadContainer_of_free ha hsvc).trans (if_pos hl)
    generalize hu : s.releaseAt row.toNat = u at hr
    have hrelease := s.releaseAt_restored row.toNat
    rw [hu] at hrelease
    have hdispatch : u.dispatch = s.dispatch := (congrArg State.dispatch hrelease :)
    have hclear := u.clearContainer_restored row.toNat
    have hlist := u.clearContainer_dispatch row.toNat
    rw [hdispatch] at hlist
    refine ⟨_, hexec hr ((congrArg Dispatch.passDue hlist).trans hs), ?_, hlist, ?_, fun hd => ?_,
      fun d hd hholds => ?_, fun r hne => ?_, ?_, ?_⟩
    · exact (State.replied_containerRow ..).trans
        ((State.clearContainer_containerRow ..).trans (if_pos rfl))
    · refine (congrArg State.deposits hclear :).trans ?_
      rw [← hu, State.releaseAt_deposits]
    · rw [State.releaseAt_of_none hd] at hu
      subst hu
      exact ⟨(congrArg State.cards hclear :), (congrArg State.notices hclear :)⟩
    · rw [State.releaseAt_of_holds hd hholds] at hu
      subst hu
      exact ⟨(congrArg State.cards hclear :), (congrArg State.notices hclear :)⟩
    · refine (State.replied_containerRow ..).trans
        ((State.clearContainer_containerRow ..).trans ((if_neg hne).trans ?_))
      rw [← hu]
      exact (s.releaseAt_containerRow ..).trans (if_neg hne)
    · exact State.replied_mgmt_congr
        ((congrArg State.mgmt hclear :).trans (congrArg State.mgmt hrelease :)) ..
    · refine (congrArg (fun t : State => { t with
        containers := s.containers, dispatch := s.dispatch, deposits := s.deposits, cards := s.cards,
        notices := s.notices, capture := s.capture, mgmt := s.mgmt }) hclear :).trans ?_
      exact (congrArg (fun t : State => { t with dispatch := s.dispatch, mgmt := s.mgmt }) hrelease :)

/-! ### SET CONTAINER SERVICE -/

theorem exec_setContainerServiceOut_of_carries {s : State} {tag : Octet} {args : List Octet}
    {r : Answered} (h : s.Carries tag (0x12 :: args)) (hm : actionIs 0 1 args = true)
    (hr : serviceRequest serviceOut args s = r) (hs : r.state.Settled) :
    exec .setContainerServiceOut s = .next (r.state.replied tag 0x12 r.result r.data) :=
  congrArg _ (State.serve_answers_settled (f := serviceRequest serviceOut) h hm hr hs)

theorem exec_setContainerServiceIn_of_carries {s : State} {tag : Octet} {args : List Octet}
    {r : Answered} (h : s.Carries tag (0x12 :: args)) (hm : actionIs 1 1 args = true)
    (hr : serviceRequest serviceIn args s = r) (hs : r.state.Settled) :
    exec .setContainerServiceIn s = .next (r.state.replied tag 0x12 r.result r.data) :=
  congrArg _ (State.serve_answers_settled (f := serviceRequest serviceIn) h hm hr hs)

theorem serviceRequest_of_gt {direction : Octet} (h : 1 < direction.toNat)
    (act : Nat → State → Answered) (row : Octet) (s : State) :
    serviceRequest act [row, direction] s = refused s .range := if_neg (Nat.not_le.2 h)

theorem serviceRequest_of_good {direction : Octet} (h : direction.toNat ≤ 1)
    (act : Nat → State → Answered) {row : Octet} {s : State}
    (hgood : (s.containerRow row.toNat).bad = false) :
    serviceRequest act [row, direction] s =
      if (s.container row.toNat).loaded then act row.toNat s else refused s .state := by
  simp only [serviceRequest, if_pos h, State.readContainer_of_good hgood]

/-- A container out of the system as R11 leaves its entry. -/
def Container.withdrawn (c : Container) : Container :=
  { c with liftTimer := none, liftStage := .none, estimate := none, fill := .none,
           suspect := none, service := .outOfService, hasPending := false, assignment := none }

/-- A container that is withdrawn leaves the list; it is never one that became FULL (R11, R94). -/
theorem State.withdraw_eq (s : State) (row : Nat) :
    s.withdraw row = (((s.releaseAt row).skipStop row (s.assignedSlot row)).editContainer row
      Container.withdrawn).leaveList row := by
  have hrow (u : State) : (u.editContainer row Container.withdrawn).container row =
      (u.container row).withdrawn :=
    congrArg Row.data ((State.containerRow_editContainer ..).trans (if_pos rfl))
  unfold State.withdraw
  refine State.tell_of_ineligible (fun h => ?_) ((congrArg Container.eligible (hrow _)).trans ?_)
  · exact absurd ((congrArg Container.fill (hrow _)).symm.trans h) FillState.noConfusion
  · simp [Container.eligible, Container.withdrawn]

/-- What a withdrawal touches (R11). -/
theorem State.withdraw_restored (s : State) (row : Nat) :
    { s.withdraw row with
        containers := s.containers, dispatch := s.dispatch, deposits := s.deposits, tickets := s.tickets,
        cards := s.cards, notices := s.notices, capture := s.capture } = s := by
  rw [State.withdraw_eq]
  have hskip := (s.releaseAt row).skipStop_restored row (s.assignedSlot row)
  have hrelease := s.releaseAt_restored row
  refine (congrArg (fun t : State => { t with
    containers := s.containers, dispatch := s.dispatch, deposits := s.deposits, tickets := s.tickets,
    cards := s.cards, notices := s.notices, capture := s.capture }) hskip :).trans ?_
  exact (congrArg (fun t : State => { t with tickets := s.tickets, dispatch := s.dispatch }) hrelease :)

theorem State.withdraw_dispatch (s : State) (row : Nat) :
    (s.withdraw row).dispatch = { s.dispatch with list := s.dispatch.list.filter (· ≠ row) } := by
  have hskip := (congrArg State.dispatch ((s.releaseAt row).skipStop_restored row (s.assignedSlot row)) :)
  have hrelease := (congrArg State.dispatch (s.releaseAt_restored row) :)
  rw [State.withdraw_eq]
  exact congrArg (fun x : Dispatch => { x with list := x.list.filter (· ≠ row) })
    (hskip.trans hrelease)

theorem State.withdraw_deposits (s : State) (row : Nat) :
    (s.withdraw row).deposits = s.deposits.eraseP fun d => d.row = row := by
  rw [State.withdraw_eq, ← State.releaseAt_deposits]
  exact (congrArg State.deposits ((s.releaseAt row).skipStop_restored row (s.assignedSlot row)) :)

theorem State.withdraw_cards (s : State) (row : Nat) :
    (s.withdraw row).cards = (s.releaseAt row).cards := by
  rw [State.withdraw_eq]
  exact (congrArg State.cards ((s.releaseAt row).skipStop_restored row (s.assignedSlot row)) :)

theorem State.withdraw_capture (s : State) (row : Nat) :
    (s.withdraw row).capture = (s.releaseAt row).capture := by
  rw [State.withdraw_eq]
  exact (congrArg State.capture ((s.releaseAt row).skipStop_restored row (s.assignedSlot row)) :)

theorem State.withdraw_notices (s : State) (row : Nat) :
    (s.withdraw row).notices = ((s.releaseAt row).skipStop row (s.assignedSlot row)).notices := by
  rw [State.withdraw_eq]
  rfl

theorem State.withdraw_ticket (s : State) (row n : Nat) :
    (s.withdraw row).ticket n = ((s.releaseAt row).skipStop row (s.assignedSlot row)).ticket n := by
  rw [State.withdraw_eq]
  rfl

theorem State.releaseAt_ticket (s : State) (row n : Nat) : (s.releaseAt row).ticket n = s.ticket n :=
  (congrArg (fun t : State => t.ticket n) (s.releaseAt_restored row) :)

/-- The withdrawn row, and the others (R11). -/
theorem State.withdraw_containerRow (s : State) (row r : Nat) :
    (s.withdraw row).containerRow r =
      if r = row then { data := (s.container row).withdrawn, bad := (s.containerRow row).bad }
      else s.containerRow r := by
  have hrow (q : Nat) := (s.releaseAt row).skipStop_containerRow row q (s.assignedSlot row)
  rw [State.withdraw_eq, State.leaveList_containerRow, State.containerRow_editContainer]
  by_cases hr : r = row
  · simp only [if_pos hr, State.container, hrow, State.releaseAt_containerRow, if_true]
    rfl
  · simp only [if_neg hr, hrow, State.releaseAt_containerRow]

theorem State.assignedSlot_of_good {s : State} {row : Nat} (h : (s.containerRow row).bad = false) :
    s.assignedSlot row = (s.container row).assignment := by
  simp [State.assignedSlot, h]

/-- A notice is stamped with the second, and timed by the parameters, of the state it is raised in. -/
theorem State.raise_notices_congr {s t : State} (hnotices : t.notices = s.notices)
    (hseconds : t.seconds = s.seconds) (hparams : t.params = s.params) (k : NoticeKind) (a : Nat)
    (p : List Octet) : (t.raise k a p).notices = (s.raise k a p).notices := by
  simp only [State.raise, State.editNotices, State.after, hnotices, hseconds, hparams]

theorem State.toldStopEnd_notices_congr {s t : State} {slot : Nat} (hticket : t.ticket slot = s.ticket slot)
    (hnotices : t.notices = s.notices) (hseconds : t.seconds = s.seconds) (hparams : t.params = s.params)
    (row : Nat) (st : StopStatus) (mass : Option Nat) :
    (t.toldStopEnd row slot st mass).notices = (s.toldStopEnd row slot st mass).notices := by
  simp only [State.toldStopEnd, hticket]
  split_ifs
  · exact State.raise_notices_congr hnotices hseconds hparams ..
  · exact hnotices

/-! ### SET CONTAINER SERVICE, OUT -/

/-- The requests of either direction on an unloaded row, and with an octet that names no direction (R12). -/
theorem exec_setContainerService_of_unloaded {s : State} {tag row direction : Octet} {cmd : Instr}
    (hs : s.Settled) (h : s.Carries tag [0x12, row, direction])
    (hcmd : direction = 0 ∧ cmd = .setContainerServiceOut ∨
      direction = 1 ∧ cmd = .setContainerServiceIn)
    (hgood : (s.containerRow row.toNat).bad = false) (hl : (s.container row.toNat).loaded = false) :
    exec cmd s = .next (s.replied tag 0x12 .state []) := by
  have hr {d : Octet} (hd : d.toNat ≤ 1) (act : Nat → State → Answered) :
      serviceRequest act [row, d] s = refused s .state :=
    (serviceRequest_of_good hd act hgood).trans (if_neg (by simp [hl]))
  rcases hcmd with ⟨rfl, rfl⟩ | ⟨rfl, rfl⟩
  · exact exec_setContainerServiceOut_of_carries h (actionIs_self ..) (hr (by decide) _) hs
  · exact exec_setContainerServiceIn_of_carries h (actionIs_self ..) (hr (by decide) _) hs

/-- The container is withdrawn, and the reply carries the service state it had (R11). -/
theorem exec_setContainerServiceOut_of_loaded {s : State} {tag row : Octet} (hs : s.Settled)
    (h : s.Carries tag [0x12, row, 0]) (hgood : (s.containerRow row.toNat).bad = false)
    (hl : (s.container row.toNat).loaded = true) :
    exec .setContainerServiceOut s =
      .next ((s.withdraw row.toNat).replied tag 0x12 .accepted
        [(s.container row.toNat).service.code]) := by
  refine exec_setContainerServiceOut_of_carries (r := serviceOut row.toNat s) h (actionIs_self ..)
    ((serviceRequest_of_good (by decide) _ hgood).trans (if_pos hl)) ?_
  exact (congrArg Dispatch.passDue (s.withdraw_dispatch row.toNat) :).trans hs

/-- The notices of a withdrawal that finds its entry and its deposit's Card Row good (R11, R105). -/
theorem State.withdraw_quiet {s : State} {row : Nat} (hgood : (s.containerRow row).bad = false)
    (hcards : ∀ d, s.depositAt row = some d → (s.cardRow d.cardRow).bad = false) :
    (s.withdraw row).capture = s.capture ∧
      ((s.container row).assignment = none → (s.withdraw row).notices = s.notices) ∧
      ∀ n, (s.container row).assignment = some n →
        (s.withdraw row).notices = (s.toldStopEnd row n .skipped none).notices := by
  obtain ⟨hnotices, hcapture⟩ := State.releaseAt_quiet hcards
  refine ⟨(s.withdraw_capture row).trans hcapture, fun ha => ?_, fun n ha => ?_⟩
  · rw [State.withdraw_notices, State.assignedSlot_of_good hgood, ha]
    exact hnotices
  · rw [State.withdraw_notices, State.assignedSlot_of_good hgood, ha]
    have hframe := s.releaseAt_restored row
    exact (State.leavePlanned_notices ..).trans (State.toldStopEnd_notices_congr (s.releaseAt_ticket ..)
      hnotices (congrArg State.seconds hframe :) (congrArg State.params hframe :) row .skipped none)

/-- The ticket of a withdrawn container, and the others (R11, R105). -/
theorem State.withdraw_ticket_of_good {s : State} {row : Nat} (hgood : (s.containerRow row).bad = false)
    (n : Nat) :
    (s.withdraw row).ticket n =
      if (s.container row).assignment = some n then (s.ticket n).stopEnded row .skipped none
      else s.ticket n := by
  rw [State.withdraw_ticket, State.assignedSlot_of_good hgood]
  cases ha : (s.container row).assignment with
  | none => exact s.releaseAt_ticket row n
  | some slot =>
    refine (State.leavePlanned_ticket ..).trans ?_
    rw [State.releaseAt_ticket, State.releaseAt_ticket]
    by_cases hn : n = slot
    · rw [if_pos hn, if_pos (by rw [hn]), hn]
    · rw [if_neg hn, if_neg fun h => hn (Option.some.inj h).symm]

/-! ### SET CONTAINER SERVICE, IN -/

theorem serviceIn_of_inSystem {s : State} {row : Nat} (h : (s.container row).service ≠ .outOfService) :
    serviceIn row s = { state := s, result := .state, data := [(s.container row).service.code] } :=
  if_neg h

/-- A container without an estimate that is in no list comes into service alone (R12). -/
theorem serviceIn_of_outOfService {s : State} {row : Nat}
    (h : (s.container row).service = .outOfService) (he : (s.container row).estimate = none)
    (hlist : row ∉ s.dispatch.list) :
    serviceIn row s =
      accepted (s.editContainer row fun c => { c with service := .inService }) [0] := by
  have hrow : (s.editContainer row fun c => { c with service := .inService }).container row =
      { s.container row with service := .inService } :=
    congrArg Row.data ((State.containerRow_editContainer ..).trans (if_pos rfl))
  refine (if_pos h).trans (congrArg (fun u => accepted u [0]) ?_)
  refine (State.tell_of_ineligible (fun hfull => ?_) ?_).trans (State.leaveList_of_notMem hlist)
  · rw [hrow] at hfull
    exact hfull
  · rw [hrow]
    simp [Container.eligible, he]

/-- Settles O27: direction OUT withdraws, IN restores the service state, and the checks before them. -/
theorem serviceOutAndIn : Obligations.ServiceOutAndIn := by
  unfold Obligations.ServiceOutAndIn
  refine ⟨fun s tag row hs h hgood hl => ?out, fun s tag row hs h hgood hl => ⟨fun hin => ?refused,
    fun hout he hlist => ?restored⟩, fun s tag row direction hs h hgt => ⟨?rangeOut, ?rangeIn⟩,
    fun s tag row direction cmd hs h hcmd hgood hl =>
      exec_setContainerService_of_unloaded hs h hcmd hgood hl⟩
  case out =>
    have hexec := exec_setContainerServiceOut_of_loaded hs h hgood hl
    have hframe := s.withdraw_restored row.toNat
    have hrow := s.withdraw_containerRow row.toNat
    have hdispatch := s.withdraw_dispatch row.toNat
    have hdeposits := s.withdraw_deposits row.toNat
    have hcards := s.withdraw_cards row.toNat
    have hquiet := State.withdraw_quiet hgood
    have hticket := State.withdraw_ticket_of_good hgood
    generalize s.withdraw row.toNat = u at hexec hframe hrow hdispatch hdeposits hcards hquiet hticket
    refine ⟨_, hexec, ?_, hdispatch, hdeposits, fun hgoods => ?_, fun r hne => (hrow r).trans (if_neg hne),
      fun hd => ?_, fun d hd hholds => ?_, fun slot hslot => (hticket slot).trans (if_neg hslot.symm),
      fun n ha => (hticket n).trans (if_pos ha),
      State.replied_mgmt_congr (congrArg State.mgmt hframe :) .., ?_⟩
    · refine (hrow row.toNat).trans ?_
      rw [if_pos rfl, hgood]
      rfl
    · obtain ⟨hcapture, hfree, hheld⟩ := hquiet hgoods
      refine ⟨hcapture, hfree, fun n ha => (hheld n ha).trans ?_⟩
      exact apply_ite State.notices ..
    · rw [State.releaseAt_of_none hd] at hcards
      exact hcards
    · rw [State.releaseAt_of_holds hd hholds] at hcards
      exact hcards
    · exact (congrArg (fun t : State => { t with mgmt := s.mgmt }) hframe :)
  case refused =>
    exact exec_setContainerServiceIn_of_carries h (actionIs_self ..)
      ((serviceRequest_of_good (by decide) _ hgood).trans ((if_pos hl).trans (serviceIn_of_inSystem hin))) hs
  case restored =>
    refine ⟨_, exec_setContainerServiceIn_of_carries h (actionIs_self ..)
      ((serviceRequest_of_good (by decide) _ hgood).trans
        ((if_pos hl).trans (serviceIn_of_outOfService hout he hlist))) hs, fun r => ?_,
      State.replied_editContainer_restored ..⟩
    refine (State.replied_containerRow ..).trans ((State.containerRow_editContainer ..).trans ?_)
    rw [hgood]
    rfl
  case rangeOut =>
    exact exec_setContainerServiceOut_of_carries h (actionIs_of_gt hgt)
      (serviceRequest_of_gt hgt ..) hs
  case rangeIn =>
    exact exec_setContainerServiceIn_of_carries h (actionIs_of_gt hgt)
      (serviceRequest_of_gt hgt ..) hs

end Sys2Proof.Machine
end

section
/-! PROOF. The checked read of a faulty Container Entry (R15) and the expiries of the lift timer (R122,
R123). -/

namespace Sys2Proof.Machine

/-! ### The read of a faulty entry -/

/-- A faulty entry that reads as loaded is withdrawn, one that does not is cleared too (R15; log entry
13). -/
theorem State.readContainer_of_bad {s : State} {row : Nat} (h : (s.containerRow row).bad = true) :
    s.readContainer row =
      if (s.container row).loaded then
        ((s.tableFault .container row []).withdraw row).writeContainer row (s.container row).withdrawn
      else ((s.tableFault .container row []).withdraw row).clearContainer row := by
  have hrow : ((s.tableFault .container row []).withdraw row).container row =
      (s.container row).withdrawn :=
    congrArg Row.data ((State.withdraw_containerRow ..).trans (if_pos rfl))
  simp only [State.readContainer, if_pos h, hrow, Container.withdrawn]

/-- A row read faulty leaves the list; of the Dispatch Unit nothing else changes (R15, R94). -/
theorem State.readContainer_dispatch_of_bad {s : State} {row : Nat} (h : (s.containerRow row).bad = true) :
    (s.readContainer row).dispatch =
      { s.dispatch with list := s.dispatch.list.filter (· ≠ row) } := by
  have hwithdraw := (s.tableFault .container row []).withdraw_dispatch row
  rw [State.readContainer_of_bad h]
  split_ifs
  · exact hwithdraw
  · rw [State.clearContainer_dispatch, hwithdraw]
    simp [State.tableFault, State.captureFault]

theorem State.readContainer_passDue (s : State) (row : Nat) :
    (s.readContainer row).dispatch.passDue = s.dispatch.passDue := by
  by_cases h : (s.containerRow row).bad = true
  · rw [State.readContainer_dispatch_of_bad h]
  · rw [State.readContainer_of_good (by simpa using h)]

/-! ### The lift timer's expiries -/

theorem State.liftDue_iff {s : State} {row : Nat} :
    s.liftDue row = true ↔
      ∃ x, (s.container row).liftTimer = some x ∧ (s.seconds - x).toNat < 2147483648 := by
  unfold State.liftDue
  cases (s.container row).liftTimer with
  | none => simp
  | some x => simp [reached_iff]

theorem State.liftExpiry_of_not_due {s : State} {row : Nat} (h : ¬ s.liftDue row = true)
    (service : ServiceState) (stage : LiftStage) (f : State → State) :
    s.liftExpiry row service stage f = s := if_neg h

theorem State.liftExpiry_of_bad {s : State} {row : Nat} (hs : s.Settled) (h : s.liftDue row = true)
    (hbad : (s.containerRow row).bad = true) (service : ServiceState) (stage : LiftStage)
    (f : State → State) : s.liftExpiry row service stage f = s.readContainer row := by
  refine (if_pos h).trans ((if_pos hbad).trans (State.endEvent_of_settled ?_))
  exact (s.readContainer_passDue row).trans hs

/-- On a good entry an expiry that is due moves a lift that stands for it (R122, R123). -/
theorem State.liftExpiry_of_good {s : State} {row : Nat} (hgood : (s.containerRow row).bad = false)
    (service : ServiceState) (stage : LiftStage) (f : State → State) :
    s.liftExpiry row service stage f =
      if (s.container row).loaded = true ∧ (s.container row).service = service ∧
          (s.container row).liftStage = stage ∧ s.liftDue row = true then (f s).endEvent
      else s := by
  have hstands : (s.container row).liftStands service stage = true ↔
      (s.container row).loaded = true ∧ (s.container row).service = service ∧
        (s.container row).liftStage = stage := by
    simp [Container.liftStands, and_assoc]
  unfold State.liftExpiry
  by_cases hdue : s.liftDue row = true
  · rw [if_pos hdue, if_neg (by simp [hgood])]
    simp only [hstands, hdue, and_true]
  · rw [if_neg hdue, if_neg fun h => hdue h.2.2.2]

/-- A stall writes the entry and raises its notice (R122). -/
theorem State.stallLift_eq {s : State} {row : Nat} (hgood : (s.containerRow row).bad = false) :
    s.stallLift row =
      (s.writeContainer row
        { s.container row with
            service := .stalled, liftStage := .second,
            liftTimer := some (s.seconds + BitVec.ofNat 32 (s.params.liftLimit * 60)) }).raise
        .liftStalled row [octet ((s.container row).assignment.getD 255)] := by
  have hrow : ((s.startLiftTimer row .stalled .second).container row).assignment =
      (s.container row).assignment :=
    congrArg (fun r => r.data.assignment) ((State.containerRow_editContainer ..).trans (if_pos rfl))
  unfold State.stallLift
  dsimp only
  rw [hrow, State.startLiftTimer, State.editContainer, hgood]
  rfl

/-- A lift given up as R123 leaves its entry. -/
def Container.abandoned (c : Container) : Container :=
  { c with liftTimer := none, liftStage := .none, estimate := none, fill := .none,
           suspect := none, service := .outOfService, assignment := none }

/-- A lift given up at a row that is in no list: the stop, the entry and the notices (R123). -/
theorem State.abandonLift_eq {s : State} {row : Nat} (hlist : row ∉ s.dispatch.list) :
    s.abandonLift row =
      ((s.skipStop row (s.container row).assignment).editContainer row Container.abandoned).raise
        .containerOut row [octet ((s.container row).assignment.getD 255)] := by
  have hrow (u : State) : (u.editContainer row Container.abandoned).container row =
      (u.container row).abandoned :=
    congrArg Row.data ((State.containerRow_editContainer ..).trans (if_pos rfl))
  have hdispatch : (s.skipStop row (s.container row).assignment).dispatch = s.dispatch :=
    (congrArg State.dispatch (s.skipStop_restored ..) :)
  refine congrArg (fun u : State => u.raise .containerOut row
    [octet ((s.container row).assignment.getD 255)]) ?_
  refine (State.tell_of_ineligible (fun h => ?_) ((congrArg Container.eligible (hrow _)).trans ?_)).trans
    (State.leaveList_of_notMem ?_)
  · exact absurd ((congrArg Container.fill (hrow _)).symm.trans h) FillState.noConfusion
  · simp [Container.eligible, Container.abandoned]
  · exact fun h => hlist ((congrArg Dispatch.list hdispatch) ▸ h)

theorem State.abandonLift_containerRow {s : State} {row : Nat} (hlist : row ∉ s.dispatch.list) (r : Nat) :
    (s.abandonLift row).containerRow r =
      if r = row then { data := (s.container row).abandoned, bad := (s.containerRow row).bad }
      else s.containerRow r := by
  have hrow (q : Nat) := s.skipStop_containerRow row q (s.container row).assignment
  rw [State.abandonLift_eq hlist, State.raise_containerRow, State.containerRow_editContainer]
  by_cases hr : r = row
  · generalize (s.container row).assignment = slot at hrow
    rw [if_pos hr, if_pos hr]
    simp only [State.container, hrow, if_true]
    rfl
  · simp only [if_neg hr, hrow]

theorem State.abandonLift_restored {s : State} {row : Nat} (hlist : row ∉ s.dispatch.list) :
    { s.abandonLift row with containers := s.containers, tickets := s.tickets,
                             notices := s.notices } = s := by
  rw [State.abandonLift_eq hlist]
  exact s.skipStop_restored row (s.container row).assignment

/-- Settles O43: by the parity of the entry, and then by where its lift stands. -/
theorem liftTimerExpires : Obligations.LiftTimerExpires := by
  unfold Obligations.LiftTimerExpires
  refine ⟨fun s row hs hbad => ?faulty, fun s row hs hgood => ?good⟩
  case faulty =>
    simp only [← State.liftDue_iff]
    exact ⟨fun hdue => ⟨congrArg _ (State.liftExpiry_of_bad hs hdue hbad ..),
      congrArg _ (State.liftExpiry_of_bad hs hdue hbad ..)⟩,
      fun hdue => ⟨congrArg _ (State.liftExpiry_of_not_due hdue ..),
        congrArg _ (State.liftExpiry_of_not_due hdue ..)⟩⟩
  case good =>
    simp only [← State.liftDue_iff]
    have hfirst := State.liftExpiry_of_good hgood .lifting .first fun s => s.stallLift row
    have hsecond := State.liftExpiry_of_good hgood .stalled .second fun s => s.abandonLift row
    refine ⟨fun hnot => congrArg _ (hfirst.trans (if_neg hnot)), fun hl hsvc hstage hdue => ?_,
      fun hnot => congrArg _ (hsecond.trans (if_neg hnot)), fun hl hsvc hstage hdue hlist => ?_⟩
    · refine congrArg _ ((hfirst.trans (if_pos ⟨hl, hsvc, hstage, hdue⟩)).trans ?_)
      rw [State.stallLift_eq hgood]
      exact State.endEvent_of_settled hs
    · have hframe := State.abandonLift_restored hlist
      have hset : (s.abandonLift row).Settled := (congrArg (fun t : State => t.dispatch.passDue) hframe :).trans hs
      refine ⟨s.abandonLift row, congrArg _ ((hsecond.trans (if_pos ⟨hl, hsvc, hstage, hdue⟩)).trans
        (State.endEvent_of_settled hset)), fun r => ?_, fun ha => ?_, fun n ha => ?_, hframe⟩
      · refine (State.abandonLift_containerRow hlist r).trans ?_
        rw [hgood]
        rfl
      · rw [State.abandonLift_eq hlist, ha]
        exact ⟨rfl, rfl⟩
      · have hticket (m : Nat) : (s.abandonLift row).ticket m =
            if m = n then (s.ticket n).stopEnded row .skipped none else s.ticket m := by
          rw [State.abandonLift_eq hlist, ha]
          exact State.leavePlanned_ticket ..
        have hnotices : (s.abandonLift row).notices =
            ((s.toldStopEnd row n .skipped none).raise .containerOut row [octet n]).notices := by
          rw [State.abandonLift_eq hlist, ha]
          have hskip := s.skipStop_restored row (some n)
          have htold := s.toldStopEnd_restored row n .skipped none
          refine State.raise_notices_congr (s.leavePlanned_notices ..) ?_ ?_ ..
          · exact ((congrArg State.seconds hskip :).trans (congrArg State.seconds htold :).symm)
          · exact ((congrArg State.params hskip :).trans (congrArg State.params htold :).symm)
        refine ⟨fun m hm => (hticket m).trans (if_neg hm), fun hdone => ⟨?_, ?_⟩, fun hdone => ⟨?_, ?_⟩⟩
        · refine (hticket n).trans ((if_pos rfl).trans ?_)
          simp only [Ticket.stopEnded, if_pos hdone]
        · refine hnotices.trans ?_
          simp only [State.toldStopEnd, if_pos hdone]
        · refine (hticket n).trans ((if_pos rfl).trans ?_)
          simp only [Ticket.stopEnded, if_neg hdone]
        · refine hnotices.trans ?_
          simp only [State.toldStopEnd, if_neg hdone]

end Sys2Proof.Machine
end

section
/-! PROOF. LOAD CONTAINER on a row that is free to take it: the first load (R6) and the reload (R7, R8). -/

namespace Sys2Proof.Machine

theorem State.loadContainer_of_unloaded {s : State} {row : Nat} (cfg : ContainerConfig)
    (h : (s.container row).loaded = false) :
    s.loadContainer row cfg =
      accepted (s.writeContainer row (Container.firstLoad cfg)) [octet row, 0, 0, 0, 0] := by
  have hrow : (s.writeContainer row (Container.firstLoad cfg)).container row = Container.firstLoad cfg :=
    congrArg Row.data ((State.containerRow_writeContainer ..).trans (if_pos rfl))
  simp only [State.loadContainer, h, Bool.false_and, Bool.false_eq_true, if_false, hrow]
  rfl

/-- A loaded row that is neither lifting, stalled nor assigned is reloaded (R5). -/
theorem State.loadContainer_of_idle {s : State} {row : Nat} (cfg : ContainerConfig)
    (h : (s.container row).loaded = true)
    (hsvc : (s.container row).service = .inService ∨ (s.container row).service = .outOfService)
    (ha : (s.container row).assignment = none) :
    s.loadContainer row cfg =
      accepted (s.reload row cfg) (octet row :: ((s.reload row cfg).container row).loadReport) := by
  have hfree : ((s.container row).service = .lifting || (s.container row).service = .stalled ||
      (s.container row).assignment.isSome : Bool) = false := by
    rcases hsvc with hsvc | hsvc <;> simp [hsvc, ha]
  simp only [State.loadContainer, h, hfree, Bool.and_false, Bool.false_eq_true, if_false, if_true]

theorem reloadWork_of_estimate {cfg : ContainerConfig} {c : Container} {e : Nat}
    (h : c.cfg.sameGeometry cfg = true) (he : c.estimate = some e) :
    reloadWork cfg c =
      ({ c with cfg := cfg, fill := evaluateFill cfg c.fill e },
        fillNotice c.fill (evaluateFill cfg c.fill e) e) := by
  simp only [reloadWork, h, he, if_true, settle]

theorem reloadWork_of_absent {cfg : ContainerConfig} {c : Container}
    (h : c.cfg.sameGeometry cfg = true) (he : c.estimate = none) :
    reloadWork cfg c = ({ c with cfg := cfg }, []) := by
  simp only [reloadWork, h, he, if_true]

theorem reloadWork_of_geometry {cfg : ContainerConfig} {c : Container}
    (h : c.cfg.sameGeometry cfg = false) :
    reloadWork cfg c = ({ c with cfg := cfg, estimate := none, fill := .none, suspect := none }, []) := by
  simp only [reloadWork, h, Bool.false_eq_true, if_false]

/-- LOAD CONTAINER on entries that read good and ranges that are met (R5). -/
theorem containerLoadRequest_of_good {s : State} {row : Octet} {fields : List Octet}
    {cfg : ContainerConfig} {grant : Octet} {e : Station}
    (hp : parseConfig fields = some (cfg, grant)) (hgrant : grant.toNat ≤ 1) (hin : cfg.inRange = true)
    (hstream : (s.streamRow cfg.stream).bad = false) (hsl : (s.streamRow cfg.stream).data.loaded = true)
    (hst : s.stationRow (rowStation row.toNat) = Row.good e) (hel : e.loaded = true)
    (hslot : rowSlot row.toNat < e.count) (hgood : (s.containerRow row.toNat).bad = false) :
    containerLoadRequest (row :: 0 :: fields) s = s.loadContainer row.toNat cfg := by
  rw [containerLoadRequest_of_parse hp, if_pos ⟨hin, hgrant⟩, State.loadOfStream_of_good hstream,
    if_pos hsl, State.loadUnderStation_of_good hst hgood, if_pos ⟨hel, hslot⟩]

/-- What a telling leaves of the row (R94): all but the join sequence. -/
theorem State.tell_container (s : State) (row : Nat) (was : Container) :
    ∃ q, (s.tell row was).container row = { s.container row with joinSeq := q } := by
  obtain ⟨l, j, n, p, q, h | h⟩ := s.tell_eq row was
  · rw [h]
    exact ⟨q, congrArg Row.data ((State.containerRow_editContainer ..).trans (if_pos rfl))⟩
  · rw [h]
    exact ⟨(s.container row).joinSeq, rfl⟩

theorem State.foldl_raise_container (rs : List Raised) (s : State) (row r : Nat) :
    (s.raiseAll row rs).container r = s.container r := by
  unfold State.raiseAll
  induction rs generalizing s with
  | nil => rfl
  | cons x xs ih => exact (ih _).trans (State.raise_container ..)

/-- The report of a reload is that of the entry it wrote (R5). -/
theorem State.loadReport_of_told (s : State) (row : Nat) (c was : Container) (rs : List Raised) :
    ((((s.writeContainer row c).raiseAll row rs).tell row was).container row).loadReport =
      c.loadReport := by
  obtain ⟨q, hq⟩ := ((s.writeContainer row c).raiseAll row rs).tell_container row was
  have hrow : ((s.writeContainer row c).raiseAll row rs).container row = c :=
    (State.foldl_raise_container ..).trans
      (congrArg Row.data ((State.containerRow_writeContainer ..).trans (if_pos rfl)))
  rw [hq, hrow]
  rfl

/-- Settles O24: a row not loaded is written afresh, one that is loaded and idle is reloaded. -/
theorem loadContainerWritesEntry : Obligations.LoadContainerWritesEntry := by
  unfold Obligations.LoadContainerWritesEntry
  refine ⟨fun s tag row fields cfg grant e hs h hp hgrant hin hstream hsl hst hel hslot hgood hl => ?first,
    fun s tag row fields cfg grant e h hp hgrant hin hstream hsl hst hel hslot hgood hl hsvc ha hheld => ?reload⟩
  case first =>
    have hr := (containerLoadRequest_of_good hp hgrant hin (congrArg Row.bad hstream) hsl hst hel hslot
      hgood).trans (State.loadContainer_of_unloaded cfg hl)
    rw [octet_toNat] at hr
    refine ⟨_, exec_loadContainerLoad_of_carries h (actionIs_self ..) hr hs, fun r => ?_, rfl⟩
    exact (State.replied_containerRow ..).trans (State.containerRow_writeContainer ..)
  case reload =>
    have hr := (containerLoadRequest_of_good hp hgrant hin hstream hsl hst hel hslot hgood).trans
      (State.loadContainer_of_idle cfg hl hsvc ha)
    intro k same base fill notes after
    have hbase : s.releaseAt row.toNat = base := by
      show s.releaseAt row.toNat = match s.depositAt row.toNat with
        | some d => s.returned d
        | none => s
      cases hd : s.depositAt row.toNat with
      | none => exact State.releaseAt_of_none hd
      | some d => exact State.releaseAt_of_holds hd (hheld d hd)
    have hentry : base.container row.toNat =
        { k with hasPending := k.hasPending && (s.depositAt row.toNat).isNone } := by
      rw [← hbase]
      exact congrArg Row.data ((s.releaseAt_containerRow ..).trans (if_pos rfl))
    have hwork : reloadWork cfg (base.container row.toNat) = (after, notes) := by
      rw [hentry]
      let c : Container := { k with hasPending := k.hasPending && (s.depositAt row.toNat).isNone }
      have hgeometry : same = k.cfg.sameGeometry cfg := rfl
      by_cases hsame : k.cfg.sameGeometry cfg = true
      · rcases Option.eq_none_or_eq_some k.estimate with he | ⟨x, he⟩
        · refine (reloadWork_of_absent (c := c) hsame he).trans ?_
          simp only [c, after, notes, fill, hgeometry, hsame, he, if_true]
        · refine (reloadWork_of_estimate (c := c) hsame he).trans ?_
          simp only [c, after, notes, fill, hgeometry, hsame, he, if_true]
      · rw [Bool.not_eq_true] at hsame
        refine (reloadWork_of_geometry (c := c) hsame).trans ?_
        simp only [c, after, notes, fill, hgeometry, hsame, Bool.false_eq_true, if_false]
    have hreload : s.reload row.toNat cfg =
        ((base.writeContainer row.toNat after).raiseAll row.toNat notes).tell row.toNat k := by
      unfold State.reload State.applyWork
      rw [hbase, hwork]
    rw [hreload, State.loadReport_of_told, octet_toNat] at hr
    have hreport : after.loadReport = match after.estimate with
        | some x => 1 :: (be16 x ++ [fill.code])
        | none => [0, 0, 0, 0] := by
      show optional 3 (after.estimate.map fun x => be16 x ++ [fill.code]) = _
      cases after.estimate <;> rfl
    rw [hreport] at hr
    exact congrArg _ (congrArg State.endEvent (State.serve_answers h (actionIs_self ..) hr))

end Sys2Proof.Machine
end

section
/-! PROOF. What a command is made of, as the laws of the part see it: small moves, each with what it keeps of
the one segment, row, deposit or ticket it touches. The rounds are the moves of the containers and the
Dispatch Unit; the asides are all others. A law holds after every command once it holds after every move. -/

namespace Sys2Proof.Machine

/-! ### Where in an event a move stands -/

/-- Where in an event a state stands: between events, where no pass is due (R99); within one; or within one
with the place of a row in the Emptying Request list still to be found (R94). -/
inductive Phase where
  | between
  | within
  | placing (row : Nat)

/-! ### What a move keeps of what it touches -/

/-- A segment that is UP as before, with its configure list, and within its laws where it was. A window or a
POLL is that of a station it had, or of one of its own. -/
structure Segment.Kept (g : Seg) (x y : Segment) : Prop where
  up : y.state = .up ↔ x.state = .up
  cfgList : y.cfgList = x.cfgList
  relays : x.relays.length ≤ 8 → y.relays.length ≤ 8
  poll : x.pollLaw = true → y.pollLaw = true
  window : ∀ w, y.window = some w →
    (∃ v, x.window = some v ∧ v.addr = w.addr) ∨ x.pollOut = some w.addr
  pollOut : ∀ a, y.pollOut = some a → x.pollOut = some a ∨ a ∈ segAddrs g

/-- A Station Entry that stands as it did (R146, R148). -/
structure Station.Alike (e f : Station) : Prop where
  state : f.state = e.state
  awaiting : f.awaiting = e.awaiting
  loaded : f.loaded = e.loaded

/-- An entry off the configure list, in a state it may have from the row as it was and the segment's state
(R147, R148, R156). -/
def Station.Unlisted (seg : SegState) (e : Row Station) (f : Station) : Prop :=
  f.awaiting = false ∧
    ((e.bad = false ∧ f.state = e.data.state ∧ f.loaded = e.data.loaded) ∨
      (e.bad = false ∧ f.state = .silent ∧ e.data.state ≠ .absent ∧ f.loaded = e.data.loaded) ∨
      (f.state = .unconfigured ∧ f.loaded = true) ∨
      (f.state = .cutOff ∧ f.loaded = true ∧ seg = .down) ∨
      (f.state = .absent ∧ f.loaded = false))

/-- A Container Entry within its law where it was, assigned as it was, or none where it was not loaded
(R17). -/
structure Container.Changed (c k : Container) : Prop where
  law : c.law → k.law
  assignment : (k.assignment = c.assignment ∧ (k.loaded = c.loaded ∨ k.assignment = none)) ∨
    (c.loaded = false ∧ k.assignment = none)

/-- A row the Container Table has not stays as it is. -/
def rowStays (row : Nat) (r r' : Row Container) : Prop :=
  256 ≤ row → r = Row.good Container.unloaded → r' = Row.good Container.unloaded

/-- A container taken out of the system: its PLANNED stop is SKIPPED, its row written and taken from the list
(R15, R105). -/
def State.discharge (s : State) (row : Nat) (r : Row Container) : State :=
  ((s.skipStop row (s.assignedSlot row)).putContainer row r).leaveList row

/-- The Journal's law, of the Journal alone (R84, R85). -/
def Journal.lawful (j : Journal) : Prop :=
  j.nextSlot < 1024 ∧ ∀ i r, j.records[i]? = some r → r.bad = false →
    r.data.seq = j.counter - BitVec.ofNat 32 (j.records.length - 1 - i)

/-- A record appended to the Journal (R85). -/
def Journal.append (j : Journal) (x : JournalRecord) : Journal :=
  { records := j.records ++ [Row.good x], counter := j.counter + 1, nextSlot := (j.nextSlot + 1) % 1024 }

/-! ### What may be assumed of the state -/

/-- No container row has two deposits (R73). -/
abbrev State.depositsApart (s : State) : Prop := (s.deposits.map (·.row)).Nodup

/-- A segment polls and hears stations of its own alone. -/
abbrev State.windowsOwn (s : State) : Prop :=
  ∀ g, (∀ w, (s.seg g).window = some w → w.addr ∈ segAddrs g) ∧
    ∀ a, (s.seg g).pollOut = some a → a ∈ segAddrs g

/-- Which parts of the laws a proof about moves has as premises: each law brings its own. -/
structure Premises where
  /-- windows and POLLs are of stations of their segment -/
  own : Prop
  /-- no row has two deposits -/
  apart : Prop
  /-- no row is in the Emptying Request list twice -/
  once : Prop

/-- The premises hold of a state. -/
structure Premises.Hold (A : Premises) (s : State) : Prop where
  own : A.own → s.windowsOwn
  apart : A.apart → s.depositsApart
  once : A.once → s.dispatch.list.Nodup

/-! ### The moves -/

/-- A move that touches neither a container, nor a ticket, nor the Dispatch Unit. -/
inductive Aside (A : Premises) (s : State) : State → Prop
  | outside (window : Row VisitorWindow) (params : Params) (seconds : Word32)
      (clock : Option Clock) (capture : Option CapturedFault) :
      Aside A s { s with window := window, params := params, seconds := seconds, clock := clock,
                         capture := capture }
  | link (f : Link → Link)
      (hrequests : s.link.requests.length ≤ 4 → (f s.link).requests.length ≤ 4)
      (hrelays : s.link.relays.length ≤ 16 → (f s.link).relays.length ≤ 16) : Aside A s (s.editLink f)
  | mgmt (f : Management → Management) : Aside A s (s.editMgmt f)
  | notices (f : NoticeUnit → NoticeUnit)
      (h : s.notices.queue.length ≤ 64 → (f s.notices).queue.length ≤ 64) : Aside A s (s.editNotices f)
  | stream (code : Nat) (r : Row StreamEntry) : Aside A s (s.putStream code r)
  | series (n : Nat) (r : Row SeriesEntry) : Aside A s (s.putSeries n r)
  | kind (k : Nat) (r : Row Nat) : Aside A s (s.putKind k r)
  | segment (g : Seg) (f : Segment → Segment) (h : Segment.Kept g (s.seg g) (f (s.seg g))) :
      Aside A s (s.editSeg g f)
  | station (addr : Nat) (r : Row Station)
      (h : r.bad = false → (s.stationRow addr).bad = false ∧ Station.Alike (s.station addr) r.data) :
      Aside A s (s.putStation addr r)
  /-- a station becomes CONFIGURING, or, not awaiting a CONFIGURE, IN SERVICE or SILENT -/
  | stationState (addr : Nat) (f : Station → Station)
      (hstate : (f (s.station addr)).state = .configuring ∨ (s.station addr).awaiting = false ∧
        ((f (s.station addr)).state = .silent ∨
          (f (s.station addr)).state = .inService ∧ (A.own → (s.seg (segOf addr)).state = .up)))
      (hloaded : (f (s.station addr)).loaded = (s.station addr).loaded)
      (hawaiting : (f (s.station addr)).awaiting = (s.station addr).awaiting)
      (hpresent : (s.station addr).state ≠ .absent) : Aside A s (s.editStation addr f)
  | join (addr : Nat) (h : (s.station addr).state = .configuring)
      (haddr : A.own → 1 ≤ addr ∧ addr ≤ 64) : Aside A s (s.joinConfigure addr)
  | unlist (addr : Nat) (r : Row Station)
      (h : r.bad = false → Station.Unlisted (s.seg (segOf addr)).state (s.stationRow addr) r.data) :
      Aside A s ((s.leaveConfigure addr).putStation addr r)
  /-- a segment that is not transmitting goes DOWN -/
  | goDown (g : Seg) (h : (s.seg g).pollOut = none) :
      Aside A s ((s.editSeg g Segment.goDown).editSegStations g Station.cut)
  /-- a segment is restored -/
  | comeUp (g : Seg) (h : (s.seg g).state = .restoring) :
      Aside A s ((s.editSeg g fun x =>
        { x with state := .up, quietRestore := false }).editSegStations g Station.uncut)
  | card (row : Nat) (r : Row CardRow)
      (h : r.bad = false → r.data.reserved = unitsNaming s.deposits row ∨
        (s.cardRow row).bad = false ∧ r.data.reserved = (s.card row).reserved) :
      Aside A s (s.putCard row r)
  | journal (f : Journal → Journal)
      (hlength : (f s.journal).records.length ≤ s.journal.records.length)
      (hlaw : s.journal.lawful → (f s.journal).lawful) : Aside A s (s.editJournal f)
  /-- a deposit is granted (R71) -/
  | grant (d : Deposit) (c : CardRow) (hcard : (s.cardRow d.cardRow).bad = false)
      (hc : c.reserved = (s.card d.cardRow).reserved + d.units) (hroom : s.deposits.length < 32)
      (hnew : A.apart → ∀ x ∈ s.deposits, x.row ≠ d.row)
      (hcharged : d.charged = true → s.journal.records.length + chargedPending s.deposits < 1024) :
      Aside A s ((s.editDeposits fun ds => ds ++ [d]).writeCard d.cardRow c)
  /-- a deposit is released, or committed with its record (R48, R75, R81) -/
  | conclude (d : Deposit) (c : CardRow) (j : Journal)
      (hcard : (s.cardRow d.cardRow).bad = false)
      (hc : c.reserved = lowerReserved (s.card d.cardRow).reserved d.units) (hheld : d ∈ s.deposits)
      (hj : j = s.journal ∨ d.charged = true ∧
        ∃ x, x.seq = s.journal.counter + 1 ∧ j = s.journal.append x) :
      Aside A s (({ s with journal := j }.writeCard d.cardRow c).removeDeposit d.row)

/-- A move of the containers, the tickets and the Dispatch Unit. -/
inductive Round (A : Premises) (s : State) : Phase → Phase → State → Prop
  /-- an event begins -/
  | start : Round A s .between .within s
  /-- a row's place in the list becomes open -/
  | takeUp (row : Nat) : Round A s .within (.placing row) s
  /-- an event has come to its end -/
  | rest (h : s.dispatch.passDue = false) : Round A s .within .between s
  | container {p : Phase} (row : Nat) (r : Row Container)
      (hbad : r.bad = (s.containerRow row).bad) (h : Container.Changed (s.container row) r.data)
      (heligible : r.data.eligible = (s.container row).eligible)
      (hrow : rowStays row (s.containerRow row) r) : Round A s p p (s.putContainer row r)
  /-- a row is found upset -/
  | upset {p : Phase} (row : Nat) (c : Container) (h : row < 256) :
      Round A s p p (s.putContainer row { data := c, bad := true })
  /-- an entry is written whose row's place is open -/
  | change (row : Nat) (r : Row Container) (hbad : r.bad = (s.containerRow row).bad)
      (h : Container.Changed (s.container row) r.data) (hrow : rowStays row (s.containerRow row) r) :
      Round A s (.placing row) (.placing row) (s.putContainer row r)
  | leave (row slot : Nat) (st : StopStatus) (mass : Option Nat) (hst : st ≠ .planned)
      (hgood : (s.containerRow row).bad = false) (h : (s.container row).assignment = some slot) :
      Round A s (.placing row) (.placing row) (s.leavePlanned row slot st mass)
  | tell (row : Nat) (was : Container) : Round A s (.placing row) .within (s.tell row was)
  | discharge (row : Nat) (r : Row Container) (hlaw : r.data.law)
      (ha : r.data.assignment = none) (he : r.data.eligible = false)
      (hrow : rowStays row (s.containerRow row) r) :
      Round A s .within .within (s.discharge row r)
  /-- a container of the list is assigned to the current ticket (R100) -/
  | assign (row vol : Nat) (hrun : s.running = true)
      (hgood : (s.containerRow row).bad = false) (hlist : A.once → row ∈ s.dispatch.list)
      (hvol : vol ≤ s.currentTicket.remaining)
      (hstops : s.currentTicket.stops.length < s.currentTicket.maxStops) :
      Round A s .within .within (s.assign row vol)
  | handBack (cause : HandBackCause) (hrun : s.running = true) :
      Round A s .within .within (s.handBack cause)
  | recalled (slot : Nat) (hslot : slot < 16)
      (h : (s.ticket slot).state = .opened ∨ (s.ticket slot).state = .handed) :
      Round A s .within .within (s.recall slot)
  | give (k : Ticket) (hfree : (s.ticket s.dispatch.fillIndex).state = .free)
      (hstate : k.state = .opened) (hstops : k.stops = []) (hrem : k.remaining = k.capacity) :
      Round A s .within .within (if !s.running then (s.placed k).becomeCurrent else s.placed k)
  | retire {p : Phase} (slot : Nat) (h : (s.ticket slot).state = .complete) :
      Round A s p p (s.putTicket slot Ticket.free)
  /-- a pass that was due is taken up, or is not kept -/
  | passTaken :
      Round A s .within .within (s.editDispatch fun x => { x with passDue := false })

/-- One move. -/
inductive Move (A : Premises) : Phase → State → Phase → State → Prop
  | aside {s t : State} (p : Phase) (h : Aside A s t) : Move A p s p t
  | round {p q : Phase} {s t : State} (h : Round A s p q t) : Move A p s q t

/-- Moves one behind the other. -/
def Moves (A : Premises) (p : Phase) (s : State) (q : Phase) (t : State) : Prop :=
  Relation.ReflTransGen (fun x y : Phase × State => Move A x.1 x.2 y.1 y.2) (p, s) (q, t)

namespace Moves

variable {A : Premises} {p q r : Phase} {s t u : State}

theorem refl (p : Phase) (s : State) : Moves A p s p s := Relation.ReflTransGen.refl

theorem of_move (h : Move A p s q t) : Moves A p s q t := Relation.ReflTransGen.single h

theorem of_aside (h : Aside A s t) : Moves A p s p t := of_move (.aside p h)

theorem of_round (h : Round A s p q t) : Moves A p s q t := of_move (.round h)

theorem trans (h : Moves A p s q t) (k : Moves A q t r u) : Moves A p s r u :=
  Relation.ReflTransGen.trans h k

/-- Moves that come out at a state under another name. -/
theorem congr (h : Moves A p s q t) (he : t = u) : Moves A p s q u := he ▸ h

/-- What every move keeps is kept by moves one behind the other. -/
theorem keeps {P : Phase → State → Prop} (hP : ∀ {p s q t}, Move A p s q t → P p s → P q t)
    (h : Moves A p s q t) (hs : P p s) : P q t := by
  have hall : ∀ x : Phase × State,
      Relation.ReflTransGen (fun x y : Phase × State => Move A x.1 x.2 y.1 y.2) (p, s) x → P x.1 x.2 := by
    intro x hx
    induction hx with
    | refl => exact hs
    | tail _ hmove ih => exact hP hmove ih
  exact hall (q, t) h

/-- Work on the items of a list, one by one. -/
theorem foldl {α : Type} {f : State → α → State} (hf : ∀ (x : State) a, Moves A p x p (f x a))
    (l : List α) (s : State) : Moves A p s p (l.foldl f s) := by
  induction l generalizing s with
  | nil => exact refl p s
  | cons a l ih => exact (hf s a).trans (ih (f s a))

end Moves

/-! ### Asides leave the dispatch alone, and rounds all else -/

/-- An aside leaves the containers, the tickets and the Dispatch Unit. -/
theorem Aside.unturned {A : Premises} {s t : State} (h : Aside A s t) :
    t.containers = s.containers ∧ t.tickets = s.tickets ∧ t.dispatch = s.dispatch := by
  cases h with
  | goDown g h =>
    have hframe := (s.editSeg g Segment.goDown).editSegStations_restored g Station.cut
    exact ⟨(congrArg State.containers hframe :).trans (State.editSeg_containers ..),
      (congrArg State.tickets hframe :).trans (State.editSeg_tickets ..),
      (congrArg State.dispatch hframe :).trans (State.editSeg_dispatch ..)⟩
  | comeUp g h =>
    have hframe := (s.editSeg g fun x =>
      { x with state := .up, quietRestore := false }).editSegStations_restored g Station.uncut
    exact ⟨(congrArg State.containers hframe :).trans (State.editSeg_containers ..),
      (congrArg State.tickets hframe :).trans (State.editSeg_tickets ..),
      (congrArg State.dispatch hframe :).trans (State.editSeg_dispatch ..)⟩
  | segment g f h => exact ⟨State.editSeg_containers .., State.editSeg_tickets .., State.editSeg_dispatch ..⟩
  | join addr h haddr =>
    exact ⟨State.editSeg_containers .., State.editSeg_tickets .., State.editSeg_dispatch ..⟩
  | unlist addr r h =>
    exact ⟨State.editSeg_containers .., State.editSeg_tickets .., State.editSeg_dispatch ..⟩
  | outside | link | mgmt | notices | stream | series | kind | station | stationState | card | journal |
      grant | conclude => exact ⟨rfl, rfl, rfl⟩

/-- `t` came from `s` by work on containers, tickets and the Dispatch Unit, with its notices. -/
def State.Turned (s t : State) : Prop :=
  { t with containers := s.containers, tickets := s.tickets, dispatch := s.dispatch,
           notices := s.notices } = s

namespace State.Turned

variable {s t u : State}

theorem refl (s : State) : s.Turned s := rfl

theorem trans (h : s.Turned t) (k : t.Turned u) : s.Turned u :=
  (congrArg (fun x : State => { x with containers := s.containers, tickets := s.tickets,
                                       dispatch := s.dispatch, notices := s.notices }) k :).trans h

theorem tell (s : State) (row : Nat) (was : Container) : s.Turned (s.tell row was) := by
  obtain ⟨l, j, n, p, q, h | h⟩ := s.tell_eq row was <;> rw [h] <;> rfl

theorem skipStop (s : State) (row : Nat) (slot : Option Nat) : s.Turned (s.skipStop row slot) :=
  (congrArg (fun x : State => { x with dispatch := s.dispatch }) (s.skipStop_restored row slot) :)

theorem leavePlanned (s : State) (row slot : Nat) (st : StopStatus) (mass : Option Nat) :
    s.Turned (s.leavePlanned row slot st mass) := by
  rw [State.leavePlanned_eq]
  exact (congrArg (fun x : State => { x with containers := s.containers, tickets := s.tickets,
                                             dispatch := s.dispatch })
    (s.toldStopEnd_restored row slot st mass) :)

theorem discharge (s : State) (row : Nat) (r : Row Container) : s.Turned (s.discharge row r) :=
  (skipStop s row (s.assignedSlot row)).trans (t := s.skipStop row (s.assignedSlot row)) rfl

theorem advance (fuel : Nat) (s : State) : s.Turned (State.advance fuel s) := by
  induction fuel generalizing s with
  | zero => exact refl s
  | succ fuel ih =>
    unfold State.advance
    dsimp only
    split_ifs
    · rfl
    · rfl
    · exact trans (t := s.editDispatch fun x =>
        { x with dispatchIndex := (s.dispatch.dispatchIndex + 1) % 16 }) rfl (ih _)

theorem putTicket (s : State) (slot : Nat) (k : Ticket) : s.Turned (s.putTicket slot k) := rfl

theorem raise (s : State) (k : NoticeKind) (a : Nat) (x : List Octet) : s.Turned (s.raise k a x) := rfl

theorem completeTicket (s : State) (slot : Nat) : s.Turned (s.completeTicket slot) :=
  (putTicket s slot _).trans (raise _ ..)

theorem becomeCurrent (s : State) : s.Turned s.becomeCurrent := rfl

theorem placed (s : State) (k : Ticket) : s.Turned (s.placed k) := rfl

theorem handBack (s : State) (cause : HandBackCause) : s.Turned (s.handBack cause) := by
  unfold State.handBack
  dsimp only
  split_ifs
  · exact ((putTicket s _ _).trans (raise _ ..)).trans (advance 16 _)
  · exact (((putTicket s _ _).trans (raise _ ..)).trans (completeTicket _ _)).trans (advance 16 _)

theorem foldl {α : Type} {f : State → α → State} (hf : ∀ (x : State) a, x.Turned (f x a)) (l : List α)
    (s : State) : s.Turned (l.foldl f s) := by
  induction l generalizing s with
  | nil => exact refl s
  | cons a l ih => exact (hf s a).trans (ih (f s a))

theorem recalled (s : State) (slot : Nat) : s.Turned (s.recall slot) := by
  have hunassign := foldl (f := State.unassign) (fun _ _ => rfl) (s.ticket slot).plannedRows s
  have htold := (hunassign.trans (putTicket _ slot (s.ticket slot).recalled)).trans
    (foldl (f := State.tellSame) (fun x row => tell x row _) (s.ticket slot).plannedRows _)
  unfold State.recall
  dsimp only
  split_ifs
  · exact htold.trans (advance 16 _)
  · exact htold

end State.Turned

/-- A round leaves all but the containers, the tickets, the Dispatch Unit and the notices. -/
theorem Round.turned {A : Premises} {p q : Phase} {s t : State} (h : Round A s p q t) : s.Turned t := by
  cases h with
  | start | takeUp | rest | container | upset | change | assign | retire | passTaken => rfl
  | leave row slot st mass => exact .leavePlanned s row slot st mass
  | tell row was => exact .tell s row was
  | discharge row r => exact .discharge s row r
  | handBack cause => exact .handBack s cause
  | recalled slot => exact .recalled s slot
  | give k =>
    split_ifs
    · exact (State.Turned.placed s k).trans (.becomeCurrent _)
    · exact .placed s k

/-- A round keeps the Notice Queue within 64 notices, and the tables canonical. -/
theorem Round.yields {A : Premises} {p q : Phase} {s t : State} (h : Round A s p q t) : s.Yields t := by
  cases h with
  | start | takeUp | rest => exact .refl s
  | container row r => exact .putContainer s row r
  | upset row c => exact .putContainer s row _
  | change row r => exact .putContainer s row r
  | leave row slot st mass => exact .leavePlanned s row slot st mass
  | tell row was => exact .tell s row was
  | discharge row r =>
    unfold State.discharge State.leaveList
    exact ((State.Yields.skipStop s row _).trans (.putContainer _ row r)).trans (.editDispatch _ _)
  | assign row vol => exact .assign s row vol
  | handBack cause => exact .handBack s cause
  | recalled slot =>
    have hunassign := State.Yields.foldl (f := State.unassign) (fun x row => .editContainer x row _)
      (s.ticket slot).plannedRows s
    have htold := (hunassign.trans (.putTicket _ slot (s.ticket slot).recalled)).trans
      (.foldl (f := State.tellSame) (fun x row => .tell x row _) (s.ticket slot).plannedRows _)
    unfold State.recall
    dsimp only
    split_ifs
    · exact htold.trans (.advance 16 _)
    · exact htold
  | give k =>
    have hplaced : s.Yields (s.placed k) :=
      (State.Yields.editDispatch s fun x => { x with fillIndex := (s.dispatch.fillIndex + 1) % 16 }).trans
        (.putTicket _ s.dispatch.fillIndex k)
    split_ifs
    · exact hplaced.trans (.becomeCurrent _)
    · exact hplaced
  | retire slot => exact .putTicket s slot _
  | passTaken => exact .editDispatch s _

end Sys2Proof.Machine
end

section
/-! PROOF. The Emptying Request list and the indices of the Dispatch Unit under the rounds, and that the
premises of the moves, once they hold, go on to hold. -/

namespace Sys2Proof.Machine

/-! ### The list under a telling -/

/-- A row placed is in the list, and no other comes or goes (R93). -/
theorem State.mem_place {s : State} {row r : Nat} {l : List Nat} : r ∈ s.place row l ↔ r = row ∨ r ∈ l :=
  (s.place_perm row l).mem_iff.trans List.mem_cons

theorem State.nodup_place {s : State} {row : Nat} {l : List Nat} (h : l.Nodup) (hrow : row ∉ l) :
    (s.place row l).Nodup := (s.place_perm row l).nodup_iff.2 (List.nodup_cons.2 ⟨hrow, h⟩)

/-- After a re-listing the row is in the list exactly where it is eligible, and no other row comes or goes
(R94). -/
theorem State.mem_relist_list (s : State) (row r : Nat) (was : Container) :
    r ∈ (s.relist row was).dispatch.list ↔
      if r = row then (s.container row).eligible = true else r ∈ s.dispatch.list := by
  have hleft : r ∈ (s.leaveList row).dispatch.list ↔ r ∈ s.dispatch.list ∧ r ≠ row := by
    simp [State.leaveList, State.editDispatch]
  have hmoved : r ∈ (s.moveInList row).dispatch.list ↔ r = row ∨ r ∈ s.dispatch.list ∧ r ≠ row := by
    rw [← hleft]
    exact State.mem_place
  have hjoined : r ∈ ((s.joinList row).makePassDue).dispatch.list ↔ r = row ∨ r ∈ s.dispatch.list :=
    State.mem_place
  unfold State.relist
  dsimp only
  by_cases hm : row ∈ s.dispatch.list <;> by_cases he : (s.container row).eligible = true
  · rw [if_pos hm, if_pos he]
    split_ifs
    · simp_all
    · simp_all
    · simp_all
    · simp_all
  · rw [if_pos hm, if_neg he, hleft]
    split_ifs <;> simp_all
  · rw [if_neg hm, if_pos he, hjoined]
    split_ifs <;> simp_all
  · rw [if_neg hm, if_neg he]
    split_ifs <;> simp_all

theorem State.relist_list_nodup {s : State} (h : s.dispatch.list.Nodup) (row : Nat) (was : Container) :
    (s.relist row was).dispatch.list.Nodup := by
  have hleft : (s.leaveList row).dispatch.list.Nodup := h.filter _
  unfold State.relist
  dsimp only
  split_ifs with hm
  · exact h
  · exact State.nodup_place hleft (by simp [State.leaveList, State.editDispatch])
  · exact hleft
  · exact State.nodup_place h hm
  · exact h

theorem State.mem_tell_list (s : State) (row r : Nat) (was : Container) :
    r ∈ (s.tell row was).dispatch.list ↔
      if r = row then (s.container row).eligible = true else r ∈ s.dispatch.list := by
  obtain ⟨n, hn⟩ := s.countMissedFull_eq row was
  unfold State.tell
  rw [hn]
  exact (s.editDispatch fun x => { x with missedFull := n }).mem_relist_list row r was

theorem State.tell_list_nodup {s : State} (h : s.dispatch.list.Nodup) (row : Nat) (was : Container) :
    (s.tell row was).dispatch.list.Nodup := by
  obtain ⟨n, hn⟩ := s.countMissedFull_eq row was
  unfold State.tell
  rw [hn]
  exact State.relist_list_nodup (s := s.editDispatch fun x => { x with missedFull := n }) h row was

/-- The ring and its indices are no matter of a telling (R94, R95). -/
theorem State.tell_ring (s : State) (row : Nat) (was : Container) :
    (s.tell row was).tickets = s.tickets ∧
      (s.tell row was).dispatch.fillIndex = s.dispatch.fillIndex ∧
      (s.tell row was).dispatch.dispatchIndex = s.dispatch.dispatchIndex := by
  obtain ⟨l, j, n, p, q, h | h⟩ := s.tell_eq row was <;> rw [h] <;> exact ⟨rfl, rfl, rfl⟩

/-- A telling leaves all of the entries but the join sequence of the row (R93). -/
theorem State.tell_containerRow (s : State) (row : Nat) (was : Container) :
    ∃ q, ∀ r, (s.tell row was).containerRow r =
      if r = row then { data := { s.container row with joinSeq := q }, bad := (s.containerRow row).bad }
      else s.containerRow r := by
  obtain ⟨l, j, n, p, q, h | h⟩ := s.tell_eq row was
  · rw [h]
    exact ⟨q, fun r => State.containerRow_editContainer ..⟩
  · rw [h]
    refine ⟨(s.container row).joinSeq, fun r => ?_⟩
    split_ifs with hr
    · rw [hr]
      rfl
    · rfl

/-! ### The Dispatch Unit under the other rounds -/

theorem State.leavePlanned_dispatch (s : State) (row slot : Nat) (st : StopStatus) (mass : Option Nat) :
    (s.leavePlanned row slot st mass).dispatch = s.dispatch := by
  rw [State.leavePlanned_eq]
  exact (congrArg State.dispatch (s.toldStopEnd_restored row slot st mass) :)

theorem State.discharge_dispatch (s : State) (row : Nat) (r : Row Container) :
    (s.discharge row r).dispatch = { s.dispatch with list := s.dispatch.list.filter (· ≠ row) } :=
  congrArg (fun x : Dispatch => { x with list := x.list.filter (· ≠ row) })
    (congrArg State.dispatch (s.skipStop_restored row (s.assignedSlot row)) :)

/-- The advance moves the dispatch index, and may make a pass due (R97). -/
theorem State.advance_dispatch (fuel : Nat) (s : State) :
    ∃ n p, (State.advance fuel s).dispatch = { s.dispatch with dispatchIndex := n, passDue := p } := by
  induction fuel generalizing s with
  | zero => exact ⟨_, _, rfl⟩
  | succ fuel ih =>
    unfold State.advance
    dsimp only
    split_ifs
    · exact ⟨_, _, rfl⟩
    · exact ⟨_, s.dispatch.passDue, rfl⟩
    · exact ih _

theorem State.handBack_dispatch (s : State) (cause : HandBackCause) :
    ∃ n p, (s.handBack cause).dispatch = { s.dispatch with dispatchIndex := n, passDue := p } := by
  obtain ⟨u, hadvance, -, hframe⟩ := s.handBack_eq_advance cause
  have htold : (s.toldHandBack cause).dispatch = s.dispatch := by
    unfold State.toldHandBack
    dsimp only
    split_ifs <;> rfl
  have hu : u.dispatch = s.dispatch := (congrArg State.dispatch hframe :).trans htold
  rw [hadvance, ← hu]
  exact State.advance_dispatch 16 u

/-- Every telling in turn leaves no row in the list twice. -/
theorem State.foldl_tellSame_nodup (rows : List Nat) {s : State} (h : s.dispatch.list.Nodup) :
    (rows.foldl State.tellSame s).dispatch.list.Nodup := by
  induction rows generalizing s with
  | nil => exact h
  | cons row rows ih => exact ih (State.tell_list_nodup h row _)

theorem State.recall_list_nodup {s : State} (h : s.dispatch.list.Nodup) (slot : Nat) :
    (s.recall slot).dispatch.list.Nodup := by
  have hun (rows : List Nat) (x : State) : (rows.foldl State.unassign x).dispatch = x.dispatch := by
    induction rows generalizing x with
    | nil => rfl
    | cons row rows ih => exact ih _
  have htold : ((s.ticket slot).plannedRows.foldl State.tellSame
      (((s.ticket slot).plannedRows.foldl State.unassign s).putTicket slot
        (s.ticket slot).recalled)).dispatch.list.Nodup := by
    refine State.foldl_tellSame_nodup _ ?_
    rw [State.putTicket_dispatch, hun]
    exact h
  unfold State.recall
  dsimp only
  split_ifs
  · obtain ⟨n, p, hd⟩ := State.advance_dispatch 16 _
    rw [hd]
    exact htold
  · exact htold

/-! ### The premises go on to hold -/

@[simp] theorem State.editSegStations_deposits (s : State) (g : Seg) (f : Station → Station) :
    (s.editSegStations g f).deposits = s.deposits :=
  (congrArg State.deposits (s.editSegStations_restored g f) :)

/-- No round puts a row in the list twice (R92). -/
theorem Round.list_nodup {A : Premises} {p q : Phase} {s t : State} (h : Round A s p q t)
    (hs : s.dispatch.list.Nodup) : t.dispatch.list.Nodup := by
  cases h with
  | start | takeUp | rest | container | upset | change | retire | passTaken => exact hs
  | leave row slot st mass =>
    rw [State.leavePlanned_dispatch]
    exact hs
  | tell row was => exact State.tell_list_nodup hs row was
  | discharge row r =>
    rw [State.discharge_dispatch]
    exact hs.filter _
  | assign row vol => exact hs.filter _
  | handBack cause =>
    obtain ⟨n, due, hd⟩ := s.handBack_dispatch cause
    rw [hd]
    exact hs
  | recalled slot => exact State.recall_list_nodup hs slot
  | give k =>
    split_ifs
    · exact hs
    · exact hs

/-- An aside leaves the deposits, but for a grant and the end of one. -/
theorem Aside.depositsApart {A : Premises} {s t : State} (h : Aside A s t) (hA : A.apart)
    (hs : s.depositsApart) : t.depositsApart := by
  cases h with
  | outside | link | mgmt | notices | stream | series | kind | station | stationState | card | journal =>
    exact hs
  | segment g f h =>
    rw [State.depositsApart, State.editSeg_deposits]
    exact hs
  | join addr h haddr =>
    rw [State.depositsApart, State.joinConfigure, State.editStation, State.putStation_deposits, State.editSeg_deposits]
    exact hs
  | unlist addr r h =>
    rw [State.depositsApart, State.putStation_deposits, State.leaveConfigure, State.editSeg_deposits]
    exact hs
  | goDown g h =>
    rw [State.depositsApart, State.editSegStations_deposits, State.editSeg_deposits]
    exact hs
  | comeUp g h =>
    rw [State.depositsApart, State.editSegStations_deposits, State.editSeg_deposits]
    exact hs
  | grant d c hcard hc hroom hnew hcharged =>
    show ((s.deposits ++ [d]).map (·.row)).Nodup
    rw [List.map_append, List.nodup_append]
    refine ⟨hs, List.nodup_singleton _, fun a ha b hb => ?_⟩
    obtain ⟨x, hx, rfl⟩ := List.mem_map.1 ha
    obtain rfl := List.mem_singleton.1 hb
    exact hnew hA x hx
  | conclude d c j => exact hs.sublist (List.eraseP_sublist.map _)

/-- A segment that has no window and no POLL it had not hears its own stations still. -/
theorem State.windowsOwn_of_seg {s t : State} {g : Seg} (hs : s.windowsOwn)
    (hother : ∀ h, h ≠ g → t.seg h = s.seg h)
    (hwindow : ∀ w, (t.seg g).window = some w → w.addr ∈ segAddrs g)
    (hout : ∀ a, (t.seg g).pollOut = some a → a ∈ segAddrs g) : t.windowsOwn := by
  intro h
  by_cases hg : h = g
  · subst hg
    exact ⟨hwindow, hout⟩
  · rw [hother h hg]
    exact hs h

/-- A segment that an edit touches, and the other. -/
theorem State.windowsOwn_editSeg {s : State} {g : Seg} {f : Segment → Segment} (hs : s.windowsOwn)
    (hwindow : ∀ w, (f (s.seg g)).window = some w → w.addr ∈ segAddrs g)
    (hout : ∀ a, (f (s.seg g)).pollOut = some a → a ∈ segAddrs g) : (s.editSeg g f).windowsOwn := by
  refine State.windowsOwn_of_seg (g := g) hs (fun h hne => ?_) ?_ ?_
  · rw [State.seg_editSeg, if_neg hne]
  · rwa [State.seg_editSeg_same]
  · rwa [State.seg_editSeg_same]

theorem State.windowsOwn_congr {s t : State} (h : ∀ g, t.seg g = s.seg g) (hs : s.windowsOwn) :
    t.windowsOwn := by
  intro g
  rw [h]
  exact hs g

theorem Aside.windowsOwn {A : Premises} {s t : State} (h : Aside A s t) (hs : s.windowsOwn) :
    t.windowsOwn := by
  cases h with
  | outside | link | mgmt | notices | stream | series | kind | station | stationState | card | journal |
      grant | conclude => exact State.windowsOwn_congr (fun g => by cases g <;> rfl) hs
  | segment g f h =>
    refine State.windowsOwn_editSeg hs (fun w hw => ?_) fun a ha => ?_
    · rcases h.window w hw with ⟨v, hv, hvw⟩ | hout
      · exact hvw ▸ (hs g).1 v hv
      · exact (hs g).2 _ hout
    · exact (h.pollOut a ha).elim ((hs g).2 a) id
  | join addr h haddr =>
    refine State.windowsOwn_congr (fun g => State.editStation_seg ..) ?_
    exact State.windowsOwn_editSeg hs (hs _).1 (hs _).2
  | unlist addr r h =>
    refine State.windowsOwn_congr (fun g => State.putStation_seg ..) ?_
    exact State.windowsOwn_editSeg hs (hs _).1 (hs _).2
  | goDown g h =>
    refine State.windowsOwn_congr (fun k => State.editSegStations_seg ..) ?_
    exact State.windowsOwn_editSeg hs (fun w hw => nomatch hw) fun a ha => (hs g).2 a ha
  | comeUp g h =>
    refine State.windowsOwn_congr (fun k => State.editSegStations_seg ..) ?_
    exact State.windowsOwn_editSeg hs (hs g).1 (hs g).2

theorem Move.hold {A : Premises} {p q : Phase} {s t : State} (h : Move A p s q t) (hs : A.Hold s) :
    A.Hold t := by
  cases h with
  | aside p h =>
    obtain ⟨-, -, hdispatch⟩ := h.unturned
    exact ⟨fun ho => h.windowsOwn (hs.own ho), fun ha => h.depositsApart ha (hs.apart ha),
      fun ho => hdispatch ▸ hs.once ho⟩
  | round h =>
    have hturned := h.turned
    refine ⟨fun ho => ?_, fun ha => ?_, fun ho => h.list_nodup (hs.once ho)⟩
    · exact (congrArg State.windowsOwn hturned :) ▸ hs.own ho
    · exact (congrArg State.depositsApart hturned :) ▸ hs.apart ha

/-- Moves one behind the other, the premises of the later ones holding of the state they begin in. -/
theorem Moves.hold {A : Premises} {p q : Phase} {s t : State} (h : Moves A p s q t) (hs : A.Hold s) :
    A.Hold t := h.keeps (P := fun _ x => A.Hold x) Move.hold hs

end Sys2Proof.Machine
end

section
/-! PROOF. The shared operations as moves: notices and faults, the link and the Management Unit, segments and
stations, and cards and deposits. -/

namespace Sys2Proof.Machine

namespace Moves

variable {A : Premises} {p : Phase}

/-! ### Notices and faults -/

theorem editNotices (s : State) {f : NoticeUnit → NoticeUnit}
    (h : s.notices.queue.length ≤ 64 → (f s.notices).queue.length ≤ 64) :
    Moves A p s p (s.editNotices f) := of_aside (.notices f h)

theorem raise (s : State) (k : NoticeKind) (a : Nat) (x : List Octet) : Moves A p s p (s.raise k a x) :=
  editNotices s (f := fun u => u.join { kind := k, subject := a, payload := x, stamp := s.seconds }
    (s.after s.params.coalescing)) (NoticeUnit.length_join _ _ _)

theorem captureFault (s : State) (t : FaultTable) (row : Nat) : Moves A p s p (s.captureFault t row) :=
  of_aside (.outside s.window s.params s.seconds s.clock _)

theorem tableFault (s : State) (t : FaultTable) (row : Nat) (x : List Octet) :
    Moves A p s p (s.tableFault t row x) := (captureFault s t row).trans (raise ..)

theorem raiseAll (s : State) (row : Nat) (rs : List Raised) : Moves A p s p (s.raiseAll row rs) :=
  foldl (fun x n => raise x n.kind row n.payload) rs s

theorem readStream (s : State) (code : Nat) : Moves A p s p (s.readStream code) := by
  unfold State.readStream
  split_ifs
  · exact tableFault s ..
  · exact refl p s

/-! ### The link and the Management Unit -/

/-- An edit of the Link Controller that leaves its queues. -/
theorem editLink (s : State) {f : Link → Link} (hrequests : (f s.link).requests = s.link.requests)
    (hrelays : (f s.link).relays = s.link.relays) : Moves A p s p (s.editLink f) :=
  of_aside (.link f (fun h => hrequests ▸ h) (fun h => hrelays ▸ h))

theorem editMgmt (s : State) (f : Management → Management) : Moves A p s p (s.editMgmt f) :=
  of_aside (.mgmt f)

theorem countLink (s : State) (f : LinkCounters → LinkCounters) : Moves A p s p (s.countLink f) :=
  editLink s rfl rfl

theorem beginFrame (s : State) (frame : List Octet) : Moves A p s p (s.beginFrame frame) :=
  (editLink s rfl rfl).trans (countLink _ _)

theorem restartSupervision (s : State) : Moves A p s p s.restartSupervision := editLink s rfl rfl

theorem resumeLink (s : State) : Moves A p s p s.resumeLink := by
  unfold State.resumeLink
  split_ifs
  · exact (editLink s rfl rfl).trans (raise ..)
  · exact refl p s

theorem takeRequest (s : State) : Moves A p s p s.takeRequest := by
  unfold State.takeRequest
  split
  · exact refl p s
  · next r rest hq =>
    split_ifs
    · refine trans (of_aside (.link _ (fun h => ?_) id)) (editMgmt _ _)
      rw [hq, List.length_cons] at h
      exact (Nat.le_succ _).trans h
    · exact refl p s

theorem reply (s : State) (r : Request) (code : Octet) (result : ResultCode) (data : List Octet) :
    Moves A p s p (s.reply r code result data) := editMgmt s _

/-! ### Segments -/

/-- An edit of a segment that leaves what the laws speak of. -/
theorem kept_of_eq {g : Seg} {x y : Segment} (hstate : y.state = x.state)
    (hcfg : y.cfgList = x.cfgList) (hrelays : y.relays = x.relays) (hwindow : y.window = x.window)
    (hout : y.pollOut = x.pollOut) (hpolling : y.polling = x.polling) (hempty : y.emptyWait = x.emptyWait) :
    Segment.Kept g x y where
  up := by rw [hstate]
  cfgList := hcfg
  relays h := hrelays ▸ h
  poll h := by
    unfold Segment.pollLaw at h ⊢
    rwa [hstate, hwindow, hout, hpolling, hempty]
  window w h := Or.inl ⟨w, hwindow ▸ h, rfl⟩
  pollOut a h := Or.inl (hout ▸ h)

theorem editSeg (s : State) (g : Seg) {f : Segment → Segment} (h : Segment.Kept g (s.seg g) (f (s.seg g))) :
    Moves A p s p (s.editSeg g f) := of_aside (.segment g f h)

theorem turnDue (s : State) (g : Seg) : Moves A p s p (s.turnDue g) :=
  editSeg s g (kept_of_eq rfl rfl rfl rfl rfl rfl rfl)

theorem turnDueIfIdle (s : State) (g : Seg) : Moves A p s p (s.turnDueIfIdle g) := by
  refine editSeg s g ?_
  split_ifs
  · exact kept_of_eq rfl rfl rfl rfl rfl rfl rfl
  · exact kept_of_eq rfl rfl rfl rfl rfl rfl rfl

theorem countStray (s : State) (g : Seg) : Moves A p s p (s.countStray g) :=
  editSeg s g (kept_of_eq rfl rfl rfl rfl rfl rfl rfl)

theorem answer (s : State) (addr : Nat) (slot : Octet) (body : AnswerBody) :
    Moves A p s p (s.answer addr slot body) := editSeg s _ (kept_of_eq rfl rfl rfl rfl rfl rfl rfl)

theorem send (s : State) (g : Seg) (frame : List SegChar) : Moves A p s p (s.send g frame) :=
  editSeg s g (kept_of_eq rfl rfl rfl rfl rfl rfl rfl)

theorem setRx (s : State) (g : Seg) (rx : Option (List Octet)) : Moves A p s p (s.setRx g rx) :=
  editSeg s g (kept_of_eq rfl rfl rfl rfl rfl rfl rfl)

/-! ### Stations -/

/-- An edit that leaves how the station stands. -/
theorem editStation (s : State) (addr : Nat) {f : Station → Station}
    (h : Station.Alike (s.station addr) (f (s.station addr))) : Moves A p s p (s.editStation addr f) :=
  of_aside (.station addr _ fun hgood => ⟨hgood, h⟩)

theorem countDiscarded (s : State) (addr : Nat) : Moves A p s p (s.countDiscarded addr) :=
  editStation s addr ⟨rfl, rfl, rfl⟩

/-! ### Cards -/

theorem repairCard (s : State) (row : Nat) : Moves A p s p (s.repairCard row) := by
  unfold State.repairCard
  split_ifs
  · exact (tableFault s ..).trans (of_aside (.card row _ fun _ => Or.inl rfl))
  · exact refl p s

/-! ### Containers -/

/-- The mark of a pending deposit is no matter of the laws of the containers. -/
theorem editHasPending (s : State) (row : Nat) (b : Bool)
    (hrow : b = false ∨ (s.container row).loaded = true) :
    Moves A p s p (s.editContainer row fun x => { x with hasPending := b }) := by
  refine of_round (.container row _ rfl ⟨id, Or.inl ⟨rfl, Or.inl rfl⟩⟩ rfl fun _ hcold => ?_)
  have hc : s.container row = Container.unloaded := congrArg Row.data hcold
  rcases hrow with rfl | hl
  · rw [hc, hcold]
    rfl
  · rw [hc] at hl
    exact absurd hl Bool.false_ne_true

end Moves

/-! ### The release of deposits -/

/-- A Card Row that has been repaired reads good (R57). -/
theorem State.repairCard_good (s : State) (row : Nat) : ((s.repairCard row).cardRow row).bad = false := by
  unfold State.repairCard
  split_ifs with h
  · rw [State.cardRow_writeCard, if_pos rfl]
    rfl
  · simpa using h

theorem State.repairCard_deposits (s : State) (row : Nat) : (s.repairCard row).deposits = s.deposits :=
  (congrArg State.deposits (s.repairCard_restored row) :)

/-- The deposits once one is released (R81). -/
theorem State.release_deposits (s : State) (d : Deposit) :
    (s.release d).deposits = s.deposits.eraseP fun x => x.row = d.row :=
  (congrArg State.deposits (s.release_restored d) :)

/-- With the first of some deposits gone, the others still stand in the list in their order: what is erased
stands no later than the first. -/
theorem sublist_eraseP_of_cons {α : Type} {f : α → Bool} {d : α} {ds l : List α} (h : (d :: ds).Sublist l)
    (hd : f d = true) : ds.Sublist (l.eraseP f) := by
  induction l with
  | nil => nomatch h
  | cons x l ih =>
    cases h with
    | cons _ h =>
      by_cases hx : f x = true
      · rw [List.eraseP_cons_of_pos hx]
        exact (List.sublist_cons_self d ds).trans h
      · rw [List.eraseP_cons_of_neg hx]
        exact (ih h).cons x
    | cons_cons _ h =>
      rw [List.eraseP_cons_of_pos hd]
      exact h

theorem State.sublist_release {s : State} {d : Deposit} {ds : List Deposit}
    (h : (d :: ds).Sublist s.deposits) : ds.Sublist (s.release d).deposits := by
  rw [State.release_deposits]
  exact sublist_eraseP_of_cons h (decide_eq_true rfl)

theorem State.mem_of_depositAt {s : State} {row : Nat} {d : Deposit} (h : s.depositAt row = some d) :
    d ∈ s.deposits := List.mem_of_find?_eq_some h

namespace Moves

variable {A : Premises} {p : Phase}

theorem release {s : State} {d : Deposit} (h : d ∈ s.deposits) : Moves A p s p (s.release d) := by
  refine (repairCard s d.cardRow).trans (trans (of_aside (.conclude d _ (s.repairCard d.cardRow).journal
    (s.repairCard_good _) rfl ?_ (Or.inl rfl))) (editHasPending _ _ false (Or.inl rfl)))
  rw [State.repairCard_deposits]
  exact h

/-- Deposits that stand in the list in their order are released in turn. -/
theorem releases (ds : List Deposit) {s : State} (h : ds.Sublist s.deposits) :
    Moves A p s p (ds.foldl State.release s) := by
  induction ds generalizing s with
  | nil => exact refl p s
  | cons d ds ih => exact (release (h.subset List.mem_cons_self)).trans (ih (State.sublist_release h))

theorem releaseAt (s : State) (row : Nat) : Moves A p s p (s.releaseAt row) := by
  unfold State.releaseAt
  split
  · next d hd => exact release (State.mem_of_depositAt hd)
  · exact refl p s

theorem releaseStation (s : State) (addr : Nat) : Moves A p s p (s.releaseStation addr) :=
  releases _ List.filter_sublist

theorem releaseUpTo (s : State) (row : Nat) : Moves A p s p (s.releaseUpTo row) := by
  unfold State.releaseUpTo
  split
  · exact refl p s
  · next d hd =>
    obtain ⟨hrow, front, behind, hlist, hfront⟩ := List.find?_eq_some_iff_append.1 hd
    have htake : s.deposits.takeWhile (fun x => x.row ≠ row) = front := by
      rw [hlist, List.takeWhile_append_of_pos (by simpa using hfront),
        List.takeWhile_cons_of_neg (by simpa using hrow), List.append_nil]
    rw [htake]
    have hsub : (front.filter (fun x => rowStation x.row = rowStation row) ++ [d]).Sublist s.deposits := by
      rw [hlist]
      exact List.filter_sublist.append (List.singleton_sublist.2 List.mem_cons_self)
    exact (releases _ hsub).congr List.foldl_append

end Moves

end Sys2Proof.Machine
end

section
/-! PROOF. Containers taken out of the system, and the reads of Container and Station Entries, as moves. -/

namespace Sys2Proof.Machine

/-! ### Containers taken out of the system -/

/-- The slot of a row's stop is no matter of a release (R96). -/
theorem State.releaseAt_assignedSlot (s : State) (row : Nat) :
    (s.releaseAt row).assignedSlot row = s.assignedSlot row := by
  have hrow : (s.releaseAt row).containerRow row = _ := (s.releaseAt_containerRow row row).trans (if_pos rfl)
  have hplanned : (s.releaseAt row).plannedSlot row = s.plannedSlot row := by
    unfold State.plannedSlot
    simp only [State.releaseAt_ticket]
  simp only [State.assignedSlot, State.container, hrow, hplanned]

/-- A withdrawal releases the row's deposit and takes the container out of the system (R11). -/
theorem State.withdraw_eq_discharge (s : State) (row : Nat) :
    s.withdraw row = (s.releaseAt row).discharge row
      { data := (s.container row).withdrawn, bad := (s.containerRow row).bad } := by
  rw [State.withdraw_eq, State.discharge, State.releaseAt_assignedSlot, State.editContainer]
  have hrow := (s.releaseAt row).skipStop_containerRow row row (s.assignedSlot row)
  simp only [if_true, State.container, State.releaseAt_containerRow] at hrow
  simp only [State.container, hrow]
  rfl

theorem State.putContainer_putContainer (s : State) (row : Nat) (r r' : Row Container)
    (h : r.bad = true) : (s.putContainer row r).putContainer row r' = s.putContainer row r' := by
  have hr : r ≠ Row.good Container.unloaded := by
    rintro rfl
    exact Bool.false_ne_true h
  have herase (t : Table (Row Container)) : Table.erase (Table.insert t row r) row = Table.erase t row := by
    induction t with
    | nil => simp [Table.insert, Table.erase]
    | cons x t ih =>
      obtain ⟨k, v⟩ := x
      unfold Table.insert
      split_ifs with hlt heq
      · simp [Table.erase]
      · simp [Table.erase, heq]
      · simp [Table.erase, heq, ih]
  unfold State.putContainer Table.set
  simp only [if_neg hr]
  split_ifs
  · rw [herase]
  · rw [Table.insert_insert]

/-- A faulty row taken out of the system and then written again. -/
theorem State.discharge_putContainer (s : State) (row : Nat) (r r' : Row Container) (h : r.bad = true) :
    (s.discharge row r).putContainer row r' = s.discharge row r' :=
  congrArg (fun x : State => x.leaveList row)
    (State.putContainer_putContainer (s.skipStop row (s.assignedSlot row)) row r r' h)

theorem State.discharge_leaveList (s : State) (row : Nat) (r : Row Container) :
    (s.discharge row r).leaveList row = s.discharge row r := by
  simp only [State.discharge, State.leaveList, State.editDispatch, List.filter_filter, Bool.and_self]

/-- What a row that is read faulty becomes (R15; log entry 13). -/
def Container.readOut (c : Container) : Container := if c.loaded then c.withdrawn else Container.unloaded

/-- A row that is read faulty is taken out of the system, once its fault is told and its deposit released
(R15). -/
theorem State.readContainer_eq_discharge {s : State} {row : Nat} (h : (s.containerRow row).bad = true) :
    s.readContainer row = ((s.tableFault .container row []).releaseAt row).discharge row
      (Row.good (s.container row).readOut) := by
  have hbad : ((s.tableFault .container row []).containerRow row).bad = true := h
  rw [State.readContainer_of_bad h, State.withdraw_eq_discharge, Container.readOut]
  split_ifs
  · rw [State.writeContainer, State.discharge_putContainer]
    exact hbad
  · rw [State.clearContainer_eq, State.writeContainer, State.discharge_putContainer,
      State.discharge_leaveList]
    exact hbad

theorem Container.withdrawn_law (c : Container) : c.withdrawn.law := by
  simp [Container.law, Container.withdrawn]

theorem Container.withdrawn_ineligible (c : Container) : c.withdrawn.eligible = false := by
  simp [Container.eligible, Container.withdrawn]

/-- A container read out is in its law, assigned to no ticket, and not eligible. -/
theorem Container.readOut_spec (c : Container) :
    c.readOut.law ∧ c.readOut.assignment = none ∧ c.readOut.eligible = false := by
  unfold Container.readOut
  split_ifs
  · exact ⟨c.withdrawn_law, rfl, c.withdrawn_ineligible⟩
  · exact ⟨Container.unloaded_law, rfl, rfl⟩

/-! ### Rows that the Container Table has not -/

theorem rowStays_of_bad {row : Nat} {r r' : Row Container} (h : r.bad = true) : rowStays row r r' := by
  rintro - rfl
  exact absurd h Bool.false_ne_true

theorem rowStays_of_loaded {row : Nat} {r r' : Row Container} (h : r.data.loaded = true) :
    rowStays row r r' := by
  rintro - rfl
  exact absurd h Bool.false_ne_true

theorem rowStays_of_lt {row : Nat} {r r' : Row Container} (h : row < 256) : rowStays row r r' :=
  fun hle => absurd hle (Nat.not_le.2 h)

namespace Moves

variable {A : Premises} {p : Phase}

theorem readContainer (s : State) (row : Nat) : Moves A .within s .within (s.readContainer row) := by
  by_cases h : (s.containerRow row).bad = true
  · rw [State.readContainer_eq_discharge h]
    obtain ⟨hlaw, ha, he⟩ := (s.container row).readOut_spec
    refine ((tableFault s ..).trans (releaseAt _ row)).trans
      (of_round (.discharge row (Row.good _) hlaw ha he (rowStays_of_bad ?_)))
    rw [State.releaseAt_containerRow, if_pos rfl]
    exact h
  · rw [State.readContainer_of_good (by simpa using h)]
    exact refl _ s

theorem readContainers (s : State) : Moves A .within s .within s.readContainers :=
  foldl (fun x row => readContainer x row) _ s

/-- A withdrawal of a container that is loaded. -/
theorem withdraw {s : State} {row : Nat} (h : (s.container row).loaded = true) :
    Moves A .within s .within (s.withdraw row) := by
  rw [State.withdraw_eq_discharge]
  refine (releaseAt s row).trans (of_round (.discharge row _ (Container.withdrawn_law _) rfl
    (Container.withdrawn_ineligible _) (rowStays_of_loaded ?_)))
  rw [State.releaseAt_containerRow, if_pos rfl]
  exact h

/-- A row cleared with its stop, where it has one. -/
theorem skipAndClear {s : State} {row : Nat}
    (h : (s.container row).loaded = true ∨ (s.containerRow row).bad = true) :
    Moves A .within s .within ((s.skipStop row (s.assignedSlot row)).clearContainer row) := by
  rw [State.clearContainer_eq]
  refine of_round (.discharge row (Row.good Container.unloaded) Container.unloaded_law rfl rfl ?_)
  exact h.elim rowStays_of_loaded rowStays_of_bad

theorem forceUnload (s : State) (row : Nat) : Moves A .within s .within (s.forceUnload row) := by
  unfold State.forceUnload
  dsimp only
  split_ifs with h
  · exact (releaseUpTo s row).trans (skipAndClear (by simpa using h))
  · exact releaseUpTo s row

theorem unloadStation (s : State) (addr : Nat) : Moves A .within s .within (s.unloadStation addr) :=
  foldl (fun x row => forceUnload x row) _ s

/-! ### Station Entries -/

theorem readStation (s : State) (addr : Nat) : Moves A .within s .within (s.readStation addr) := by
  unfold State.readStation
  split_ifs with hbad
  · have hseg (g : Seg) : ((s.tableFault .station addr []).seg g) = s.seg g := State.tableFault_seg ..
    have hdown : (((s.tableFault .station addr []).leaveConfigure addr).seg (segOf addr)).state =
        ((s.tableFault .station addr []).seg (segOf addr)).state := by
      rw [State.leaveConfigure, State.seg_editSeg_same]
    dsimp only
    refine (tableFault s .station addr []).trans ?_
    split_ifs with hl hd
    · exact of_aside (.unlist addr _ fun _ => ⟨rfl, Or.inr (Or.inr (Or.inr (Or.inl
        ⟨rfl, hl, hdown ▸ hd⟩)))⟩)
    · refine trans ?_ (turnDueIfIdle ..)
      exact of_aside (.unlist addr _ fun _ => ⟨rfl, Or.inr (Or.inr (Or.inl ⟨rfl, hl⟩))⟩)
    · refine trans ?_ (unloadStation ..)
      exact of_aside (.unlist addr _ fun _ => ⟨rfl, Or.inr (Or.inr (Or.inr (Or.inr ⟨rfl, rfl⟩)))⟩)
  · exact refl _ s

theorem readSegment (s : State) (g : Seg) : Moves A .within s .within (s.readSegment g) :=
  foldl (fun x addr => readStation x addr) _ s

end Moves

end Sys2Proof.Machine
end

section
/-! PROOF. The passes at the end of an event, as moves (R99 to R103). -/

namespace Sys2Proof.Machine

/-! ### What a pass leaves of the current ticket -/

/-- The end of a stop completes a HANDED ticket, and leaves the state of any other (R105). -/
theorem Ticket.stopEnded_state_of_opened {w : Ticket} (h : w.state = .opened) (row : Nat)
    (st : StopStatus) (mass : Option Nat) : (w.stopEnded row st mass).state = .opened := by
  have hnot : ¬ w.completesAt row st mass := fun hc => nomatch h.symm.trans hc.1
  simp only [Ticket.stopEnded, if_neg hnot, h]

theorem State.skipStop_ticket (s : State) (row : Nat) (slot : Option Nat) (n : Nat) :
    (s.skipStop row slot).ticket n =
      if slot = some n then (s.ticket n).stopEnded row .skipped none else s.ticket n := by
  cases slot with
  | none => rfl
  | some m =>
    refine (State.leavePlanned_ticket ..).trans ?_
    by_cases hn : n = m
    · rw [if_pos hn, if_pos (by rw [hn]), hn]
    · rw [if_neg hn, if_neg fun h => hn (Option.some.inj h).symm]

theorem State.discharge_ticket (s : State) (row : Nat) (r : Row Container) (n : Nat) :
    (s.discharge row r).ticket n =
      if s.assignedSlot row = some n then (s.ticket n).stopEnded row .skipped none else s.ticket n :=
  s.skipStop_ticket ..

/-- The Dispatch Unit stays RUNNING while its ticket stays OPEN at its index. -/
theorem State.running_of_ticket {s t : State} (hrun : s.running = true)
    (hindex : t.dispatch.dispatchIndex = s.dispatch.dispatchIndex)
    (hticket : (s.currentTicket).state = .opened → (t.ticket s.dispatch.dispatchIndex).state = .opened) :
    t.running = true := by
  rw [State.running_iff, State.currentTicket, hindex]
  exact hticket (State.running_iff.1 hrun)

theorem State.running_discharge {s : State} (h : s.running = true) (row : Nat) (r : Row Container) :
    (s.discharge row r).running = true := by
  refine State.running_of_ticket h (congrArg Dispatch.dispatchIndex (s.discharge_dispatch row r) :) fun ho => ?_
  rw [State.discharge_ticket]
  split_ifs
  · exact Ticket.stopEnded_state_of_opened ho ..
  · exact ho

theorem State.running_releaseAt (s : State) (row : Nat) : (s.releaseAt row).running = s.running :=
  (congrArg State.running (s.releaseAt_restored row) :)

/-- A read of a Container Entry leaves the current ticket OPEN. -/
theorem State.running_readContainer {s : State} (h : s.running = true) (row : Nat) :
    (s.readContainer row).running = true := by
  by_cases hbad : (s.containerRow row).bad = true
  · rw [State.readContainer_eq_discharge hbad]
    refine State.running_discharge ?_ ..
    rw [State.running_releaseAt]
    exact h
  · rw [State.readContainer_of_good (by simpa using hbad)]
    exact h

theorem State.running_assign {s : State} (h : s.running = true) (row vol : Nat) :
    (s.assign row vol).running = true := by
  refine State.running_of_ticket h rfl fun ho => ?_
  refine (congrArg Ticket.state (s.assign_ticket row vol _)).trans ?_
  rw [if_pos rfl]
  exact ho

/-! ### The walk, the pass and the end of an event -/

theorem State.mem_readContainer_list {s : State} {row r : Nat} (hne : r ≠ row)
    (h : r ∈ s.dispatch.list) : r ∈ (s.readContainer row).dispatch.list := by
  by_cases hbad : (s.containerRow row).bad = true
  · rw [State.readContainer_dispatch_of_bad hbad]
    simpa [hne] using h
  · rwa [State.readContainer_of_good (by simpa using hbad)]

theorem State.mem_assign_list {s : State} {row vol r : Nat} (hne : r ≠ row) (h : r ∈ s.dispatch.list) :
    r ∈ (s.assign row vol).dispatch.list := List.mem_filter.2 ⟨h, by simpa using hne⟩

namespace Moves

variable {A : Premises}

/-- A walk over rows of the list, none of them twice, moves, and leaves the dispatch RUNNING (R100,
R101). -/
theorem walk (rows : List Nat) {s : State} (hrun : s.running = true)
    (hrows : A.once → rows.Nodup ∧ ∀ r ∈ rows, r ∈ s.dispatch.list) :
    Moves A .within s .within (State.walk rows s) ∧ (State.walk rows s).running = true := by
  induction rows generalizing s with
  | nil => exact ⟨refl _ s, hrun⟩
  | cons row rows ih =>
    have hrest (ho : A.once) : rows.Nodup ∧ ∀ r ∈ rows, r ∈ s.dispatch.list ∧ r ≠ row := by
      obtain ⟨hnodup, hmem⟩ := hrows ho
      rw [List.nodup_cons] at hnodup
      exact ⟨hnodup.2, fun r hr => ⟨hmem r (List.mem_cons_of_mem _ hr), fun heq => hnodup.1 (heq ▸ hr)⟩⟩
    unfold State.walk
    by_cases hfull : s.currentTicket.maxStops ≤ s.currentTicket.stops.length
    · rw [if_pos hfull]
      exact ⟨refl _ s, hrun⟩
    · rw [if_neg hfull]
      dsimp only
      split_ifs with hfit
      · have hgood : (s.containerRow row).bad = false := by
          by_contra hbad
          simp [hbad] at hfit
        rw [State.readContainer_of_good hgood] at hfit ⊢
        have hvol : dispatchVolume (s.container row).cfg ((s.container row).estimate.getD 0) ≤
            s.currentTicket.remaining := by
          simp only [Bool.and_eq_true, decide_eq_true_eq] at hfit
          exact hfit.2
        obtain ⟨hmoves, hran⟩ := ih (State.running_assign hrun row _) fun ho => ⟨(hrest ho).1, fun r hr =>
          State.mem_assign_list ((hrest ho).2 r hr).2 ((hrest ho).2 r hr).1⟩
        exact ⟨trans (of_round (.assign row _ hrun hgood (fun ho => (hrows ho).2 row List.mem_cons_self) hvol
          (Nat.not_le.1 hfull))) hmoves, hran⟩
      · obtain ⟨hmoves, hran⟩ := ih (State.running_readContainer hrun row) fun ho => ⟨(hrest ho).1,
          fun r hr => State.mem_readContainer_list ((hrest ho).2 r hr).2 ((hrest ho).2 r hr).1⟩
        exact ⟨(readContainer s row).trans hmoves, hran⟩

theorem pass {s : State} (hrun : s.running = true) (h : A.Hold s) : Moves A .within s .within s.pass := by
  obtain ⟨hwalk, hran⟩ := walk (A := A) s.dispatch.list hrun fun ho => ⟨h.once ho, fun _ hr => hr⟩
  unfold State.pass
  dsimp only
  split
  · exact hwalk.trans (of_round (.handBack _ hran))
  · exact hwalk

theorem passTaken (s : State) :
    Moves A .within s .within (s.editDispatch fun x => { x with passDue := false }) := of_round .passTaken

theorem runPasses (fuel : Nat) {s : State} (h : A.Hold s) :
    Moves A .within s .between (State.runPasses fuel s) := by
  induction fuel generalizing s with
  | zero => exact (passTaken s).trans (of_round (.rest rfl))
  | succ fuel ih =>
    unfold State.runPasses
    dsimp only
    have htaken := (passTaken s).hold h
    split_ifs with hdue hrun
    · exact ((passTaken s).trans (pass hrun htaken)).trans (ih ((pass hrun htaken).hold htaken))
    · exact (passTaken s).trans (of_round (.rest rfl))
    · exact of_round (.rest (by simpa using hdue))

/-- The end of an event (R99). -/
theorem endEvent {s : State} (h : A.Hold s) : Moves A .within s .between s.endEvent := runPasses 17 h

/-- An event that begins, goes on and ends. -/
theorem event {s t : State} (h : A.Hold s) (hmoves : Moves A .within s .within t) :
    Moves A .between s .between t.endEvent :=
  (trans (of_round .start) hmoves).trans (endEvent (hmoves.hold h))

end Moves

end Sys2Proof.Machine
end

section
/-! PROOF. The Fill Unit's and the Lift Monitor's work on a Container Entry, and the requests on Container
Entries, as moves. -/

namespace Sys2Proof.Machine

/-! ### The rows of a container taken out of the system -/

theorem State.discharge_containerRow (s : State) (row r : Nat) (x : Row Container) :
    (s.discharge row x).containerRow r = if r = row then x else s.containerRow r := by
  unfold State.discharge
  rw [State.leaveList_containerRow, State.containerRow_putContainer, State.skipStop_containerRow]
  split_ifs <;> rfl

/-- A row that has been read reads good (R15). -/
theorem State.readContainer_good (s : State) (row : Nat) :
    ((s.readContainer row).containerRow row).bad = false := by
  by_cases hbad : (s.containerRow row).bad = true
  · rw [State.readContainer_eq_discharge hbad, State.discharge_containerRow, if_pos rfl]
    rfl
  · rw [State.readContainer_of_good (by simpa using hbad)]
    simpa using hbad

/-- A row read as loaded stays loaded (log entry 13). -/
theorem State.readContainer_loaded {s : State} {row : Nat} (h : (s.container row).loaded = true) :
    ((s.readContainer row).container row).loaded = true := by
  by_cases hbad : (s.containerRow row).bad = true
  · have hrow : (s.readContainer row).containerRow row = Row.good (s.container row).withdrawn := by
      rw [State.readContainer_eq_discharge hbad, State.discharge_containerRow, if_pos rfl,
        Container.readOut, if_pos h]
    rw [State.container, hrow]
    exact h
  · rwa [State.readContainer_of_good (by simpa using hbad)]

/-! ### Work on an entry -/

/-- What a piece of the Fill Unit's work leaves of an entry: as loaded, in service and assigned as it was,
and within its law. -/
structure Container.Worked (c k : Container) : Prop where
  loaded : k.loaded = c.loaded
  service : k.service = c.service
  assignment : k.assignment = c.assignment
  law : c.law → k.law

/-- An estimate settled in a container that is not OUT OF SERVICE (R30, R37). -/
theorem Container.law_settle {c : Container} {e : Nat} (he : e ≤ 10000) (hs : c.service ≠ .outOfService)
    (h : c.law) : (settle c e).1.law := by
  obtain ⟨-, -, -, -, htimer, hfirst, hsecond⟩ := h
  refine ⟨fun x hx => ?_, ?_, nofun, fun hout => absurd hout hs, htimer, hfirst, hsecond⟩
  · obtain rfl : e = x := Option.some.inj hx
    exact he
  · simp [settle, evaluateFill_ne_none]

/-- Of a container's law its flags, its counts and its configuration are no matter; a suspect record may
go. -/
theorem Container.law_unsuspected {c : Container} (h : c.law) : { c with suspect := none }.law := by
  obtain ⟨hle, hfill, -, hout, htimer, hfirst, hsecond⟩ := h
  exact ⟨hle, hfill, fun _ => rfl, hout, htimer, hfirst, hsecond⟩

theorem holdSpike_worked {c : Container} {e : Nat} (he : c.estimate = some e) (dir : SpikeDir) (m : Nat) :
    Container.Worked c (holdSpike c dir m).1 := by
  refine ⟨rfl, rfl, rfl, fun h => ?_⟩
  obtain ⟨hle, hfill, -, hout, htimer, hfirst, hsecond⟩ := h
  refine ⟨hle, hfill, fun hnone => ?_, hout, htimer, hfirst, hsecond⟩
  exact nomatch he.symm.trans hnone

theorem acceptFill_worked {c : Container} {m : Nat} (hm : m ≤ 10000) (hs : c.service = .inService) :
    Container.Worked c (acceptFill c m).1 := by
  have hnot : c.service ≠ .outOfService := by simp [hs]
  have hsettle {e : Nat} (he : e ≤ 10000) (h : c.law) : (settle { c with suspect := none } e).1.law :=
    Container.law_settle (c := { c with suspect := none }) he hnot (Container.law_unsuspected h)
  unfold acceptFill
  split
  · exact ⟨rfl, rfl, rfl, hsettle hm⟩
  · next e he =>
    dsimp only
    split_ifs
    · exact ⟨rfl, rfl, rfl, hsettle hm⟩
    · exact holdSpike_worked he ..
    · exact ⟨rfl, rfl, rfl, hsettle hm⟩
    · exact holdSpike_worked he ..
    · exact ⟨rfl, rfl, rfl, hsettle (filtered_le ..)⟩

theorem clampDistance_ge (cfg : ContainerConfig) (h : cfg.deadZone ≤ cfg.depth) (d : Nat) :
    cfg.deadZone ≤ clampDistance cfg d := by
  unfold clampDistance
  split_ifs <;> omega

theorem measuredFill_clamped_le (cfg : ContainerConfig) (d : Nat) :
    measuredFill cfg (clampDistance cfg d) ≤ 10000 := by
  by_cases h : cfg.deadZone < cfg.depth
  · exact measuredFill_le cfg (clampDistance_ge cfg h.le d)
  · rw [measuredFill, if_neg h]
    exact Nat.le_of_lt_succ (Fin.isLt _)

theorem sampleWork_worked (d q : Nat) (c : Container) : Container.Worked c (sampleWork d q c).1 := by
  unfold sampleWork
  dsimp only
  split_ifs with hin
  · exact ⟨rfl, rfl, rfl, id⟩
  · refine acceptFill_worked (measuredFill_clamped_le ..) ?_
    simp_all
  · obtain ⟨hloaded, hservice, hassigned, hlaw⟩ := acceptFill_worked (c := c.mark .range)
      (measuredFill_clamped_le c.cfg d) (by simp_all [Container.mark])
    exact ⟨hloaded, hservice, hassigned, hlaw⟩
  · exact ⟨rfl, rfl, rfl, id⟩

theorem incrementWork_worked (c : Container) : Container.Worked c (incrementWork c).1 := by
  unfold incrementWork
  dsimp only
  split
  · next e hs he =>
    have hnot : c.service ≠ .outOfService := by simp [hs]
    split_ifs with hle
    · exact ⟨rfl, rfl, rfl, fun h =>
        Container.law_settle (c := { c with deposits := satInc16 c.deposits }) hle hnot h⟩
    · exact ⟨rfl, rfl, rfl, fun h => Container.law_settle
        (c := { c.mark .saturated with deposits := satInc16 c.deposits }) le_rfl hnot h⟩
  · exact ⟨rfl, rfl, rfl, id⟩

theorem residueWork_worked {c : Container} (hs : c.service ≠ .outOfService) :
    Container.Worked c (residueWork c).1 :=
  ⟨rfl, rfl, rfl, fun h => Container.law_settle (c := { c with suspect := none }) (c.cfg.afterLift_le) hs
    (Container.law_unsuspected h)⟩

theorem reloadWork_worked (cfg : ContainerConfig) (c : Container) :
    Container.Worked c (reloadWork cfg c).1 := by
  by_cases hsame : c.cfg.sameGeometry cfg = true
  · rcases Option.eq_none_or_eq_some c.estimate with he | ⟨e, he⟩
    · rw [reloadWork_of_absent hsame he]
      exact ⟨rfl, rfl, rfl, id⟩
    · rw [reloadWork_of_estimate hsame he]
      refine ⟨rfl, rfl, rfl, fun h => ?_⟩
      obtain ⟨hle, -, -, hout, htimer, hfirst, hsecond⟩ := h
      refine ⟨hle, ?_, fun hnone => ?_, hout, htimer, hfirst, hsecond⟩
      · simp [he, evaluateFill_ne_none]
      · exact nomatch he.symm.trans hnone
  · rw [reloadWork_of_geometry (by simpa using hsame)]
    refine ⟨rfl, rfl, rfl, fun h => ?_⟩
    obtain ⟨-, -, -, -, htimer, hfirst, hsecond⟩ := h
    exact ⟨nofun, by simp, fun _ => rfl, fun _ => rfl, htimer, hfirst, hsecond⟩

end Sys2Proof.Machine
end

section
/-! PROOF. The work on a Container Entry, the lift reports and the requests on Container Entries, as moves. -/

namespace Sys2Proof.Machine

/-- Work leaves how an entry is assigned (R17). -/
theorem Container.Worked.changed {c k : Container} (h : Container.Worked c k) : Container.Changed c k :=
  ⟨h.law, Or.inl ⟨h.assignment, Or.inl h.loaded⟩⟩

theorem Container.Worked.eligible_of_same {c k : Container} (h : Container.Worked c k)
    (he : k.estimate = c.estimate) (hf : k.fill = c.fill) : k.eligible = c.eligible := by
  simp only [Container.eligible, h.loaded, h.service, h.assignment, he, hf]

theorem State.applyWork_containerRow (s : State) (row r : Nat)
    (work : Container → Container × List Raised) :
    (s.applyWork row work).containerRow r =
      if r = row then Row.good (work (s.container row)).1 else s.containerRow r := by
  have hraise (rs : List Raised) (u : State) : (u.raiseAll row rs).containerRow r = u.containerRow r := by
    unfold State.raiseAll
    induction rs generalizing u with
    | nil => rfl
    | cons x xs ih => exact (ih _).trans (State.raise_containerRow ..)
  exact (hraise _ _).trans (State.containerRow_writeContainer ..)

/-- An entry whose lift has come to its end, before the residue is written (R118). -/
def Container.liftDone (c : Container) : Container :=
  { c with liftTimer := none, liftStage := .none, service := .inService, deposits := 0 }

theorem Container.liftDone_changed (c : Container) : Container.Changed c c.liftDone := by
  refine ⟨fun h => ?_, Or.inl ⟨rfl, Or.inl rfl⟩⟩
  obtain ⟨hle, hfill, hsuspect, -⟩ := h
  exact ⟨hle, hfill, hsuspect, by simp [Container.liftDone]⟩

namespace Moves

variable {A : Premises} {p : Phase}

/-! ### Entries written -/

/-- An entry changed whose row's place is open. -/
theorem change {s : State} {row : Nat} {f : Container → Container}
    (h : Container.Changed (s.container row) (f (s.container row)))
    (hrow : ∀ r', rowStays row (s.containerRow row) r') :
    Moves A (.placing row) s (.placing row) (s.editContainer row f) :=
  of_round (.change row _ rfl h (hrow _))

/-- Work written whose row's place is open. -/
theorem applyWork {s : State} {row : Nat} {work : Container → Container × List Raised}
    (hgood : (s.containerRow row).bad = false) (hrow : ∀ r', rowStays row (s.containerRow row) r')
    (hwork : Container.Changed (s.container row) (work (s.container row)).1) :
    Moves A (.placing row) s (.placing row) (s.applyWork row work) :=
  trans (of_round (.change row (Row.good _) hgood.symm hwork (hrow _))) (raiseAll ..)

theorem tell (s : State) (row : Nat) (was : Container) :
    Moves A (.placing row) s .within (s.tell row was) := of_round (.tell row was)

theorem fillWork {s : State} {row : Nat} {work : Container → Container × List Raised}
    (hgood : (s.containerRow row).bad = false) (hl : (s.container row).loaded = true)
    (hwork : Container.Worked (s.container row) (work (s.container row)).1) :
    Moves A .within s .within (s.fillWork row work) := by
  have hrow : (s.applyWork row work).container row = (work (s.container row)).1 :=
    congrArg Row.data ((s.applyWork_containerRow ..).trans (if_pos rfl))
  unfold State.fillWork
  dsimp only
  rw [hrow]
  split_ifs with hsame
  · rw [Bool.and_eq_true, decide_eq_true_eq, decide_eq_true_eq] at hsame
    exact trans (of_round (.container row (Row.good _) hgood.symm hwork.changed
      (hwork.eligible_of_same hsame.1 hsame.2) (rowStays_of_loaded hl))) (raiseAll ..)
  · exact (trans (of_round (.takeUp row)) (applyWork hgood (fun _ => rowStays_of_loaded hl)
      hwork.changed)).trans (tell ..)

theorem sample (s : State) (addr : Nat) (slot : Octet) (d q : Nat) :
    Moves A .within s .within (s.sample addr slot d q) := by
  unfold State.sample
  dsimp only
  split_ifs with _ hl
  · exact (readContainer s _).trans (fillWork (State.readContainer_good ..) hl (sampleWork_worked ..))
  · exact (readContainer s _).trans (countDiscarded ..)
  · exact countDiscarded ..

/-! ### Lifts -/

/-- A lift of a container that is LIFTING or STALLED goes from the one to the other. -/
theorem startLiftTimer {s : State} {row : Nat} {service : ServiceState} {stage : LiftStage}
    (hl : (s.container row).loaded = true)
    (hwas : (s.container row).service = .lifting ∨ (s.container row).service = .stalled)
    (hnew : service = .lifting ∧ stage = .first ∨ service = .stalled ∧ stage = .second) :
    Moves A p s p (s.startLiftTimer row service stage) := by
  refine of_round (.container row _ rfl ⟨fun h => ?_, Or.inl ⟨rfl, Or.inl rfl⟩⟩ ?_ (rowStays_of_loaded hl))
  · obtain ⟨hle, hfill, hsuspect, -⟩ := h
    refine ⟨hle, hfill, hsuspect, ?_⟩
    rcases hnew with ⟨rfl, rfl⟩ | ⟨rfl, rfl⟩ <;> simp
  · rcases hwas with hwas | hwas <;> rcases hnew with ⟨rfl, rfl⟩ | ⟨rfl, rfl⟩ <;>
      simp [Container.eligible, hwas]

theorem beginLift {s : State} {row : Nat} (hl : (s.container row).loaded = true) :
    Moves A .within s .within (s.beginLift row) := by
  unfold State.beginLift
  dsimp only
  refine (releaseAt s row).trans ((trans (of_round (.takeUp row)) (change ⟨fun h => ?_,
    Or.inl ⟨rfl, Or.inl rfl⟩⟩ fun _ => rowStays_of_loaded ?_)).trans (tell ..))
  · obtain ⟨hle, hfill, hsuspect, -⟩ := h
    exact ⟨hle, hfill, hsuspect, by simp⟩
  · rw [State.releaseAt_containerRow, if_pos rfl]
    exact hl

theorem liftStartAt (s : State) (addr row : Nat) : Moves A .within s .within (s.liftStartAt addr row) := by
  unfold State.liftStartAt
  dsimp only
  by_cases hl : (s.container row).loaded = true
  · rw [if_neg (by simp [hl])]
    split
    · exact beginLift hl
    · exact refl _ s
    · next hs => exact startLiftTimer hl (Or.inr hs) (Or.inl ⟨rfl, rfl⟩)
    · exact countDiscarded ..
  · rw [if_pos (by simpa using hl)]
    exact countDiscarded ..

theorem liftReport (s : State) (addr : Nat) (slot : Octet) {f : State → Nat → State}
    (hf : ∀ u row, (u.containerRow row).bad = false → Moves A .within u .within (f u row)) :
    Moves A .within s .within (s.liftReport addr slot f) := by
  unfold State.liftReport
  dsimp only
  split_ifs
  · exact (readContainer s _).trans (hf _ _ (State.readContainer_good ..))
  · exact (readContainer s _).trans (countDiscarded ..)
  · exact countDiscarded ..

theorem liftStart (s : State) (addr : Nat) (slot : Octet) :
    Moves A .within s .within (s.liftStart addr slot) :=
  liftReport s addr slot fun u row _ => liftStartAt u addr row

theorem liftOutcome {s : State} {row : Nat} (mass deposits : Nat)
    (hgood : (s.containerRow row).bad = false) (hl : (s.container row).loaded = true) :
    Moves A (.placing row) s (.placing row) (s.liftOutcome row mass deposits) := by
  unfold State.liftOutcome
  split
  · next slot ha => exact of_round (.leave row slot .done _ StopStatus.noConfusion hgood ha)
  · exact (change ⟨id, Or.inl ⟨rfl, Or.inl rfl⟩⟩ fun _ => rowStays_of_loaded hl).trans (raise ..)

theorem endLift {s : State} {row : Nat} (mass : Nat) (hgood : (s.containerRow row).bad = false)
    (hl : (s.container row).loaded = true) : Moves A .within s .within (s.endLift row mass) := by
  show Moves A .within s .within ((((s.editContainer row Container.liftDone).applyWork row
    residueWork).liftOutcome row mass (s.container row).deposits).tell row (s.container row))
  refine trans (of_round (.takeUp row)) (trans (change (f := Container.liftDone)
    (Container.liftDone_changed _) fun _ => rowStays_of_loaded hl) ?_)
  · generalize hu : s.editContainer row Container.liftDone = u
    have hrow : u.containerRow row = { data := _, bad := (s.containerRow row).bad } :=
      hu ▸ (State.containerRow_editContainer ..).trans (if_pos rfl)
    have hugood : (u.containerRow row).bad = false := by rw [hrow]; exact hgood
    have hservice : (u.container row).service ≠ .outOfService := by
      rw [State.container, hrow]
      exact ServiceState.noConfusion
    have hul : (u.container row).loaded = true := by rw [State.container, hrow]; exact hl
    have hworked := u.applyWork_containerRow row row residueWork
    rw [if_pos rfl] at hworked
    have hloaded : ((u.applyWork row residueWork).container row).loaded = true := by
      rw [State.container, hworked]
      exact (residueWork_worked hservice).loaded.trans hul
    have hgoodAfter : ((u.applyWork row residueWork).containerRow row).bad = false := by
      rw [hworked]
      rfl
    have hwork := applyWork (A := A) hugood (fun _ => rowStays_of_loaded hul)
      (residueWork_worked hservice).changed
    exact hwork.trans ((liftOutcome mass (s.container row).deposits hgoodAfter hloaded).trans
      (tell _ row (s.container row)))

theorem liftEndAt {s : State} (addr : Nat) {row : Nat} (mass : Nat)
    (hgood : (s.containerRow row).bad = false) :
    Moves A .within s .within (s.liftEndAt addr row mass) := by
  unfold State.liftEndAt
  dsimp only
  by_cases hl : (s.container row).loaded = true
  · rw [if_neg (by simp [hl])]
    split
    · have hrow := (s.releaseAt_containerRow row row).trans (if_pos rfl)
      refine (releaseAt s row).trans (endLift mass ?_ ?_)
      · rw [hrow]; exact hgood
      · rw [State.container, hrow]; exact hl
    · exact endLift mass hgood hl
    · exact endLift mass hgood hl
    · exact countDiscarded ..
  · rw [if_pos (by simpa using hl)]
    exact countDiscarded ..

theorem liftEnd (s : State) (addr : Nat) (slot : Octet) (mass : Nat) :
    Moves A .within s .within (s.liftEnd addr slot mass) :=
  liftReport s addr slot fun _ _ hgood => liftEndAt addr mass hgood

theorem stallLift {s : State} {row : Nat} (hl : (s.container row).loaded = true)
    (hs : (s.container row).service = .lifting) : Moves A p s p (s.stallLift row) :=
  (startLiftTimer hl (Or.inl hs) (Or.inr ⟨rfl, rfl⟩)).trans (raise ..)

end Moves

end Sys2Proof.Machine
end

section
/-! PROOF. The requests on Stream and Container Entries and the expiries of the lift timer, as moves. -/

namespace Sys2Proof.Machine

/-- What a row is before its first load is no matter of its law (R6). -/
theorem Container.firstLoad_law (cfg : ContainerConfig) : (Container.firstLoad cfg).law := by
  simp [Container.law, Container.firstLoad, Container.unloaded]

/-- A lift given up leaves the entry in its law, unassigned and not eligible (R123). -/
theorem Container.abandoned_spec (c : Container) :
    c.abandoned.law ∧ c.abandoned.assignment = none ∧ c.abandoned.eligible = false := by
  simp [Container.law, Container.abandoned, Container.eligible]

/-- A lift given up takes its container out of the system (R123). -/
theorem State.abandonLift_eq_discharge {s : State} {row : Nat} (hgood : (s.containerRow row).bad = false) :
    s.abandonLift row =
      (s.discharge row (Row.good (s.container row).abandoned)).raise .containerOut row
        [slotOctet (s.container row).assignment] := by
  have hrow (u : State) : (u.editContainer row Container.abandoned).container row =
      (u.container row).abandoned :=
    congrArg Row.data ((State.containerRow_editContainer ..).trans (if_pos rfl))
  have hskip := (s.skipStop_containerRow row row (s.container row).assignment).trans (if_pos rfl)
  refine congrArg (fun u : State => u.raise .containerOut row [slotOctet (s.container row).assignment]) ?_
  refine (State.tell_of_ineligible (fun h => ?_) ((congrArg Container.eligible (hrow _)).trans ?_)).trans ?_
  · exact absurd ((congrArg Container.fill (hrow _)).symm.trans h) FillState.noConfusion
  · exact (Container.abandoned_spec _).2.2
  · rw [State.discharge, State.assignedSlot_of_good hgood]
    refine congrArg (fun r => ((s.skipStop row (s.container row).assignment).putContainer row r).leaveList row) ?_
    rw [State.container, hskip, hgood]
    rfl

namespace Moves

variable {A : Premises} {p q : Phase}

/-! ### Requests in general -/

/-- What serves a request moves to what it answers, and the answer is held (R162). -/
theorem serve {s : State} {code : Octet} {mine : List Octet → Bool} {f : List Octet → State → Answered}
    (hf : ∀ args, Moves A p s q (f args s).state) (hquiet : Moves A p s q s) :
    Moves A p s q (s.serve code mine f) := by
  unfold State.serve
  split
  · exact hquiet
  · split
    · exact hquiet
    · split_ifs
      · exact (hf _).trans (reply ..)
      · exact hquiet

/-- A command that serves a request within an event, which ends behind it. -/
theorem serveEvent {s : State} {code : Octet} {mine : List Octet → Bool}
    {f : List Octet → State → Answered} (h : A.Hold s) (hf : ∀ args, Moves A .within s .within (f args s).state) :
    Moves A .between s .between (s.serve code mine f).endEvent := event h (serve hf (refl _ s))

/-! ### Streams -/

theorem loadStreamRequest {s : State} {act : Nat → Octet → State → Answered}
    (h : ∀ stream charged, Moves A p s p (act stream charged s).state) (args : List Octet) :
    Moves A p s p (loadStreamRequest act args s).state := by
  unfold Sys2Proof.Machine.loadStreamRequest
  split
  · split_ifs
    · exact h ..
    · exact refl p s
  · exact refl p s

theorem writeStream (s : State) (code : Nat) (e : StreamEntry) : Moves A p s p (s.writeStream code e) :=
  of_aside (.stream code (Row.good e))

theorem streamLoad (stream : Nat) (charged : Octet) (s : State) :
    Moves A p s p (streamLoad stream charged s).state := by
  unfold Sys2Proof.Machine.streamLoad
  split
  · exact refl p s
  · exact writeStream s ..

theorem streamUnload (stream : Nat) (charged : Octet) (s : State) :
    Moves A .within s .within (streamUnload stream charged s).state := by
  have hread := readContainers (A := A) s
  unfold Sys2Proof.Machine.streamUnload
  generalize s.readContainers = u at hread ⊢
  dsimp only
  split_ifs
  · exact hread
  · exact hread.trans (writeStream ..)

/-! ### LOAD CONTAINER -/

theorem reload {s : State} {row : Nat} {cfg : ContainerConfig} (hgood : (s.containerRow row).bad = false)
    (hl : (s.container row).loaded = true) : Moves A .within s .within (s.reload row cfg) := by
  have hrow := (s.releaseAt_containerRow row row).trans (if_pos rfl)
  have hul : ((s.releaseAt row).container row).loaded = true := by
    rw [State.container, hrow]
    exact hl
  have hugood : ((s.releaseAt row).containerRow row).bad = false := by
    rw [hrow]
    exact hgood
  unfold State.reload
  dsimp only
  exact (releaseAt s row).trans ((trans (of_round (.takeUp row)) (applyWork hugood
    (fun _ => rowStays_of_loaded hul) (reloadWork_worked cfg _).changed)).trans (tell ..))

theorem loadContainer {s : State} {row : Nat} {cfg : ContainerConfig}
    (hgood : (s.containerRow row).bad = false) (hrow : row < 256) :
    Moves A .within s .within (s.loadContainer row cfg).state := by
  unfold State.loadContainer
  dsimp only
  split_ifs with hbusy hl
  · exact refl _ s
  · exact reload hgood hl
  · refine of_round (.container row (Row.good _) hgood.symm
      ⟨fun _ => Container.firstLoad_law cfg, Or.inr ⟨by simpa using hl, rfl⟩⟩ ?_ (rowStays_of_lt hrow))
    simp only [Bool.not_eq_true] at hl
    simp [Container.eligible, hl, Container.firstLoad, Container.unloaded, Row.good]

theorem loadUnderStation {s : State} {row : Nat} {cfg : ContainerConfig} (hrow : row < 256) :
    Moves A .within s .within (s.loadUnderStation row cfg).state := by
  unfold State.loadUnderStation
  dsimp only
  split_ifs
  · exact (readStation s _).trans ((readContainer _ row).trans
      (loadContainer (State.readContainer_good ..) hrow))
  · exact readStation s _

theorem loadOfStream {s : State} {row : Nat} {cfg : ContainerConfig} (hrow : row < 256) :
    Moves A .within s .within (s.loadOfStream row cfg).state := by
  unfold State.loadOfStream
  dsimp only
  split_ifs
  · exact readStream s _
  · exact (readStream s _).trans (loadUnderStation hrow)
  · exact readStream s _

theorem containerLoadRequest (args : List Octet) (s : State) :
    Moves A .within s .within (containerLoadRequest args s).state := by
  unfold Sys2Proof.Machine.containerLoadRequest
  split
  · next row action fields =>
    split_ifs
    · exact refl _ s
    · split
      · exact refl _ s
      · split_ifs
        · exact loadOfStream row.isLt
        · exact refl _ s
  · exact refl _ s

theorem unloadContainer {s : State} {row : Nat} (hgood : (s.containerRow row).bad = false) :
    Moves A .within s .within (s.unloadContainer row).state := by
  unfold State.unloadContainer
  dsimp only
  split_ifs with hheld hl
  · exact refl _ s
  · have ha : (s.container row).assignment = none := by
      simp only [Bool.or_eq_true, not_or, Bool.not_eq_true, Option.isSome_eq_false_iff,
        Option.isNone_iff_eq_none] at hheld
      exact hheld.1
    have hrow := (s.releaseAt_containerRow row row).trans (if_pos rfl)
    have hslot : (s.releaseAt row).assignedSlot row = none := by
      rw [State.releaseAt_assignedSlot, State.assignedSlot_of_good hgood, ha]
    refine (releaseAt s row).trans ((skipAndClear (row := row) (Or.inl ?_)).congr ?_)
    · rw [State.container, hrow]
      exact hl
    · rw [hslot]
      rfl
  · exact refl _ s

theorem containerUnloadRequest (args : List Octet) (s : State) :
    Moves A .within s .within (containerUnloadRequest args s).state := by
  unfold Sys2Proof.Machine.containerUnloadRequest
  split
  · next row action fields =>
    split_ifs
    · exact refl _ s
    · split
      · exact (readContainer s _).trans (unloadContainer (State.readContainer_good ..))
      · exact refl _ s
  · exact refl _ s

/-! ### SET CONTAINER SERVICE, READ CONTAINER and CLEAR CONTAINER FLAGS -/

theorem serviceRequest {act : Nat → State → Answered}
    (h : ∀ (row : Nat) (u : State), (u.container row).loaded = true → Moves A .within u .within (act row u).state)
    (args : List Octet) (s : State) : Moves A .within s .within (serviceRequest act args s).state := by
  unfold Sys2Proof.Machine.serviceRequest
  split
  · dsimp only
    split_ifs with _ hl
    · exact (readContainer s _).trans (h _ _ hl)
    · exact readContainer s _
    · exact refl _ s
  · exact refl _ s

theorem serviceOut {row : Nat} {s : State} (hl : (s.container row).loaded = true) :
    Moves A .within s .within (serviceOut row s).state := withdraw hl

theorem serviceIn {row : Nat} {s : State} (hl : (s.container row).loaded = true) :
    Moves A .within s .within (serviceIn row s).state := by
  unfold Sys2Proof.Machine.serviceIn
  dsimp only
  split_ifs with hout
  · refine (trans (of_round (.takeUp row)) (change ⟨fun h => ?_, Or.inl ⟨rfl, Or.inl rfl⟩⟩
      fun _ => rowStays_of_loaded hl)).trans (tell ..)
    obtain ⟨hle, hfill, hsuspect, -, htimer, hfirst, hsecond⟩ := h
    refine ⟨hle, hfill, hsuspect, nofun, ?_, ?_, ?_⟩
    · simpa [hout] using htimer
    · simpa [hout] using hfirst
    · simpa [hout] using hsecond
  · exact refl _ s

theorem clearContainerFlags {s : State} (row : Nat) (named : Octet) (count : Bool) :
    Moves A p s p (s.clearContainerFlags row named count).state := by
  unfold State.clearContainerFlags
  dsimp only
  by_cases hl : (s.container row).loaded = true
  · rw [if_pos hl]
    exact of_round (.container row _ rfl ⟨id, Or.inl ⟨rfl, Or.inl rfl⟩⟩ rfl (rowStays_of_loaded hl))
  · rw [if_neg hl]
    exact refl p s

theorem clearContainerFlagsRequest (args : List Octet) (s : State) :
    Moves A .within s .within (clearContainerFlagsRequest args s).state := by
  unfold Sys2Proof.Machine.clearContainerFlagsRequest
  split
  · split
    · exact refl _ s
    · exact (readContainer s _).trans (clearContainerFlags ..)
  · exact refl _ s

theorem readContainerRequest (args : List Octet) {s : State} (h : A.Hold s) :
    Moves A .between s .between (readContainerRequest args s).state := by
  unfold Sys2Proof.Machine.readContainerRequest
  split
  · exact event h ((readStation s _).trans (readContainer _ _))
  · exact refl _ s

/-! ### The expiries of the lift timer -/

theorem abandonLift {s : State} {row : Nat} (hgood : (s.containerRow row).bad = false)
    (hl : (s.container row).loaded = true) : Moves A .within s .within (s.abandonLift row) := by
  rw [State.abandonLift_eq_discharge hgood]
  obtain ⟨hlaw, ha, he⟩ := (s.container row).abandoned_spec
  exact trans (of_round (.discharge row (Row.good _) hlaw ha he (rowStays_of_loaded hl))) (raise ..)

theorem liftExpiry {s : State} {row : Nat} {service : ServiceState} {stage : LiftStage} {f : State → State}
    (h : A.Hold s) (hf : (s.containerRow row).bad = false → (s.container row).loaded = true →
      (s.container row).service = service → Moves A .within s .within (f s)) :
    Moves A .between s .between (s.liftExpiry row service stage f) := by
  unfold State.liftExpiry
  split_ifs with hdue hbad hstands
  · exact event h (readContainer s row)
  · simp only [Container.liftStands, Bool.and_eq_true, decide_eq_true_eq] at hstands
    exact event h (hf (by simpa using hbad) hstands.1.1 hstands.1.2)
  · exact refl _ s
  · exact refl _ s

end Moves

end Sys2Proof.Machine
end

section
/-! PROOF. The requests on cards, the presentations, the confirmations and the expiry of deposits, as moves. -/

namespace Sys2Proof.Machine

/-! ### Card Rows -/

/-- A row that reads good is none that a repair touches (R57). -/
theorem State.repairCard_cardRow_of_good {s : State} {r : Nat} (h : (s.cardRow r).bad = false) (row : Nat) :
    (s.repairCard row).cardRow r = s.cardRow r := by
  unfold State.repairCard
  split_ifs with hbad
  · rw [State.cardRow_writeCard, if_neg fun heq => ?_]
    · rfl
    · rw [heq, hbad] at h
      exact Bool.false_ne_true h.symm
  · rfl

/-- The rows of the records read good once all of them are repaired (R49, R57). -/
theorem State.foldl_repairCard_good (rs : List CardRecord) (s : State) {row : Nat}
    (h : (s.cardRow row).bad = false ∨ ∃ r ∈ rs, r.row = row) :
    ((rs.foldl (fun u r => u.repairCard r.row) s).cardRow row).bad = false := by
  induction rs generalizing s with
  | nil => exact h.resolve_right fun ⟨_, hr, _⟩ => nomatch hr
  | cons x rs ih =>
    refine ih (s.repairCard x.row) ?_
    rcases h with hgood | ⟨r, hr, hrow⟩
    · exact Or.inl ((congrArg Row.bad (State.repairCard_cardRow_of_good hgood x.row)).trans hgood)
    · rcases List.mem_cons.1 hr with rfl | hr
      · exact Or.inl (hrow ▸ s.repairCard_good r.row)
      · exact Or.inr ⟨r, hr, hrow⟩

/-! ### The gates of a grant -/

/-- Where no gate is shut there is room for the deposit, and for its record (R67, R68). -/
theorem State.room_of_gates {s : State} {charged : Bool} {u : Nat} {c : CardRow}
    (h : s.gates charged u c = none) :
    s.deposits.length < 32 ∧
      (charged = true → s.journal.records.length + chargedPending s.deposits < 1024) := by
  unfold State.gates at h
  split_ifs at h with hbusy hfree hjournal
  · exact ⟨Nat.not_le.1 hbusy, fun hc => by simp [hc] at hfree⟩
  · exact ⟨Nat.not_le.1 hbusy, fun _ => Nat.not_le.1 hjournal⟩

theorem State.room_of_rightsAndGates {s : State} {k : Container} {charged : Bool} {c : CardRow}
    (h : s.rightsAndGates k charged c = none) :
    s.deposits.length < 32 ∧
      (charged = true → s.journal.records.length + chargedPending s.deposits < 1024) := by
  have hgates : s.gates charged k.cfg.unitCost c = none := by
    simp only [State.rightsAndGates] at h
    cases he : k.estimate <;> simp only [he] at h <;> split_ifs at h <;> exact h
  exact State.room_of_gates hgates

namespace Moves

variable {A : Premises} {p : Phase}

/-! ### The requests on cards -/

theorem loadSeriesRequest (args : List Octet) (s : State) :
    Moves A p s p (loadSeriesRequest args s).state := by
  unfold Sys2Proof.Machine.loadSeriesRequest State.loadSeries
  split
  · split
    · split_ifs
      · exact of_aside (.series _ _)
      · exact refl p s
    · exact refl p s
  · exact refl p s

theorem writeWindow (s : State) (w : VisitorWindow) : Moves A p s p (s.writeWindow w) :=
  of_aside (.outside (Row.good w) s.params s.seconds s.clock s.capture)

theorem loadWindowRequest (args : List Octet) (s : State) :
    Moves A p s p (loadWindowRequest args s).state := by
  unfold Sys2Proof.Machine.loadWindowRequest
  split
  · split
    · exact refl p s
    · split_ifs
      · exact writeWindow ..
      · exact refl p s
  · exact refl p s

/-- A row that reads good written with the reserved units it had. -/
theorem writeCard {s : State} {row : Nat} {c : CardRow} (hgood : (s.cardRow row).bad = false)
    (hc : c.reserved = (s.card row).reserved) : Moves A p s p (s.writeCard row c) :=
  of_aside (.card row (Row.good c) fun _ => Or.inr ⟨hgood, hc⟩)

theorem loadCard {s : State} {r : CardRecord} (hgood : (s.cardRow r.row).bad = false) :
    Moves A p s p (s.loadCard r) := writeCard hgood rfl

theorem loadCardRecords (rs : List CardRecord) {s : State} (h : ∀ r ∈ rs, (s.cardRow r.row).bad = false) :
    Moves A p s p (rs.foldl State.loadCard s) := by
  induction rs generalizing s with
  | nil => exact refl p s
  | cons r rs ih =>
    refine (loadCard (h r List.mem_cons_self)).trans (ih fun q hq => ?_)
    rw [State.loadCard, State.cardRow_writeCard]
    split_ifs
    · rfl
    · exact h q (List.mem_cons_of_mem _ hq)

theorem loadCards (s : State) (rs : List CardRecord) : Moves A p s p (s.loadCards rs).state := by
  have hrepair := foldl (A := A) (p := p) (f := fun u (r : CardRecord) => u.repairCard r.row)
    (fun x r => repairCard x r.row) rs s
  have hgood := fun r hr => State.foldl_repairCard_good rs s (row := r) (Or.inr hr)
  unfold State.loadCards
  split
  · exact refl p s
  · generalize rs.foldl (fun u (r : CardRecord) => u.repairCard r.row) s = u at hrepair hgood ⊢
    dsimp only
    split
    · exact hrepair
    · exact hrepair.trans (loadCardRecords rs fun r hr => hgood r.row ⟨r, hr, rfl⟩)

theorem loadCardsRequest (args : List Octet) (s : State) :
    Moves A p s p (loadCardsRequest args s).state := by
  unfold Sys2Proof.Machine.loadCardsRequest
  split
  · exact refl p s
  · split_ifs
    · split
      · exact refl p s
      · exact loadCards s _
    · exact refl p s

theorem adjustBalanceRequest (args : List Octet) (s : State) :
    Moves A p s p (adjustBalanceRequest args s).state := by
  unfold Sys2Proof.Machine.adjustBalanceRequest State.adjustBalance
  split
  · split
    · exact refl p s
    · dsimp only
      split_ifs
      · exact repairCard s _
      · exact (repairCard s _).trans (writeCard (State.repairCard_good ..) rfl)
      · exact refl p s
  · exact refl p s

theorem readCardRequest (args : List Octet) (s : State) : Moves A p s p (readCardRequest args s).state := by
  unfold Sys2Proof.Machine.readCardRequest
  split
  · dsimp only
    split_ifs
    · exact tableFault s ..
    · exact refl p s
    · exact refl p s
  · exact refl p s

/-! ### Presentations -/

theorem refuse (s : State) (addr : Nat) (slot : Octet) (r : RefuseReason) :
    Moves A p s p (s.refuse addr slot r) := answer s ..

theorem grant {s : State} {row cardRow : Nat} (addr : Nat) (slot : Octet) (card : CardNumber)
    {charged : Bool} (hcard : (s.cardRow cardRow).bad = false) (hl : (s.container row).loaded = true)
    (hroom : s.deposits.length < 32 ∧
      (charged = true → s.journal.records.length + chargedPending s.deposits < 1024))
    (hnew : A.apart → ∀ x ∈ s.deposits, x.row ≠ row) :
    Moves A p s p (s.grant addr slot row cardRow card charged) := by
  let units := grantUnits (s.container row).cfg charged
  let d : Deposit :=
    { row := row, cardRow := cardRow, card := card, units := units, charged := charged,
      expiry := s.after s.params.pendingExpiry }
  let c : CardRow := { s.card cardRow with reserved := (s.card cardRow).reserved + units }
  let u := (s.editDeposits fun ds => ds ++ [d]).writeCard cardRow c
  have hgrant : Moves A p s p u := of_aside (.grant d c hcard rfl hroom.1 hnew hroom.2)
  have hul : (u.container row).loaded = true := hl
  exact hgrant.trans ((editHasPending u row true (Or.inr hul)).trans (answer ..))

theorem decideOnRow {s : State} {row : Nat} (addr : Nat) (slot : Octet) (cardRow : Nat) (card : CardNumber)
    (charged : Bool) (hl : (s.container row).loaded = true) (hnew : A.apart → ∀ x ∈ s.deposits, x.row ≠ row) :
    Moves A p s p (s.decideOnRow addr slot row cardRow card charged) := by
  unfold State.decideOnRow
  split_ifs with hbad
  · exact (tableFault s ..).trans (refuse ..)
  · dsimp only
    split
    · exact refuse ..
    · exact refuse ..
    · exact (raise s ..).trans (refuse ..)
    · split
      · exact refuse ..
      · next hpass => exact grant addr slot card (by simpa using hbad) hl (State.room_of_rightsAndGates hpass) hnew

theorem decideOnCard {s : State} {row : Nat} (addr : Nat) (slot : Octet) (card : CardNumber)
    (charged : Bool) (hl : (s.container row).loaded = true) (hnew : A.apart → ∀ x ∈ s.deposits, x.row ≠ row) :
    Moves A p s p (s.decideOnCard addr slot row card charged) := by
  unfold State.decideOnCard
  split_ifs
  · exact (tableFault s ..).trans (refuse ..)
  · split
    · exact refuse ..
    · split_ifs
      · exact refuse ..
      · exact decideOnRow addr slot _ card charged hl hnew

theorem decide {s : State} {addr : Nat} {slot : Octet} (card : CardNumber)
    (hnew : A.apart → ∀ x ∈ s.deposits, x.row ≠ rowOf addr slot.toNat) :
    Moves A .within s .within (s.decide addr slot card) := by
  unfold State.decide
  dsimp only
  by_cases hbad : (s.containerRow (rowOf addr slot.toNat)).bad = true
  · rw [if_pos hbad]
    exact (readContainer s _).trans (refuse ..)
  · rw [if_neg hbad, State.readContainer_of_good (by simpa using hbad)]
    split_ifs with hclosed hstream
    · exact refuse ..
    · exact (readStream s _).trans (refuse ..)
    · have hl : (s.container (rowOf addr slot.toNat)).loaded = true := by
        by_contra hl
        simp [hl] at hclosed
      have hread : s.readStream (s.container (rowOf addr slot.toNat)).cfg.stream = s := by
        unfold State.readStream at hstream ⊢
        split_ifs at hstream ⊢ with hfault
        · exact absurd hfault hstream
        · rfl
      rw [hread]
      exact decideOnCard addr slot card _ hl hnew

theorem overrun (s : State) (addr row : Nat) : Moves A p s p (s.overrun addr row) := by
  unfold State.overrun
  split
  · next d hd =>
    exact (release (State.mem_of_depositAt hd)).trans ((editStation _ _ ⟨rfl, rfl, rfl⟩).trans (raise ..))
  · exact refl p s

end Moves

/-- After the overrun step no deposit is held for the row (R61, R73). -/
theorem State.overrun_deposits {s : State} (addr row : Nat) (h : s.depositsApart) :
    ∀ x ∈ (s.overrun addr row).deposits, x.row ≠ row := by
  unfold State.overrun
  split
  · next d hd =>
    have hrow := State.depositAt_row hd
    obtain ⟨-, front, behind, hlist, hfront⟩ := List.find?_eq_some_iff_append.1 hd
    intro x hx
    replace hx : x ∈ s.deposits.eraseP fun x => x.row = row := by
      rw [← hrow, ← State.release_deposits]
      exact hx
    have herase : s.deposits.eraseP (fun x => x.row = row) = front ++ behind := by
      rw [hlist, List.eraseP_append_right _ (by simpa using hfront), List.eraseP_cons_of_pos (by simpa using hrow)]
    rw [herase] at hx
    rw [State.depositsApart, hlist, List.map_append, List.map_cons, List.nodup_middle, List.nodup_cons] at h
    rw [← hrow]
    intro heq
    rw [← heq, ← List.map_append] at h
    exact h.1 (List.mem_map_of_mem hx)
  · next hnone => exact fun x hx heq => List.find?_eq_none.1 hnone x hx (decide_eq_true heq)

namespace Moves

variable {A : Premises} {p : Phase}

theorem present {s : State} (addr : Nat) (slot : Octet) (card : CardNumber) (h : A.Hold s) :
    Moves A .within s .within (s.present addr slot card) := by
  unfold State.present
  split_ifs
  · exact (overrun s ..).trans (decide card fun ha => State.overrun_deposits _ _ (h.apart ha))
  · exact refuse ..

/-! ### Confirmations and expiry -/

theorem commit {s : State} {d : Deposit} (hd : d ∈ s.deposits) (hl : (s.container d.row).loaded = true) :
    Moves A .within s .within (s.commit d) := by
  let u := s.repairCard d.cardRow
  let c := (u.card d.cardRow).charge d.units
  let v := u.writeCard d.cardRow c
  let w := (if d.charged then v.appendRecord d c.balance else v).removeDeposit d.row
  have hframe := s.repairCard_restored d.cardRow
  have hud : d ∈ u.deposits := (s.repairCard_deposits d.cardRow).symm ▸ hd
  have hconclude : Moves A .within u .within w := by
    by_cases hcharged : d.charged = true
    · let x : JournalRecord :=
        { seq := u.journal.counter + 1, card := d.card, row := d.row, units := d.units, balance := c.balance,
          stamp := v.clock.map fun k => { day := k.day, minute := k.minute } }
      refine (of_aside (.conclude d c (u.journal.append x) (s.repairCard_good _) rfl hud
        (Or.inr ⟨hcharged, x, rfl, rfl⟩))).congr (u := w) ?_
      simp only [w, if_pos hcharged]
      rfl
    · refine (of_aside (.conclude d c u.journal (s.repairCard_good _) rfl hud (Or.inl rfl))).congr (u := w) ?_
      simp only [w, if_neg hcharged]
      rfl
  have hwl : (w.container d.row).loaded = true := by
    have hcontainers : w.containers = s.containers := by
      refine Eq.trans ?_ (congrArg State.containers hframe :)
      simp only [w]
      split_ifs <;> rfl
    rw [State.container, State.containerRow, hcontainers]
    exact hl
  have hwork := incrementWork_worked { (w.readContainer d.row).container d.row with hasPending := false }
  exact (repairCard s _).trans (hconclude.trans ((readContainer w d.row).trans
    (fillWork (work := fun k => incrementWork { k with hasPending := false }) (State.readContainer_good ..)
      (State.readContainer_loaded hwl) ⟨hwork.loaded, hwork.service, hwork.assignment, hwork.law⟩)))

theorem confirmRelease {s : State} {d : Deposit} (addr : Nat) (late : Bool) (hd : d ∈ s.deposits) :
    Moves A p s p (s.confirmRelease addr d late) := by
  unfold State.confirmRelease
  dsimp only
  split_ifs
  · exact (release hd).trans (editStation _ _ ⟨rfl, rfl, rfl⟩)
  · exact release hd

theorem unmatched {s : State} {row : Nat} (hl : (s.container row).loaded = true) :
    Moves A .within s .within (s.unmatched row) :=
  (readContainer s row).trans ((fillWork (State.readContainer_good ..) (State.readContainer_loaded hl)
    (incrementWork_worked _)).trans (raise ..))

theorem confirm (s : State) (addr : Nat) (slot outcome : Octet) :
    Moves A .within s .within (s.confirm addr slot outcome) := by
  unfold State.confirm
  dsimp only
  split_ifs with h
  · have hl : (s.container (rowOf addr slot.toNat)).loaded = true := by
      rw [Bool.and_eq_true] at h
      exact h.2
    split
    · exact countDiscarded ..
    · split
      · next d hd _ => exact commit (State.mem_of_depositAt hd) (State.depositAt_row hd ▸ hl)
      · next d hd _ => exact confirmRelease addr false (State.mem_of_depositAt hd)
      · next d hd _ => exact confirmRelease addr true (State.mem_of_depositAt hd)
      · exact unmatched hl
      · exact countDiscarded ..
      · exact countDiscarded ..
  · exact countDiscarded ..

theorem expires (ds : List Deposit) {s : State} (h : ds.Sublist s.deposits) :
    Moves A p s p (ds.foldl State.expire s) := by
  induction ds generalizing s with
  | nil => exact refl p s
  | cons d ds ih =>
    exact (release (h.subset List.mem_cons_self)).trans ((raise ..).trans (ih (State.sublist_release h)))

end Moves

end Sys2Proof.Machine
end

section
/-! PROOF. What comes in on a segment, as moves: the routing of a reply, the station's states, the window and
the receiver. -/

namespace Sys2Proof.Machine

/-! ### Stations and segments under the operations -/

theorem State.Yields.stations {s t : State} (h : s.Yields t) : t.stations = s.stations :=
  (congrArg State.stations h.outside :)

theorem State.recordAnnounce_alike (e : Station) (a : Announcement) :
    Station.Alike e (let f := { e with lastAnnounce := some a }
      if a.count.toNat = f.count then f else f.flag .mismatch) := by
  dsimp only
  split_ifs <;> exact ⟨rfl, rfl, rfl⟩

theorem State.station_recordAnnounce (s : State) (addr : Nat) (a : Announcement) :
    Station.Alike (s.station addr) ((s.recordAnnounce addr a).station addr) := by
  have hrow : (s.recordAnnounce addr a).station addr = _ :=
    congrArg Row.data ((State.stationRow_editStation ..).trans (if_pos rfl))
  rw [hrow]
  exact State.recordAnnounce_alike ..

theorem State.station_countDiscarded (s : State) (addr : Nat) :
    Station.Alike (s.station addr) ((s.countDiscarded addr).station addr) := by
  have hrow : (s.countDiscarded addr).station addr = _ :=
    congrArg Row.data ((State.stationRow_editStation ..).trans (if_pos rfl))
  rw [hrow]
  exact ⟨rfl, rfl, rfl⟩

theorem State.station_noteReply (s : State) (addr : Nat) (a : Option Announcement) :
    Station.Alike (s.station addr) ((s.noteReply addr a).station addr) := by
  cases a with
  | none => exact s.station_countDiscarded addr
  | some a => exact s.station_recordAnnounce addr a

theorem State.station_clearMisses (s : State) (addr : Nat) :
    Station.Alike (s.station addr) ((s.clearMisses addr).station addr) := by
  have hrow : (s.clearMisses addr).station addr = _ :=
    congrArg Row.data ((State.stationRow_editStation ..).trans (if_pos rfl))
  rw [hrow]
  exact ⟨rfl, rfl, rfl⟩

/-- A read of a Station Entry touches of the segments the configure list and a turn that is due (R156). -/
theorem State.readStation_seg (s : State) (addr : Nat) (g : Seg) :
    ∃ l b, (s.readStation addr).seg g = { s.seg g with cfgList := l, turnDue := b } := by
  have hleave : ∃ l, (((s.tableFault .station addr []).leaveConfigure addr).seg g) =
      { s.seg g with cfgList := l } := by
    rw [State.leaveConfigure, State.seg_editSeg, State.tableFault_seg]
    split_ifs
    · exact ⟨_, rfl⟩
    · exact ⟨(s.seg g).cfgList, rfl⟩
  obtain ⟨l, hl⟩ := hleave
  unfold State.readStation
  split_ifs with hbad
  · generalize (s.tableFault .station addr []).leaveConfigure addr = u at hl ⊢
    dsimp only
    by_cases hload : (u.station addr).loaded = true
    · rw [if_pos hload]
      split_ifs with hdown
      · exact ⟨l, (s.seg g).turnDue, (State.putStation_seg ..).trans hl⟩
      · rw [State.turnDueIfIdle, State.seg_editSeg, State.putStation_seg, hl]
        split_ifs
        · exact ⟨l, true, rfl⟩
        · exact ⟨l, (s.seg g).turnDue, rfl⟩
        · exact ⟨l, (s.seg g).turnDue, rfl⟩
    · rw [if_neg hload]
      refine ⟨l, (s.seg g).turnDue, ?_⟩
      rw [(State.Yields.unloadStation _ addr).seg, State.putStation_seg, hl]
  · exact ⟨(s.seg g).cfgList, (s.seg g).turnDue, rfl⟩

theorem State.readStation_seg_state (s : State) (addr : Nat) (g : Seg) :
    ((s.readStation addr).seg g).state = (s.seg g).state := by
  obtain ⟨l, b, h⟩ := s.readStation_seg addr g
  rw [h]

namespace Moves

variable {A : Premises} {p : Phase}

/-! ### Routing -/

theorem relayUp (s : State) (addr route : Nat) (kind : Octet) (payload : List Octet) :
    Moves A p s p (s.relayUp addr route kind payload) := by
  unfold State.relayUp
  split_ifs with hroom
  · refine of_aside (.link _ id fun _ => ?_)
    rw [List.length_append, List.length_singleton]
    exact hroom
  · exact editLink s rfl rfl

theorem writeKind (s : State) (kind route : Nat) : Moves A p s p (s.writeKind kind route) :=
  of_aside (.kind kind (Row.good route))

theorem routeByTable (s : State) (addr : Nat) (kind : Octet) (payload : List Octet) :
    Moves A p s p (s.routeByTable addr kind payload) := by
  unfold State.routeByTable
  dsimp only
  split_ifs
  · exact (tableFault s ..).trans ((writeKind ..).trans (countDiscarded ..))
  · exact refl p s
  · exact relayUp s ..

theorem routeUnknown (s : State) (addr : Nat) (kind : Octet) (payload : List Octet) :
    Moves A p s p (s.routeUnknown addr kind payload) := by
  unfold State.routeUnknown
  split_ifs
  · exact countDiscarded ..
  · exact relayUp s ..

theorem route {s : State} (addr : Nat) (kind : Octet) (payload : List Octet) (h : A.Hold s) :
    Moves A .within s .within (s.route addr kind payload) := by
  unfold State.route
  split_ifs
  · exact refl _ s
  · split
    · exact present addr _ _ h
    · exact refl _ s
  · split
    · exact confirm s ..
    · exact refl _ s
  · split
    · exact sample s ..
    · exact refl _ s
  · split
    · exact liftStart s ..
    · exact refl _ s
  · split
    · exact liftEnd s ..
    · exact refl _ s
  · exact routeByTable s ..
  · exact routeUnknown s ..

theorem routeReply {s : State} (addr : Nat) (kind : Octet) (payload : List Octet) (h : A.Hold s) :
    Moves A .within s .within (s.routeReply addr kind payload) := by
  unfold State.routeReply
  split_ifs
  · exact countDiscarded ..
  · exact route addr kind payload h

/-! ### The states of a station -/

theorem recordAnnounce (s : State) (addr : Nat) (a : Announcement) :
    Moves A p s p (s.recordAnnounce addr a) := editStation s addr (State.recordAnnounce_alike ..)

theorem noteReply (s : State) (addr : Nat) (a : Option Announcement) :
    Moves A p s p (s.noteReply addr a) := by
  cases a with
  | none => exact countDiscarded ..
  | some a => exact recordAnnounce ..

theorem clearMisses (s : State) (addr : Nat) : Moves A p s p (s.clearMisses addr) :=
  editStation s addr ⟨rfl, rfl, rfl⟩

theorem joinConfigure {s : State} {addr : Nat} (h : (s.station addr).state = .configuring)
    (haddr : A.own → 1 ≤ addr ∧ addr ≤ 64) : Moves A p s p (s.joinConfigure addr) :=
  of_aside (.join addr h haddr)

theorem startConfiguring {s : State} {addr : Nat} (hpresent : (s.station addr).state ≠ .absent)
    (haddr : A.own → 1 ≤ addr ∧ addr ≤ 64) : Moves A p s p (s.startConfiguring addr) := by
  refine trans (of_aside (.stationState addr _ (Or.inl rfl) rfl rfl hpresent)) (joinConfigure ?_ haddr)
  exact congrArg (fun r => r.data.state) ((State.stationRow_editStation ..).trans (if_pos rfl))

theorem failedAttempt {s : State} {addr : Nat} {a : Announcement}
    (hstate : (s.station addr).state = .configuring) (hawaiting : (s.station addr).awaiting = false)
    (haddr : A.own → 1 ≤ addr ∧ addr ≤ 64) : Moves A p s p (s.failedAttempt addr a) := by
  have halike := s.station_recordAnnounce addr a
  have hrecord : Moves A p s p (s.recordAnnounce addr a) := recordAnnounce ..
  unfold State.failedAttempt
  generalize s.recordAnnounce addr a = u at halike hrecord ⊢
  dsimp only
  have hcount : Moves A p u p (u.editStation addr fun e => { e with attempts := (u.station addr).attempts + 1 }) :=
    editStation u addr ⟨rfl, rfl, rfl⟩
  have hrow : (u.editStation addr fun e => { e with attempts := (u.station addr).attempts + 1 }).station addr =
      { u.station addr with attempts := (u.station addr).attempts + 1 } :=
    congrArg Row.data ((State.stationRow_editStation ..).trans (if_pos rfl))
  have hcounted := (congrArg Station.state hrow :).trans (halike.state.trans hstate)
  refine hrecord.trans (hcount.trans ?_)
  split_ifs
  · exact joinConfigure hcounted haddr
  · refine trans (of_aside (.stationState addr _ (Or.inr ⟨?_, Or.inl rfl⟩) rfl rfl ?_)) (raise ..)
    · exact (congrArg Station.awaiting hrow :).trans (halike.awaiting.trans hawaiting)
    · rw [hcounted]
      exact StationState.noConfusion

theorem enterService {s : State} {addr : Nat} (kind : Octet) (payload : List Octet) (h : A.Hold s)
    (hpresent : (s.station addr).state ≠ .absent) (hawaiting : (s.station addr).awaiting = false)
    (hup : A.own → (s.seg (segOf addr)).state = .up) :
    Moves A .within s .within (s.enterService addr kind payload) := by
  have henter : Moves A .within s .within
      ((s.editStation addr fun e => { e with state := .inService, attempts := 0 }).raise
        .stationInService addr []) :=
    trans (of_aside (.stationState addr _ (Or.inr ⟨hawaiting, Or.inr ⟨rfl, hup⟩⟩) rfl rfl hpresent)) (raise ..)
  exact henter.trans (routeReply addr kind payload (henter.hold h))

theorem stationRestart {s : State} {addr : Nat} (a : Announcement)
    (hpresent : (s.station addr).state ≠ .absent) (haddr : A.own → 1 ≤ addr ∧ addr ≤ 64) :
    Moves A p s p (s.stationRestart addr a) := by
  refine (recordAnnounce s addr a).trans ((releaseStation ..).trans (startConfiguring ?_ haddr))
  have hstations := (State.Yields.releaseStation (s.recordAnnounce addr a) addr).stations
  rw [State.station, State.stationRow, hstations]
  exact fun habsent => hpresent ((s.station_recordAnnounce addr a).state.symm.trans habsent)

theorem strayReply (s : State) (addr : Nat) (kind : Octet) (payload : List Octet) :
    Moves A p s p (s.strayReply addr kind payload) := by
  unfold State.strayReply
  dsimp only
  split_ifs
  · exact (countStray s _).trans (countDiscarded ..)
  · exact countStray s _

/-- A reply taken of a station that is the segment's own, while the segment is UP (R146). -/
theorem takeReply {s : State} {addr : Nat} (kind : Octet) (payload : List Octet) (h : A.Hold s)
    (haddr : A.own → 1 ≤ addr ∧ addr ≤ 64) (hup : A.own → (s.seg (segOf addr)).state = .up) :
    Moves A .within s .within (s.takeReply addr kind payload) := by
  have hcleared := s.station_clearMisses addr
  have hnoted := (s.clearMisses addr).station_noteReply addr (announcement kind payload)
  have hclear := clearMisses (A := A) (p := .within) s addr
  have hstart (hs : (s.station addr).state ≠ .absent) : Moves A .within s .within
      (((s.clearMisses addr).noteReply addr (announcement kind payload)).startConfiguring addr) := by
    refine hclear.trans ((noteReply ..).trans (startConfiguring ?_ haddr))
    rwa [hnoted.state, hcleared.state]
  have hclearedUp (ho : A.own) : ((s.clearMisses addr).seg (segOf addr)).state = .up := by
    rw [State.clearMisses, State.editStation_seg]
    exact hup ho
  unfold State.takeReply
  dsimp only
  split
  · exact strayReply s ..
  · exact strayReply s ..
  · next hs => exact hstart (by simp [hs])
  · next hs => exact hstart (by simp [hs])
  · next hs =>
    refine hclear.trans ?_
    split_ifs with hawaiting
    · exact noteReply ..
    · split
      · exact failedAttempt (hcleared.state.trans hs) (by simpa using hawaiting) haddr
      · exact enterService kind payload (hclear.hold h) (by rw [hcleared.state, hs]; exact StationState.noConfusion)
          (by simpa using hawaiting) hclearedUp
  · next hs =>
    refine hclear.trans ?_
    split
    · exact stationRestart _ (by rw [hcleared.state, hs]; exact StationState.noConfusion) haddr
    · exact routeReply addr kind payload (hclear.hold h)

theorem stationReply {s : State} {addr : Nat} (kind : Octet) (payload : List Octet) (h : A.Hold s)
    (haddr : A.own → 1 ≤ addr ∧ addr ≤ 64) (hup : A.own → (s.seg (segOf addr)).state = .up) :
    Moves A .within s .within (s.stationReply addr kind payload) :=
  (readStation s addr).trans (takeReply kind payload ((readStation s addr).hold h) haddr fun ho =>
    (s.readStation_seg_state addr _).trans (hup ho))

/-! ### Misses -/

theorem countMiss {s : State} {addr : Nat} (h : (s.station addr).state ≠ .absent) :
    Moves A p s p (s.countMiss addr) := by
  unfold State.countMiss
  dsimp only
  split_ifs
  · exact editStation s addr ⟨rfl, rfl, rfl⟩
  · have hrow : (s.leaveConfigure addr).stationRow addr = s.stationRow addr := State.editSeg_stationRow ..
    refine trans (of_aside (.unlist addr _ fun hgood => ⟨rfl, Or.inr (Or.inl
      ⟨?_, rfl, h, ?_⟩)⟩)) (raise ..)
    · exact (congrArg Row.bad hrow).symm.trans hgood
    · exact congrArg (fun r => r.data.loaded) hrow

theorem stationMiss (s : State) (addr : Nat) (check framing : Bool) :
    Moves A .within s .within (s.stationMiss addr check framing) := by
  have hread := readStation (A := A) s addr
  unfold State.stationMiss
  generalize s.readStation addr = u at hread ⊢
  have halike (e : Station) : Station.Alike e (e.flagErrors check framing) := by
    unfold Station.flagErrors
    dsimp only
    split_ifs <;> exact ⟨rfl, rfl, rfl⟩
  refine hread.trans ?_
  dsimp only
  have hflagged : ((u.editStation addr fun e => e.flagErrors check framing).station addr).state =
      (u.station addr).state := by
    have hrow : (u.editStation addr fun e => e.flagErrors check framing).station addr = _ :=
      congrArg Row.data ((State.stationRow_editStation ..).trans (if_pos rfl))
    rw [hrow]
    exact (halike _).state
  cases hs : (u.station addr).state with
  | absent => exact refl _ u
  | cutOff => exact refl _ u
  | silent => exact editStation u addr (halike _)
  | unconfigured | configuring | inService =>
    refine (editStation u addr (halike _)).trans (countMiss ?_)
    rw [hflagged, hs]
    exact StationState.noConfusion

/-! ### The window -/

/-- An open window is shut (R131, R145). -/
theorem shutWindow {s : State} {g : Seg} (h : (s.seg g).window.isSome = true) :
    Moves A p s p (s.shutWindow g) := by
  refine editSeg s g ?_
  refine { up := Iff.rfl, cfgList := rfl, relays := id, poll := fun hlaw => ?_, window := nofun,
           pollOut := fun a ha => Or.inl ha }
  have hout : (s.seg g).pollOut = none := by
    simp only [Segment.pollLaw, Bool.and_eq_true, Bool.or_eq_true] at hlaw
    obtain ⟨⟨⟨hwin, -⟩, -⟩, -⟩ := hlaw
    rcases hwin with hnone | ⟨-, hout⟩
    · simp [Option.isSome_iff_ne_none] at h
      exact absurd (Option.isNone_iff_eq_none.1 hnone) h
    · exact Option.isNone_iff_eq_none.1 hout
  simp [Segment.pollLaw, hout]

theorem closeMiss {s : State} (g : Seg) (h : A.Hold s) : Moves A .between s .between (s.closeMiss g) := by
  unfold State.closeMiss
  split
  · exact refl _ s
  · next w hw =>
    have hshut : Moves A .between s .between (s.shutWindow g) := shutWindow (by rw [hw]; rfl)
    exact hshut.trans ((event (hshut.hold h) (stationMiss ..)).trans (turnDue ..))

theorem frameEnded {s : State} (g : Seg) (h : A.Hold s) : Moves A .between s .between (s.frameEnded g) := by
  unfold State.frameEnded
  split
  · exact refl _ s
  · split_ifs
    · exact closeMiss g h
    · exact refl _ s

/-- Marks set in an open window. -/
theorem mapWindow (s : State) (g : Seg) {f : Window → Window} (hf : ∀ w, (f w).addr = w.addr) :
    Moves A p s p (s.editSeg g fun x => { x with window := x.window.map f }) := by
  refine editSeg s g ?_
  refine { up := Iff.rfl, cfgList := rfl, relays := id, poll := fun hlaw => ?_, window := fun w hw => ?_,
           pollOut := fun a ha => Or.inl ha }
  · simpa only [Segment.pollLaw, Option.isNone_map] using hlaw
  · obtain ⟨v, hv, rfl⟩ := Option.map_eq_some_iff.1 hw
    exact Or.inl ⟨v, hv, (hf v).symm⟩

theorem handError {s : State} (g : Seg) (check framing : Bool) (h : A.Hold s) :
    Moves A .between s .between (s.handError g check framing) := by
  have hmarked : Moves A .between s .between (s.editSeg g fun x =>
      { x with window := x.window.map fun w =>
          { w with checkError := w.checkError || check,
                   framingError := w.framingError || framing } }) := mapWindow s g fun _ => rfl
  exact hmarked.trans (frameEnded g (hmarked.hold h))

theorem closeReply {s : State} {g : Seg} {addr : Nat} (kind : Octet) (payload : List Octet) (h : A.Hold s)
    (hwindow : ∃ w, (s.seg g).window = some w ∧ w.addr = addr) (hup : (s.seg g).state = .up) :
    Moves A .between s .between (s.closeReply g addr kind payload) := by
  obtain ⟨w, hw, rfl⟩ := hwindow
  have hshut : Moves A .between s .between (s.shutWindow g) := shutWindow (by rw [hw]; rfl)
  have hown (ho : A.own) : 1 ≤ w.addr ∧ w.addr ≤ 64 ∧ segOf w.addr = g :=
    mem_segAddrs.1 ((h.own ho g).1 w hw)
  refine hshut.trans ((event (hshut.hold h) (stationReply kind payload (hshut.hold h)
    (fun ho => ⟨(hown ho).1, (hown ho).2.1⟩) fun ho => ?_)).trans (turnDue ..))
  rw [(hown ho).2.2, State.shutWindow, State.seg_editSeg_same]
  exact hup

theorem handFrame {s : State} {g : Seg} (addr : Nat) (kind : Octet) (payload : List Octet) (h : A.Hold s)
    (hup : (s.seg g).state = .up) : Moves A .between s .between (s.handFrame g addr kind payload) := by
  unfold State.handFrame
  split
  · exact countStray s g
  · next w hw =>
    split_ifs with haddr
    · exact closeReply kind payload h ⟨w, hw, haddr.symm⟩ hup
    · exact (countStray s g).trans (frameEnded g ((countStray (p := .between) s g).hold h))

/-! ### The receiver -/

theorem completeFrame {s : State} {g : Seg} (os : List Octet) (h : A.Hold s) (hup : (s.seg g).state = .up) :
    Moves A .between s .between (s.completeFrame g os) := by
  unfold State.completeFrame
  dsimp only
  split_ifs
  · split
    · exact handFrame _ _ _ h hup
    · exact refl _ s
  · exact handError g _ _ h

theorem addOctet {s : State} {g : Seg} (os : List Octet) (h : A.Hold s) (hup : (s.seg g).state = .up) :
    Moves A .between s .between (s.addOctet g os) := by
  have hset := setRx (A := A) (p := .between) s g none
  have hsetUp : ((s.setRx g none).seg g).state = .up := by
    rw [State.setRx, State.seg_editSeg_same]
    exact hup
  unfold State.addOctet
  split
  · split_ifs
    · exact hset.trans (handError g _ _ (hset.hold h))
    · exact hset.trans (completeFrame _ (hset.hold h) hsetUp)
    · exact setRx ..
  · exact setRx ..

theorem takeChar {s : State} {g : Seg} (c : SegChar) (h : A.Hold s) (hup : (s.seg g).state = .up) :
    Moves A .between s .between (s.takeChar g c) := by
  unfold State.takeChar
  split
  · split_ifs
    · exact setRx ..
    · exact refl _ s
  · split_ifs
    · exact (setRx s g none).trans (handError g _ _ ((setRx (p := .between) s g none).hold h))
    · exact (setRx s g _).trans (frameEnded g ((setRx (p := .between) s g _).hold h))
    · exact addOctet _ h hup

theorem hearChars (g : Seg) (chars : List SegChar) {s : State} (h : A.Hold s) :
    Moves A .between s .between (chars.foldl (State.hearChar g) s) := by
  induction chars generalizing s with
  | nil => exact refl _ s
  | cons c chars ih =>
    have hheard : Moves A .between s .between (State.hearChar g s c) := by
      unfold State.hearChar
      split_ifs with hreceiving
      · refine takeChar c h ?_
        simp only [Segment.receiving, Bool.and_eq_true, decide_eq_true_eq] at hreceiving
        exact hreceiving.1.1
      · exact refl _ s
    exact hheard.trans (ih (hheard.hold h))

theorem spoilFrame {s : State} (g : Seg) (h : A.Hold s) : Moves A .between s .between (s.spoilFrame g) := by
  unfold State.spoilFrame
  split_ifs
  · exact (setRx s g none).trans (handError g _ _ ((setRx (p := .between) s g none).hold h))
  · exact refl _ s

end Moves

end Sys2Proof.Machine
end

section
/-! PROOF. The segment controllers as moves: going down and being restored, send turns with the poll search,
reply windows, and SET SEGMENT and POLL CONTROL. -/

namespace Sys2Proof.Machine

namespace Moves

variable {A : Premises} {p : Phase}

/-- An edit that touches of a segment the polling, and leaves the window. -/
theorem kept_of_poll {g : Seg} {x y : Segment} (hstate : y.state = x.state) (hcfg : y.cfgList = x.cfgList)
    (hrelays : x.relays.length ≤ 8 → y.relays.length ≤ 8) (hwindow : y.window = x.window)
    (hout : ∀ a, y.pollOut = some a → x.pollOut = some a ∨ a ∈ segAddrs g)
    (hpoll : x.pollLaw = true → y.pollLaw = true) : Segment.Kept g x y where
  up := by rw [hstate]
  cfgList := hcfg
  relays := hrelays
  poll := hpoll
  window w h := Or.inl ⟨w, hwindow ▸ h, rfl⟩
  pollOut := hout

/-! ### The line -/

theorem lineLow {s : State} (g : Seg) (h : A.Hold s) :
    ∃ t, execLineLow g s = .next t ∧ Moves A .between s .between t := by
  refine ⟨_, rfl, ?_⟩
  dsimp only
  split_ifs
  · have hlow : Moves A .between s .between ((((s.spoilFrame g).editSeg g fun x =>
        { x with atSpace := true, lowMeasured := true, lineLow := true }).raise .lineLow (segCode g) [])) :=
      (spoilFrame g h).trans ((editSeg _ g (kept_of_eq rfl rfl rfl rfl rfl rfl rfl)).trans (raise ..))
    exact hlow.trans (closeMiss g (hlow.hold h))
  · exact refl _ s

theorem breakOver {s : State} (g : Seg) (h : A.Hold s) :
    ∃ t, execBreakOver g s = .next t ∧ Moves A .between s .between t := by
  refine ⟨_, rfl, ?_⟩
  split_ifs
  · exact (spoilFrame g h).trans (editSeg _ g (kept_of_eq rfl rfl rfl rfl rfl rfl rfl))
  · exact refl _ s

theorem replyTimeout {s : State} (g : Seg) (h : A.Hold s) :
    ∃ t, execReplyTimeout g s = .next t ∧ Moves A .between s .between t := by
  refine ⟨_, rfl, ?_⟩
  split_ifs
  · exact mapWindow s g fun _ => rfl
  · exact closeMiss g h

/-! ### Going down and coming back -/

theorem segmentDown (g : Seg) (s : State) :
    ∃ t, execSegmentDown g s = .next t ∧ Moves A p s p t := by
  refine ⟨_, rfl, ?_⟩
  split_ifs with hdown
  · simp only [Bool.and_eq_true, Option.isNone_iff_eq_none] at hdown
    exact trans (of_aside (.goDown g hdown.1.1.2)) (raise ..)
  · exact refl p s

theorem busResetBreak (g : Seg) (s : State) :
    ∃ t, execBusResetBreak g s = .next t ∧ Moves A p s p t := by
  refine ⟨_, rfl, ?_⟩
  split_ifs with hdown
  · refine editSeg s g { up := ?_, cfgList := rfl, relays := id, poll := ?_, window := ?_, pollOut := ?_ }
    · simp [hdown]
    · simp [Segment.pollLaw, hdown]
    · exact fun w hw => Or.inl ⟨w, hw, rfl⟩
    · exact fun a ha => Or.inl ha
  · exact refl p s

theorem busResetBreakEnd (g : Seg) (s : State) :
    ∃ t, execBusResetBreakEnd g s = .next t ∧ Moves A p s p t := by
  refine ⟨_, rfl, ?_⟩
  dsimp only
  split_ifs with hrestoring hquiet
  · exact trans (of_aside (.comeUp g hrestoring)) (turnDue ..)
  · exact (trans (of_aside (.comeUp g hrestoring)) (raise ..)).trans (turnDue ..)
  · exact refl p s

/-! ### Send turns -/

/-- The oldest relay frame leaves its queue. -/
theorem sendRelay (s : State) (g : Seg) : Moves A p s p (s.sendRelay g) := by
  unfold State.sendRelay
  split
  · exact refl p s
  · next r rest hq =>
    refine trans (editSeg s g (kept_of_poll rfl rfl (fun h => ?_) rfl (fun _ => Or.inl) id)) (send ..)
    rw [hq, List.length_cons] at h
    exact (Nat.le_succ _).trans h

theorem sendAnswers (s : State) (g : Seg) : Moves A p s p (s.sendAnswers g) :=
  editSeg s g (kept_of_eq rfl rfl rfl rfl rfl rfl rfl)

theorem sendConfigure (g : Seg) (l : List Nat) (s : State) :
    Moves A .within s .within (State.sendConfigure g l s) := by
  induction l generalizing s with
  | nil => exact refl _ s
  | cons addr rest ih =>
    unfold State.sendConfigure
    split_ifs with hbad
    · exact (readStation s addr).trans (ih _)
    · refine (send s g _).trans (of_aside (.unlist addr _ fun _ => ⟨rfl, Or.inl ⟨?_, ?_, ?_⟩⟩))
      · rw [State.send, State.editSeg_stationRow]
        simpa using hbad
      · exact congrArg (fun r => r.data.state) (State.editSeg_stationRow ..)
      · exact congrArg (fun r => r.data.loaded) (State.editSeg_stationRow ..)

end Moves

/-! ### What the turn's search leaves of a segment -/

/-- A segment that can begin a POLL: UP, with neither a window nor a POLL, and no empty cycle waited out. -/
def Segment.clear (x : Segment) : Prop :=
  x.state = .up ∧ x.window = none ∧ x.pollOut = none ∧ x.emptyWait = false

/-- A segment still clear, with its polling state. -/
def Segment.Cleared (x y : Segment) : Prop := (x.clear → y.clear) ∧ y.polling = x.polling

namespace Segment.Cleared

theorem refl (x : Segment) : Segment.Cleared x x := ⟨id, rfl⟩

theorem trans {x y z : Segment} (h : Segment.Cleared x y) (k : Segment.Cleared y z) : Segment.Cleared x z :=
  ⟨fun hx => k.1 (h.1 hx), k.2.trans h.2⟩

theorem readStation (s : State) (addr : Nat) (g : Seg) :
    Segment.Cleared (s.seg g) ((s.readStation addr).seg g) := by
  obtain ⟨l, b, h⟩ := s.readStation_seg addr g
  rw [h]
  exact ⟨id, rfl⟩

theorem readStations (l : List Nat) (s : State) (g : Seg) :
    Segment.Cleared (s.seg g) ((l.foldl State.readStation s).seg g) := by
  induction l generalizing s with
  | nil => exact refl _
  | cons addr l ih => exact (readStation s addr g).trans (ih _)

theorem editSeg (s : State) (g : Seg) {f : Segment → Segment}
    (h : Segment.Cleared (s.seg g) (f (s.seg g))) : Segment.Cleared (s.seg g) ((s.editSeg g f).seg g) := by
  rwa [State.seg_editSeg_same]

theorem send (s : State) (g : Seg) (frame : List SegChar) :
    Segment.Cleared (s.seg g) ((s.send g frame).seg g) :=
  editSeg s g (f := fun x => { x with sent := x.sent ++ [frame] }) ⟨id, rfl⟩

theorem sendConfigure (g : Seg) (l : List Nat) (s : State) :
    Segment.Cleared (s.seg g) ((State.sendConfigure g l s).seg g) := by
  induction l generalizing s with
  | nil => exact refl _
  | cons addr rest ih =>
    unfold State.sendConfigure
    split_ifs
    · exact (readStation s addr g).trans (ih _)
    · rw [State.editStation_seg]
      refine (send s g (configureFrame addr (s.station addr))).trans ?_
      rw [State.leaveConfigure, State.seg_editSeg]
      split_ifs
      · exact ⟨id, rfl⟩
      · exact refl _

theorem sendRelay (s : State) (g : Seg) : Segment.Cleared (s.seg g) ((s.sendRelay g).seg g) := by
  unfold State.sendRelay
  split
  · exact refl _
  · next r rest _ =>
    exact (editSeg s g (f := fun x => { x with relays := rest }) ⟨id, rfl⟩).trans (send _ g _)

end Segment.Cleared

/-! ### The poll search -/

/-- The search reads entries, and finds one of the addresses it is given. -/
theorem State.search_eq (cycle : Nat) (l : List Nat) (s : State) :
    (∃ read : List Nat, (State.search cycle l s).1 = read.foldl State.readStation s) ∧
      ∀ addr, (State.search cycle l s).2 = some addr → addr ∈ l := by
  induction l generalizing s with
  | nil => exact ⟨⟨[], rfl⟩, nofun⟩
  | cons a l ih =>
    unfold State.search
    dsimp only
    split_ifs
    · exact ⟨⟨[a], rfl⟩, fun addr h => List.mem_cons.2 (Or.inl (Option.some.inj h).symm)⟩
    · obtain ⟨⟨read, hread⟩, hfound⟩ := ih (s.readStation a)
      exact ⟨⟨a :: read, hread⟩, fun addr h => List.mem_cons_of_mem _ (hfound addr h)⟩

/-- A search of the cycle reads entries, and finds a station of the segment. -/
theorem State.searchCycle_eq {s t : State} {g : Seg} {found : Option Nat} (h : s.searchCycle g = (t, found)) :
    (∃ read : List Nat, t = read.foldl State.readStation s) ∧ ∀ addr, found = some addr → addr ∈ segAddrs g := by
  obtain ⟨hread, hfound⟩ := State.search_eq (s.seg g).cycleCount
    ((segAddrs g).filter fun a => (s.seg g).position < a) s
  rw [State.searchCycle] at h
  rw [h] at hread hfound
  exact ⟨hread, fun addr ha => (List.mem_filter.1 (hfound addr ha)).1⟩

namespace Moves

variable {A : Premises} {p : Phase}

theorem readStations (l : List Nat) (s : State) : Moves A .within s .within (l.foldl State.readStation s) :=
  foldl (fun x addr => readStation x addr) l s

theorem poll {s : State} {g : Seg} {addr : Nat} (haddr : addr ∈ segAddrs g) (hclear : (s.seg g).clear)
    (hpolling : (s.seg g).polling ≠ .stopped) : Moves A p s p (s.poll g addr) := by
  obtain ⟨hup, hwindow, hout, hempty⟩ := hclear
  refine trans (editSeg s g (kept_of_poll rfl rfl id rfl (fun a ha => Or.inr ?_) fun _ => ?_)) (send ..)
  · exact Option.some.inj ha ▸ haddr
  · simp [Segment.pollLaw, hup, hwindow, hempty, hpolling]

theorem settlePolling {s : State} {g : Seg} (hclear : (s.seg g).clear) :
    Moves A p s p (s.settlePolling g) := by
  obtain ⟨-, hwindow, hout, -⟩ := hclear
  refine editSeg s g (kept_of_poll rfl rfl id rfl (fun _ => Or.inl) fun _ => ?_)
  simp [Segment.pollLaw, hwindow, hout]

/-- A segment without a window or a POLL waits out an empty cycle. -/
theorem waitEmpty {s : State} {g : Seg} (hclear : (s.seg g).clear) :
    Moves A p s p (s.editSeg g fun x => { x with emptyWait := true }) := by
  obtain ⟨-, hwindow, hout, -⟩ := hclear
  refine editSeg s g (kept_of_poll rfl rfl id rfl (fun _ => Or.inl) fun _ => ?_)
  simp [Segment.pollLaw, hwindow, hout]

theorem newCycle {s : State} {g : Seg} (hclear : (s.seg g).clear) :
    Moves A .within s .within (s.newCycle g) := by
  have hcount : Moves A .within s .within (s.editSeg g fun x =>
      { x with cycleCount := nextCycle x.cycleCount, position := 0 }) :=
    editSeg s g (kept_of_eq rfl rfl rfl rfl rfl rfl rfl)
  have hcounted := Segment.Cleared.editSeg s g
    (f := fun x => { x with cycleCount := nextCycle x.cycleCount, position := 0 }) ⟨id, rfl⟩
  unfold State.newCycle
  generalize s.editSeg g (fun x => { x with cycleCount := nextCycle x.cycleCount, position := 0 }) = u
    at hcount hcounted ⊢
  refine hcount.trans ?_
  dsimp only
  split_ifs with hrunning
  · split
    · next t addr hsearch =>
      obtain ⟨⟨read, rfl⟩, hfound⟩ := State.searchCycle_eq hsearch
      have hread := Segment.Cleared.readStations read u g
      refine (readStations read u).trans (poll (hfound addr rfl) (hread.1 (hcounted.1 hclear)) ?_)
      rw [hread.2, hrunning]
      exact PollState.noConfusion
    · next t hsearch =>
      obtain ⟨⟨read, rfl⟩, -⟩ := State.searchCycle_eq hsearch
      exact (readStations read u).trans
        (waitEmpty ((Segment.Cleared.readStations read u g).1 (hcounted.1 hclear)))
  · exact settlePolling (hcounted.1 hclear)

theorem pollStep {s : State} {g : Seg} (hclear : (s.seg g).clear) :
    Moves A .within s .within (s.pollStep g) := by
  unfold State.pollStep
  split_ifs with hstopped
  · exact refl _ s
  · split
    · next t addr hsearch =>
      obtain ⟨⟨read, rfl⟩, hfound⟩ := State.searchCycle_eq hsearch
      have hread := Segment.Cleared.readStations read s g
      refine (readStations read s).trans (poll (hfound addr rfl) (hread.1 hclear) ?_)
      rwa [hread.2]
    · next t hsearch =>
      obtain ⟨⟨read, rfl⟩, -⟩ := State.searchCycle_eq hsearch
      have hclear' := (Segment.Cleared.readStations read s g).1 hclear
      refine (readStations read s).trans ((readSegment _ g).trans ?_)
      have hread := (Segment.Cleared.readStations (segAddrs g) (read.foldl State.readStation s) g).1 hclear'
      dsimp only
      split_ifs
      · exact newCycle hread
      · exact settlePolling hread

theorem sendTurn {s : State} {g : Seg} (hready : (s.seg g).turnReady = true) :
    Moves A .within s .within (s.sendTurn g) := by
  simp only [Segment.turnReady, Bool.and_eq_true, decide_eq_true_eq, Option.isNone_iff_eq_none] at hready
  obtain ⟨⟨⟨⟨hup, -⟩, -⟩, hout⟩, hwindow⟩ := hready
  have hbegin : Moves A .within s .within (s.editSeg g fun x => { x with sent := [], emptyWait := false }) := by
    refine editSeg s g (kept_of_poll rfl rfl id rfl (fun _ => Or.inl) fun _ => ?_)
    simp [Segment.pollLaw, hwindow, hout]
  have hclear : ((s.editSeg g fun x => { x with sent := [], emptyWait := false }).seg g).clear := by
    rw [State.seg_editSeg_same]
    exact ⟨hup, hwindow, hout, rfl⟩
  unfold State.sendTurn
  generalize s.editSeg g (fun x => { x with sent := [], emptyWait := false }) = u at hbegin hclear ⊢
  have hanswered := (Segment.Cleared.editSeg u g
    (f := fun x => { x with answers := [], sent := x.sent ++ x.answers.map Answer.frame }) ⟨id, rfl⟩).1 hclear
  refine hbegin.trans ((sendAnswers u g).trans ?_)
  change ((u.sendAnswers g).seg g).clear at hanswered
  dsimp only
  generalize u.sendAnswers g = v at hanswered ⊢
  refine (sendConfigure g _ v).trans ((sendRelay _ g).trans ((pollStep ?_).trans
    (editSeg _ g (kept_of_eq rfl rfl rfl rfl rfl rfl rfl))))
  exact ((Segment.Cleared.sendConfigure g _ v).trans (Segment.Cleared.sendRelay _ g)).1 hanswered

theorem execSendTurn {s : State} (g : Seg) (h : A.Hold s) :
    ∃ t, execSendTurn g s = .next t ∧ Moves A .between s .between t := by
  refine ⟨_, rfl, ?_⟩
  split_ifs with hready
  · exact event h (sendTurn hready)
  · exact refl _ s

/-! ### The window opens, and an empty cycle ends -/

theorem replyWindowOpen (g : Seg) (s : State) :
    ∃ t, execReplyWindowOpen g s = .next t ∧ Moves A p s p t := by
  refine ⟨_, rfl, ?_⟩
  split
  · exact refl p s
  · next addr hout =>
    refine editSeg s g
      { up := Iff.rfl, cfgList := rfl, relays := id, pollOut := nofun,
        poll := fun hlaw => ?_, window := fun w hw => Or.inr ?_ }
    · simp only [Segment.pollLaw, hout, Option.isNone_some, Bool.and_false, Bool.or_false,
        Bool.and_eq_true, bne_iff_ne, ne_eq, decide_eq_true_eq, Bool.false_or] at hlaw
      obtain ⟨⟨⟨-, hup⟩, hpolling⟩, hempty⟩ := hlaw
      simp only [Segment.pollLaw, hup, hempty]
      simp [hpolling]
    · rw [hout, ← Option.some.inj hw]

theorem emptyCycleEnd (g : Seg) (s : State) :
    ∃ t, execEmptyCycleEnd g s = .next t ∧ Moves A p s p t := by
  refine ⟨_, rfl, ?_⟩
  split_ifs with hempty
  · refine editSeg s g (kept_of_poll rfl rfl id rfl (fun _ => Or.inl) fun hlaw => ?_)
    simp only [Segment.pollLaw, Bool.and_eq_true, Bool.or_eq_true, hempty, Bool.not_true, Bool.false_eq_true,
      false_or, Option.isNone_iff_eq_none] at hlaw
    obtain ⟨-, hwindow, hout⟩ := hlaw
    simp [Segment.pollLaw, hwindow, hout]
  · exact refl p s

/-! ### SET SEGMENT and POLL CONTROL -/

theorem setSegmentRequest (args : List Octet) (s : State) : Moves A p s p (setSegmentRequest args s).state := by
  unfold Sys2Proof.Machine.setSegmentRequest
  split
  · split
    · exact refl p s
    · dsimp only
      split_ifs
      · unfold State.setSegment
        dsimp only
        split_ifs
        · dsimp only [accepted]
          exact editSeg s _ (kept_of_eq rfl rfl rfl rfl rfl rfl rfl)
        · exact refl p s
      · exact refl p s
  · exact refl p s

theorem pollControlRequest {act : Seg → State → State} (args : List Octet) {s : State} (h : A.Hold s)
    (hact : ∀ g, Moves A .within s .within (act g s)) :
    Moves A .between s .between (pollControlRequest act args s).state := by
  unfold Sys2Proof.Machine.pollControlRequest
  split
  · split
    · exact refl _ s
    · split_ifs
      · exact event h (hact _)
      · exact refl _ s
  · exact refl _ s

/-- POLL CONTROL, with an action that moves. -/
theorem pollControl {act : Seg → State → State} {mine : List Octet → Bool} {s : State} (h : A.Hold s)
    (hact : ∀ g, Moves A .within s .within (act g s)) :
    Moves A .between s .between (s.serve 0x06 mine (Sys2Proof.Machine.pollControlRequest act)) :=
  serve (fun args => pollControlRequest args h hact) (refl _ s)

/-- A polling state other than STOPPED does not matter to the laws; STOPPED needs no reply awaited. -/
theorem setPolling (s : State) (g : Seg) (polling : PollState)
    (h : (s.seg g).awaitsReply = true → polling ≠ .stopped) :
    Moves A p s p (s.editSeg g fun x => { x with polling := polling }) := by
  refine editSeg s g (kept_of_poll rfl rfl id rfl (fun _ => Or.inl) fun hlaw => ?_)
  simp only [Segment.pollLaw, Bool.and_eq_true] at hlaw ⊢
  obtain ⟨⟨hwin, -⟩, hempty⟩ := hlaw
  refine ⟨⟨hwin, ?_⟩, hempty⟩
  by_cases hawaits : (s.seg g).awaitsReply = true
  · simp [h hawaits]
  · simp only [Segment.awaitsReply, Bool.or_eq_true, not_or, Option.isSome_iff_ne_none, ne_eq,
      Decidable.not_not] at hawaits
    simp [hawaits.1, hawaits.2]

theorem stopNow (g : Seg) (s : State) : Moves A p s p (s.editSeg g Segment.stopNow) := by
  have hstop : s.editSeg g Segment.stopNow =
      if (s.seg g).polling = .stopped then s
      else s.editSeg g fun x =>
        { x with polling := if (s.seg g).awaitsReply = true then .stopping .window else .stopped } := by
    split_ifs with hstopped hawaits
    · exact State.editSeg_of_eq (by simp [Segment.stopNow, hstopped])
    · exact State.editSeg_congr (by simp [Segment.stopNow, hstopped, hawaits])
    · exact State.editSeg_congr (by simp [Segment.stopNow, hstopped, hawaits])
  rw [hstop]
  split_ifs with hstopped hawaits
  · exact refl p s
  · exact setPolling s g _ fun _ => PollState.noConfusion
  · exact setPolling s g _ fun h => absurd h hawaits

theorem stopAfterCycle (g : Seg) (s : State) : Moves A .within s .within (State.stopAfterCycle g s) := by
  unfold State.stopAfterCycle
  split_ifs
  · refine (readSegment s g).trans ?_
    dsimp only
    split_ifs with hawaits
    · exact setPolling _ g _ fun _ => PollState.noConfusion
    · refine setPolling _ g _ fun h => absurd ?_ hawaits
      rw [h]
      rfl
  · exact refl _ s

theorem startPolling (g : Seg) (s : State) : Moves A p s p (State.startPolling g s) := by
  unfold State.startPolling
  split_ifs
  · exact refl p s
  · exact (setPolling s g _ fun _ => PollState.noConfusion).trans (turnDueIfIdle ..)

end Moves

end Sys2Proof.Machine
end

section
/-! PROOF. Tickets, the Journal, the link, the requests on Station Entries and the passing of time, as
moves. -/

namespace Sys2Proof.Machine

namespace Moves

variable {A : Premises} {p : Phase}

/-! ### Tickets -/

theorem giveTicket {s : State} {k : Ticket} (h : A.Hold s)
    (hfree : (s.ticket s.dispatch.fillIndex).state = .free) (hstate : k.state = .opened)
    (hstops : k.stops = []) (hrem : k.remaining = k.capacity) :
    Moves A .between s .between (s.giveTicket k).state :=
  event h (of_round (.give k hfree hstate hstops hrem))

theorem giveOfStream {s : State} {k : Ticket} (h : A.Hold s) (hstate : k.state = .opened)
    (hstops : k.stops = []) (hrem : k.remaining = k.capacity) :
    Moves A .between s .between (s.giveOfStream k).state := by
  have hread := readStream (A := A) (p := .between) s k.stream
  unfold State.giveOfStream
  dsimp only
  split_ifs with hbad hloaded hfree
  · exact hread
  · exact hread
  · exact hread.trans (giveTicket (hread.hold h) hfree hstate hstops hrem)
  · exact hread

theorem giveTicketRequest (args : List Octet) {s : State} (h : A.Hold s) :
    Moves A .between s .between (giveTicketRequest args s).state := by
  unfold Sys2Proof.Machine.giveTicketRequest
  split
  · dsimp only
    split_ifs
    · exact giveOfStream h rfl rfl rfl
    · exact refl _ s
  · exact refl _ s

theorem recallTicketRequest (args : List Octet) {s : State} (h : A.Hold s) :
    Moves A .between s .between (recallTicketRequest args s).state := by
  unfold Sys2Proof.Machine.recallTicketRequest
  split
  · dsimp only
    split_ifs with hslot hstate
    · exact refl _ s
    · exact event h (of_round (.recalled _ (by omega) (by simpa using hstate)))
    · exact refl _ s
  · exact refl _ s

theorem retireTicketRequest (args : List Octet) (s : State) :
    Moves A p s p (retireTicketRequest args s).state := by
  unfold Sys2Proof.Machine.retireTicketRequest
  split
  · split_ifs with hslot hcomplete
    · exact refl p s
    · exact of_round (.retire _ hcomplete)
    · exact refl p s
  · exact refl p s

theorem readTicketRequest (args : List Octet) (s : State) :
    Moves A p s p (readTicketRequest args s).state := by
  unfold Sys2Proof.Machine.readTicketRequest
  split
  · dsimp only
    split_ifs
    · exact refl p s
    · exact refl p s
    · exact refl p s
  · exact refl p s

theorem holdExpiry {s : State} (h : A.Hold s) :
    ∃ t, execHoldExpiry s = .next t ∧ Moves A .between s .between t := by
  refine ⟨_, rfl, ?_⟩
  split_ifs with hdue
  · simp only [State.holdDue, Bool.and_eq_true] at hdue
    exact event h (of_round (.handBack _ hdue.1))
  · exact refl _ s

/-! ### The Journal -/

theorem journalFaults (j : Journal) (rs : List (Row JournalRecord)) (i : Nat) (s : State) :
    Moves A p s p (State.journalFaults j i rs s) := by
  induction rs generalizing i s with
  | nil => exact refl p s
  | cons r rs ih =>
    refine trans ?_ (ih (i + 1) _)
    split_ifs
    · exact tableFault s ..
    · exact refl p s

theorem readJournalRequest (args : List Octet) (s : State) :
    Moves A p s p (readJournalRequest args s).state := by
  unfold Sys2Proof.Machine.readJournalRequest
  split
  · split_ifs
    · exact journalFaults ..
    · exact refl p s
  · exact refl p s

end Moves

/-- Records released from the front leave the others in their order (R87). -/
theorem Journal.lawful_drop {j : Journal} (h : j.lawful) (n : Nat) :
    ({ j with records := j.records.drop n } : Journal).lawful := by
  obtain ⟨hslot, hrecords⟩ := h
  refine ⟨hslot, fun i r hr hgood => ?_⟩
  rw [List.getElem?_drop] at hr
  rw [hrecords (n + i) r hr hgood]
  have hcount : (j.records.drop n).length - 1 - i = j.records.length - 1 - (n + i) := by
    rw [List.length_drop]
    omega
  exact congrArg (fun m => j.counter - BitVec.ofNat 32 m) hcount.symm

/-- A record found upset is none that reads good (R89). -/
theorem Journal.lawful_upset {j : Journal} (h : j.lawful) (slot : Nat) (found : JournalRecord) :
    ({ j with records := j.upset slot found } : Journal).lawful := by
  obtain ⟨hslot, hrecords⟩ := h
  refine ⟨hslot, fun i r hr hgood => ?_⟩
  simp only [Journal.upset, List.getElem?_mapIdx, Option.map_eq_some_iff] at hr
  obtain ⟨r', hr', rfl⟩ := hr
  have hlength : (j.upset slot found).length = j.records.length := List.length_mapIdx
  rw [hlength]
  split_ifs at hgood ⊢
  · exact hrecords i r' hr' hgood

namespace Moves

variable {A : Premises} {p : Phase}

theorem releaseJournalRequest (args : List Octet) (s : State) :
    Moves A p s p (releaseJournalRequest args s).state := by
  unfold Sys2Proof.Machine.releaseJournalRequest
  split
  · refine of_aside (.journal (fun j => { j with records := j.records.drop _ }) ?_ fun h => Journal.lawful_drop h _)
    exact (List.drop_sublist _ _).length_le
  · exact refl p s

/-! ### The link -/

theorem supervisionExpiry (s : State) : ∃ t, execSupervisionExpiry s = .next t ∧ Moves A p s p t := by
  refine ⟨_, rfl, ?_⟩
  split
  · exact refl p s
  · dsimp only
    split_ifs
    · exact editLink s rfl rfl
    · exact ((editLink s rfl rfl).trans (raise ..)).trans (editLink _ rfl rfl)
    · exact refl p s

theorem management (s : State) (tag : Octet) (body : List Octet) :
    Moves A p s p (s.management tag body) := by
  have hresumed := (restartSupervision (A := A) (p := p) s).trans (resumeLink _)
  unfold State.management
  generalize s.restartSupervision.resumeLink = u at hresumed ⊢
  refine hresumed.trans ?_
  dsimp only
  split_ifs with hroom
  · refine trans (of_aside (.link _ (fun _ => ?_) id)) (takeRequest _)
    rw [List.length_append, List.length_singleton]
    exact hroom
  · exact countLink u _

theorem dropRelay (s : State) : Moves A p s p s.dropRelay := countLink s _

theorem queueRelay {s : State} {g : Seg} (r : DownRelay) (hroom : (s.seg g).relays.length < 8) :
    Moves A p s p (s.queueRelay g r) := by
  have hjoin {u : State} (hu : (u.seg g).relays.length < 8) :
      Moves A p u p (u.editSeg g fun x => { x with relays := x.relays ++ [r] }) := by
    refine editSeg u g (kept_of_poll rfl rfl (fun _ => ?_) rfl (fun _ => Or.inl) id)
    rw [List.length_append, List.length_singleton]
    exact hu
  unfold State.queueRelay
  dsimp only
  split_ifs with hempty
  · refine (turnDueIfIdle s g).trans (hjoin ?_)
    rw [State.turnDueIfIdle, State.seg_editSeg_same]
    split_ifs
    · exact hroom
    · exact hroom
  · exact hjoin hroom

theorem relayDown (s : State) (addr : Nat) (body : List Octet) :
    Moves A .within s .within (s.relayDown addr body) := by
  unfold State.relayDown
  split
  · exact dropRelay s
  · split_ifs
    · exact dropRelay s
    · refine (readStation s addr).trans ?_
      dsimp only
      split_ifs with hstate hfull
      · exact dropRelay _
      · exact dropRelay _
      · exact queueRelay _ (Nat.not_le.1 hfull)

theorem routeLink (s : State) (addr cls tag : Octet) (body : List Octet) :
    Moves A .within s .within (s.routeLink addr cls tag body) := by
  unfold State.routeLink
  refine (countLink s fun c => { c with received := satInc16 c.received }).trans ?_
  dsimp only
  split_ifs
  · exact management ..
  · exact relayDown ..
  · exact countLink ..

theorem setLinkRx (s : State) (rx : LinkRx) : Moves A p s p (s.setLinkRx rx) := editLink s rfl rfl

theorem completeLink (s : State) (os : List Octet) : Moves A .within s .within (s.completeLink os) := by
  unfold State.completeLink
  dsimp only
  split_ifs
  · split
    · exact routeLink ..
    · exact refl _ s
  · exact countLink ..

theorem addLinkOctet (s : State) (os : List Octet) : Moves A .within s .within (s.addLinkOctet os) := by
  unfold State.addLinkOctet
  split
  · dsimp only
    split_ifs
    · exact (setLinkRx s _).trans (countLink ..)
    · exact (setLinkRx s _).trans (completeLink ..)
    · exact setLinkRx s _
  · exact setLinkRx s _

theorem takeLinkChar (s : State) (c : LinkChar) : Moves A .within s .within (s.takeLinkChar c) := by
  unfold State.takeLinkChar
  split
  · split_ifs
    · exact setLinkRx s _
    · exact refl _ s
  · split_ifs
    · exact setLinkRx s _
    · exact refl _ s
    · exact setLinkRx s _
  · split_ifs
    · exact addLinkOctet s _
    · exact (setLinkRx s _).trans (countLink ..)

theorem uplink (s : State) : Moves A p s p s.uplink := by
  unfold State.uplink
  split
  · exact ((editMgmt s _).trans (beginFrame ..)).trans (takeRequest _)
  · split_ifs
    · refine trans (editNotices s fun h => ?_) (beginFrame ..)
      exact (List.drop_sublist _ _).length_le.trans h
    · split
      · next r rest hq =>
        refine trans (of_aside (.link _ id fun h => ?_)) (beginFrame ..)
        rw [hq, List.length_cons] at h
        exact (Nat.le_succ _).trans h
      · exact editLink s rfl rfl

theorem unknownRequest (s : State) : ∃ t, execUnknownRequest s = .next t ∧ Moves A p s p t := by
  refine ⟨_, rfl, ?_⟩
  split
  · exact refl p s
  · split
    · exact reply s ..
    · split_ifs
      · exact refl p s
      · exact reply s ..

/-! ### The requests on Station Entries -/

theorem loadStation (s : State) (addr count interval deadline : Nat) :
    Moves A p s p (s.loadStation addr count interval deadline).state := by
  have hunlist {e : Station} (hstate : e.state = .unconfigured ∨ e.state = .cutOff ∧
      (s.seg (segOf addr)).state = .down) (hloaded : e.loaded = true) (hawaiting : e.awaiting = false) :
      Moves A p s p ((s.leaveConfigure addr).putStation addr (Row.good e)) := by
    refine of_aside (.unlist addr _ fun _ => ⟨hawaiting, Or.inr (Or.inr ?_)⟩)
    rcases hstate with hs | ⟨hs, hdown⟩
    · exact Or.inl ⟨hs, hloaded⟩
    · exact Or.inr (Or.inl ⟨hs, hloaded, hdown⟩)
  unfold State.loadStation
  split_ifs with hrefused
  · exact refl p s
  · dsimp only [accepted]
    by_cases hdown : (s.seg (segOf addr)).state = .down
    · simp only [hdown, decide_true, if_true]
      exact hunlist (Or.inr ⟨rfl, hdown⟩) rfl rfl
    · simp only [hdown, decide_false, if_false]
      exact (hunlist (Or.inl rfl) rfl rfl).trans (turnDueIfIdle ..)

theorem loadStationRequest (args : List Octet) (s : State) :
    Moves A .within s .within (loadStationRequest args s).state := by
  unfold Sys2Proof.Machine.loadStationRequest
  split
  · dsimp only
    split_ifs
    · exact (readStation s _).trans (loadStation ..)
    · exact refl _ s
  · exact refl _ s

theorem removeStation (s : State) (addr : Nat) :
    Moves A .within s .within (s.removeStation addr).state := by
  unfold State.removeStation
  split_ifs
  · exact (unloadStation s addr).trans (of_aside (.unlist addr _ fun _ =>
      ⟨rfl, Or.inr (Or.inr (Or.inr (Or.inr ⟨rfl, rfl⟩)))⟩))
  · exact refl _ s

theorem removeStationRequest (args : List Octet) (s : State) :
    Moves A .within s .within (removeStationRequest args s).state := by
  unfold Sys2Proof.Machine.removeStationRequest
  split
  · split_ifs
    · exact (readStation s _).trans (removeStation ..)
    · exact refl _ s
  · exact refl _ s

theorem readStationRequest (args : List Octet) (s : State) :
    Moves A .within s .within (readStationRequest args s).state := by
  unfold Sys2Proof.Machine.readStationRequest
  split
  · split_ifs
    · unfold State.reportStation
      split_ifs
      · exact readStation s _
      · exact readStation s _
    · exact refl _ s
  · exact refl _ s

theorem clearStationErrors (s : State) (addr : Nat) (named : Octet) (counts : Bool) :
    Moves A p s p (s.clearStationErrors addr named counts).state := by
  unfold State.clearStationErrors
  dsimp only
  by_cases hloaded : (s.station addr).loaded = true
  · rw [if_pos hloaded]
    dsimp only [accepted]
    exact editStation s addr ⟨rfl, rfl, rfl⟩
  · rw [if_neg hloaded]
    exact refl p s

theorem clearStationErrorsRequest (args : List Octet) (s : State) :
    Moves A .within s .within (clearStationErrorsRequest args s).state := by
  unfold Sys2Proof.Machine.clearStationErrorsRequest
  split
  · split
    · exact refl _ s
    · split_ifs
      · exact (readStation s _).trans (clearStationErrors ..)
      · exact refl _ s
  · exact refl _ s

/-! ### Routes, the clock, the parameters and the status -/

theorem loadKindRequest (args : List Octet) (s : State) : Moves A p s p (loadKindRequest args s).state := by
  unfold Sys2Proof.Machine.loadKindRequest
  split
  · split_ifs
    · exact writeKind s ..
    · exact refl p s
  · exact refl p s

theorem setUnknownRouteRequest (args : List Octet) (s : State) :
    Moves A p s p (setUnknownRouteRequest args s).state := by
  unfold Sys2Proof.Machine.setUnknownRouteRequest
  split
  · dsimp only [accepted]
    exact editMgmt s _
  · exact refl p s

theorem setClockRequest (args : List Octet) (s : State) : Moves A p s p (setClockRequest args s).state := by
  unfold Sys2Proof.Machine.setClockRequest
  split
  · split_ifs
    · exact of_aside (.outside s.window s.params s.seconds _ s.capture)
    · exact refl p s
  · exact refl p s

theorem setParametersRequest (args : List Octet) (s : State) :
    Moves A p s p (setParametersRequest args s).state := by
  unfold Sys2Proof.Machine.setParametersRequest
  split
  · exact trans (of_aside (.outside s.window _ s.seconds s.clock s.capture)) (restartSupervision _)
  · exact refl p s

theorem readStatusRequest (args : List Octet) (s : State) :
    Moves A p s p (readStatusRequest args s).state := by
  unfold Sys2Proof.Machine.readStatusRequest
  split
  · split
    · exact refl p s
    · dsimp only [accepted]
      split_ifs
      · exact countLink s _
      · exact refl p s
  · exact refl p s

theorem readFaultCaptureRequest (args : List Octet) (s : State) :
    Moves A p s p (readFaultCaptureRequest args s).state := by
  unfold Sys2Proof.Machine.readFaultCaptureRequest
  split
  · exact of_aside (.outside s.window s.params s.seconds s.clock none)
  · exact refl p s

/-! ### Time -/

theorem coalescingExpiry (s : State) : ∃ t, execCoalescingExpiry s = .next t ∧ Moves A p s p t := by
  refine ⟨_, rfl, ?_⟩
  split
  · exact refl p s
  · split_ifs
    · exact editNotices s id
    · exact refl p s

/-- A row that is disturbed reads good no longer (log entry 3). -/
theorem upset (s : State) (u : Upset) : Moves A p s p (s.upset u) := by
  unfold State.upset
  split_ifs with hrow
  · cases u with
    | station addr found => exact of_aside (.station addr _ nofun)
    | container row found =>
      simp only [Upset.wellFormed, Bool.and_eq_true, decide_eq_true_eq] at hrow
      exact of_round (.upset row found hrow.1)
    | stream code found => exact of_aside (.stream code _)
    | series n found => exact of_aside (.series n _)
    | window found => exact of_aside (.outside _ s.params s.seconds s.clock s.capture)
    | card row found => exact of_aside (.card row _ nofun)
    | kind k route => exact of_aside (.kind k _)
    | journal slot found =>
      refine of_aside (.journal _ (Nat.le_of_eq ?_) fun h => Journal.lawful_upset h slot found)
      exact List.length_mapIdx
  · exact refl p s

theorem secondsAdvance (upsets : List Upset) (s : State) : Moves A p s p (upsets.foldl State.upset s.tick) :=
  trans (of_aside (.outside s.window s.params _ _ s.capture)) (foldl upset upsets _)

end Moves

end Sys2Proof.Machine
end

section
/-! PROOF. Every command but the two resets is made of moves; and so a law that holds at the resets and is kept
by every move is kept by every step. -/

namespace Sys2Proof.Machine

/-- The two commands that reset the part. -/
def resets : Instr → Bool
  | .coldReset _ => true
  | .restart => true
  | _ => false

/-- An event of the link: the characters, and what they have made due (R159). -/
theorem Moves.downlink {A : Premises} {s : State} (chars : List LinkChar) (h : A.Hold s) :
    Moves A .between s .between (chars.foldl State.takeLinkChar s).endEvent :=
  event h (foldl takeLinkChar chars s)

/-- A command that is no reset is moves, from between events to between events. -/
theorem exec_moves {A : Premises} {c : Instr} {s : State} (h : A.Hold s) (hc : resets c = false) :
    ∃ t, exec c s = .next t ∧ Moves A .between s .between t := by
  have request {code : Octet} {mine : List Octet → Bool} {f : List Octet → State → Answered}
      (hf : ∀ args, Moves A .between s .between (f args s).state) :
      ∃ t, (Host.Outcome.next (s.serve code mine f) : Result State) = .next t ∧ Moves A .between s .between t :=
    ⟨_, rfl, Moves.serve hf (Moves.refl _ s)⟩
  have requestEvent {code : Octet} {mine : List Octet → Bool} {f : List Octet → State → Answered}
      (hf : ∀ args, Moves A .within s .within (f args s).state) :
      ∃ t, (Host.Outcome.next (s.serve code mine f).endEvent : Result State) = .next t ∧
        Moves A .between s .between t :=
    ⟨_, rfl, Moves.serveEvent h hf⟩
  cases c with
  | coldReset high => exact absurd hc.symm Bool.false_ne_true
  | restart => exact absurd hc.symm Bool.false_ne_true
  | secondsCountAdvance upsets => exact ⟨_, rfl, Moves.secondsAdvance upsets s⟩
  | pendingExpiry => exact ⟨_, rfl, Moves.event h (Moves.expires _ List.filter_sublist)⟩
  | firstLiftExpiry row =>
    exact ⟨_, rfl, Moves.liftExpiry h fun _ hl hs => Moves.stallLift hl hs⟩
  | secondLiftExpiry row =>
    exact ⟨_, rfl, Moves.liftExpiry h fun hgood hl _ => Moves.abandonLift hgood hl⟩
  | holdExpiry => exact Moves.holdExpiry h
  | supervisionExpiry => exact Moves.supervisionExpiry s
  | coalescingExpiry => exact Moves.coalescingExpiry s
  | downlinkFrameReceived chars => exact ⟨_, rfl, Moves.downlink chars h⟩
  | uplinkSend => exact ⟨_, rfl, Moves.uplink s⟩
  | unknownRequest => exact Moves.unknownRequest s
  | loadStation => exact requestEvent fun args => Moves.loadStationRequest args s
  | removeStation => exact requestEvent fun args => Moves.removeStationRequest args s
  | readStation => exact requestEvent fun args => Moves.readStationRequest args s
  | clearStationErrors => exact requestEvent fun args => Moves.clearStationErrorsRequest args s
  | setSegment => exact request fun args => Moves.setSegmentRequest args s
  | pollControlNone => exact ⟨_, rfl, Moves.pollControl h fun _ => Moves.refl _ s⟩
  | pollControlStopNow => exact ⟨_, rfl, Moves.pollControl h fun g => Moves.stopNow g s⟩
  | pollControlStopAfterCycle => exact ⟨_, rfl, Moves.pollControl h fun g => Moves.stopAfterCycle g s⟩
  | pollControlStart => exact ⟨_, rfl, Moves.pollControl h fun g => Moves.startPolling g s⟩
  | loadStreamLoad =>
    exact request (Moves.loadStreamRequest fun stream charged => Moves.streamLoad stream charged s)
  | loadStreamUnload =>
    exact requestEvent (Moves.loadStreamRequest fun stream charged => Moves.streamUnload stream charged s)
  | loadContainerLoad => exact requestEvent fun args => Moves.containerLoadRequest args s
  | loadContainerUnload => exact requestEvent fun args => Moves.containerUnloadRequest args s
  | setContainerServiceOut =>
    exact requestEvent fun args => Moves.serviceRequest (fun _ _ hl => Moves.serviceOut hl) args s
  | setContainerServiceIn =>
    exact requestEvent fun args => Moves.serviceRequest (fun _ _ hl => Moves.serviceIn hl) args s
  | readContainer => exact request fun args => Moves.readContainerRequest args h
  | clearContainerFlags => exact requestEvent fun args => Moves.clearContainerFlagsRequest args s
  | loadSeries => exact request fun args => Moves.loadSeriesRequest args s
  | loadWindow => exact request fun args => Moves.loadWindowRequest args s
  | loadCards => exact request fun args => Moves.loadCardsRequest args s
  | adjustBalance => exact request fun args => Moves.adjustBalanceRequest args s
  | readCard => exact request fun args => Moves.readCardRequest args s
  | giveTicket => exact request fun args => Moves.giveTicketRequest args h
  | recallTicket => exact request fun args => Moves.recallTicketRequest args h
  | retireTicket => exact request fun args => Moves.retireTicketRequest args s
  | readTicket => exact request fun args => Moves.readTicketRequest args s
  | readJournal => exact request fun args => Moves.readJournalRequest args s
  | releaseJournal => exact request fun args => Moves.releaseJournalRequest args s
  | loadKind => exact request fun args => Moves.loadKindRequest args s
  | setUnknownRoute => exact request fun args => Moves.setUnknownRouteRequest args s
  | setClock => exact request fun args => Moves.setClockRequest args s
  | setParameters => exact request fun args => Moves.setParametersRequest args s
  | readStatus => exact request fun args => Moves.readStatusRequest args s
  | readFaultCapture => exact request fun args => Moves.readFaultCaptureRequest args s
  | segmentFrameReceived g chars => exact ⟨_, rfl, Moves.hearChars g chars h⟩
  | replyTimeout g => exact Moves.replyTimeout g h
  | lineLow g => exact Moves.lineLow g h
  | segmentDown g => exact Moves.segmentDown g s
  | busResetBreak g => exact Moves.busResetBreak g s
  | busResetBreakEnd g => exact Moves.busResetBreakEnd g s
  | sendTurn g => exact Moves.execSendTurn g h
  | replyWindowOpen g => exact Moves.replyWindowOpen g s
  | emptyCycleEnd g => exact Moves.emptyCycleEnd g s
  | breakOver g => exact Moves.breakOver g h

/-! ### The warm restart -/

/-- RESTART answers what it carries, or restarts the part (R172). -/
theorem execRestart_cases {s t : State} (h : execRestart s = .next t) :
    t = s ∨ (∃ r, t = s.reply r 0x56 .length []) ∨ ∃ tag, t = s.restarted tag := by
  obtain rfl := Host.Outcome.next.inj h
  unfold State.serve
  split
  · exact Or.inl rfl
  · next r hr =>
    split
    · exact Or.inl rfl
    · next c args hbody =>
      split_ifs with hc
      · simp only [Bool.and_eq_true, decide_eq_true_eq] at hc
        obtain ⟨rfl, -⟩ := hc
        cases args with
        | nil =>
          refine Or.inr (Or.inr ⟨r.tag, ?_⟩)
          have hcarries : s.Carries r.tag [0x56] := by
            rw [State.Carries, hr, ← hbody]
          have hexec := Host.Outcome.next.inj (exec_restart_eq hcarries)
          rw [← hexec]
          simp only [State.serve, hr, hbody, anyArgs, decide_true, Bool.and_self, if_true]
        | cons a args => exact Or.inr (Or.inl ⟨r, rfl⟩)
      · exact Or.inl rfl

/-! ### A law that every move keeps -/

/-- What a proof that every step keeps a law comes to: the premises its moves have, what holds of a state
within an event, that every move keeps it, and the two resets. -/
structure Law (A : Premises) (L : State → Prop) (I : Phase → State → Prop) : Prop where
  hold : ∀ s, L s → A.Hold s
  enters : ∀ s, L s → I .between s
  leaves : ∀ s, I .between s → L s
  move : ∀ {p s q t}, Move A p s q t → I p s → I q t
  pending : ∀ s l, L s → L { s with pending := l }
  cold : ∀ high, L (State.cold high)
  restart : ∀ s tag, L s → L (s.restarted tag)

theorem Law.step {A : Premises} {L : State → Prop} {I : Phase → State → Prop} (law : Law A L I) (s t : State)
    (hs : L s) (h : step s = .next t) : L t := by
  cases hpending : s.pending with
  | nil =>
    rw [step_of_nil hpending] at h
    exact Host.Outcome.next.inj h ▸ hs
  | cons c rest =>
    rw [step_of_cons hpending] at h
    have hu := law.pending s rest hs
    generalize ({ s with pending := rest } : State) = u at h hu
    by_cases hc : resets c = true
    · cases c with
      | coldReset high =>
        obtain rfl := Host.Outcome.next.inj h
        exact law.pending _ _ (law.cold high)
      | restart =>
        obtain rfl | ⟨r, rfl⟩ | ⟨tag, rfl⟩ := execRestart_cases h
        · exact hu
        · exact law.leaves _ (law.move (.aside .between (.mgmt _)) (law.enters _ hu))
        · exact law.restart u tag hu
      | _ => exact absurd hc Bool.false_ne_true
    · obtain ⟨t', ht', hmoves⟩ := exec_moves (law.hold u hu) (by simpa using hc)
      obtain rfl := Host.Outcome.next.inj (ht'.symm.trans h)
      exact law.leaves _ (hmoves.keeps law.move (law.enters u hu))

end Sys2Proof.Machine
end

section
/-! PROOF. Every step keeps the tables canonical, the queues within their sizes and the poll law. -/

namespace Sys2Proof.Machine

/-- No premise. -/
def Premises.none : Premises := { own := False, apart := False, once := False }

theorem Premises.none_hold (s : State) : Premises.none.Hold s := ⟨False.elim, False.elim, False.elim⟩

/-! ### The tables -/

theorem State.tablesCanonical_iff {s : State} : s.tablesCanonical = true ↔
    Table.wf (Row.good Station.cold) s.stations = true ∧
    Table.wf (Row.good Container.unloaded) s.containers = true ∧
    Table.wf (Row.good StreamEntry.cold) s.streams = true ∧
    Table.wf (Row.good SeriesEntry.cold) s.series = true ∧
    Table.wf (Row.good CardRow.cold) s.cards = true ∧ Table.wf (Row.good 0) s.kinds = true ∧
    Table.wf Ticket.free s.tickets = true := by
  simp only [State.tablesCanonical, Bool.and_eq_true, and_assoc]

namespace State

variable {s : State}

theorem canonical_putStation (h : s.tablesCanonical = true) (addr : Nat) (r : Row Station) :
    (s.putStation addr r).tablesCanonical = true := by
  rw [tablesCanonical_iff] at h ⊢
  exact h.imp_left (Table.wf_set _ _ _)

theorem canonical_putStream (h : s.tablesCanonical = true) (code : Nat) (r : Row StreamEntry) :
    (s.putStream code r).tablesCanonical = true := by
  rw [tablesCanonical_iff] at h ⊢
  exact h.imp_right (And.imp_right (And.imp_left (Table.wf_set _ _ _)))

theorem canonical_putSeries (h : s.tablesCanonical = true) (n : Nat) (r : Row SeriesEntry) :
    (s.putSeries n r).tablesCanonical = true := by
  rw [tablesCanonical_iff] at h ⊢
  exact h.imp_right (And.imp_right (And.imp_right (And.imp_left (Table.wf_set _ _ _))))

theorem canonical_putKind (h : s.tablesCanonical = true) (k : Nat) (r : Row Nat) :
    (s.putKind k r).tablesCanonical = true := by
  rw [tablesCanonical_iff] at h ⊢
  exact h.imp_right (And.imp_right (And.imp_right (And.imp_right (And.imp_right
    (And.imp_left (Table.wf_set _ _ _))))))

theorem canonical_putCard (h : s.tablesCanonical = true) (row : Nat) (r : Row CardRow) :
    (s.putCard row r).tablesCanonical = true := (Yields.putCard s row r).tables h

theorem canonical_editSeg (h : s.tablesCanonical = true) (g : Seg) (f : Segment → Segment) :
    (s.editSeg g f).tablesCanonical = true := by
  cases g
  · exact h
  · exact h

theorem canonical_editSegStations (h : s.tablesCanonical = true) (g : Seg) (f : Station → Station) :
    (s.editSegStations g f).tablesCanonical = true := by
  unfold editSegStations
  generalize segAddrs g = l
  induction l generalizing s with
  | nil => exact h
  | cons addr l ih => exact ih (canonical_putStation h addr _)

theorem canonical_stationsRestarted (h : s.tablesCanonical = true) :
    s.stationsRestarted.tablesCanonical = true := by
  have hrestart {u : State} (hu : u.tablesCanonical = true) (g : Seg) :
      (u.restartStations g).tablesCanonical = true := canonical_editSegStations hu g _
  exact hrestart (hrestart h .a) .b

theorem canonical_segmentsRestarted (h : s.tablesCanonical = true) :
    s.segmentsRestarted.tablesCanonical = true := by
  have hsegments := canonical_editSeg (canonical_editSeg h .a Segment.restart) .b Segment.restart
  rw [tablesCanonical_iff] at hsegments ⊢
  obtain ⟨hstations, hcontainers, hstreams, hseries, hcards, hkinds, -⟩ := hsegments
  exact ⟨hstations, hcontainers, hstreams, hseries, hcards, hkinds, rfl⟩

end State

theorem Aside.canonical {A : Premises} {s t : State} (h : Aside A s t) (hs : s.tablesCanonical = true) :
    t.tablesCanonical = true := by
  cases h with
  | outside | link | mgmt | notices | journal => exact hs
  | stream code r => exact State.canonical_putStream hs code r
  | series n r => exact State.canonical_putSeries hs n r
  | kind k r => exact State.canonical_putKind hs k r
  | segment g f => exact State.canonical_editSeg hs g f
  | station addr r => exact State.canonical_putStation hs addr r
  | stationState addr f => exact State.canonical_putStation hs addr _
  | join addr => exact State.canonical_putStation (State.canonical_editSeg hs _ _) addr _
  | unlist addr r => exact State.canonical_putStation (State.canonical_editSeg hs _ _) addr r
  | goDown g => exact State.canonical_editSegStations (State.canonical_editSeg hs g _) g _
  | comeUp g => exact State.canonical_editSegStations (State.canonical_editSeg hs g _) g _
  | card row r => exact State.canonical_putCard hs row r
  | grant d c => exact State.canonical_putCard (s := s.editDeposits fun ds => ds ++ [d]) hs d.cardRow _
  | conclude d c j => exact State.canonical_putCard (s := { s with journal := j }) hs d.cardRow _

theorem Move.canonical {A : Premises} {p q : Phase} {s t : State} (h : Move A p s q t)
    (hs : s.tablesCanonical = true) : t.tablesCanonical = true := by
  cases h with
  | aside p h => exact h.canonical hs
  | round h => exact h.yields.tables hs

theorem State.canonical_restarted {s : State} (h : s.tablesCanonical = true) (tag : Octet) :
    (s.restarted tag).tablesCanonical = true := by
  have htables : s.tablesRestarted.tablesCanonical = true := by
    rw [State.tablesCanonical_iff] at h ⊢
    obtain ⟨hstations, hcontainers, hstreams, hseries, hcards, hrest⟩ := h
    exact ⟨hstations, Table.wf_mapRows _ _ hcontainers, hstreams, hseries, Table.wf_mapRows _ _ hcards, hrest⟩
  have hstations : s.tablesRestarted.stationsRestarted.tablesCanonical = true :=
    State.canonical_stationsRestarted htables
  have hparts : s.partsRestarted.tablesCanonical = true := State.canonical_segmentsRestarted hstations
  have hlist := (State.Yields.rebuildList s.partsRestarted).tables hparts
  unfold State.restarted
  generalize s.partsRestarted.rebuildList = u at hlist ⊢
  exact hlist

theorem canonical_law : Law Premises.none (fun s => s.tablesCanonical = true)
    fun _ s => s.tablesCanonical = true where
  hold s _ := Premises.none_hold s
  enters _ := id
  leaves _ := id
  move := Move.canonical
  pending _ _ := id
  cold _ := rfl
  restart _ tag h := State.canonical_restarted h tag

/-- Settles O3: a write of a row keeps its table canonical, and every move is of such writes. -/
theorem stepKeepsTablesCanonical : Obligations.StepKeepsTablesCanonical := canonical_law.step

/-! ### What an aside makes of a segment -/

/-- A segment after an aside: kept, with another configure list, gone DOWN, or restored. -/
def Segment.Moved (g : Seg) (x y : Segment) : Prop :=
  Segment.Kept g x y ∨ (∃ l, y = { x with cfgList := l }) ∨ (x.pollOut = none ∧ y = x.goDown) ∨
    (x.state = .restoring ∧ y = { x with state := .up, quietRestore := false })

theorem Segment.Moved.refl (g : Seg) (x : Segment) : Segment.Moved g x x := Or.inr (Or.inl ⟨x.cfgList, rfl⟩)

/-- One segment is touched by an edit, and not the other. -/
theorem Segment.Moved.editSeg {s t : State} {k : Seg} {f : Segment → Segment}
    (ht : ∀ g, t.seg g = (s.editSeg k f).seg g) (hf : Segment.Moved k (s.seg k) (f (s.seg k))) (g : Seg) :
    Segment.Moved g (s.seg g) (t.seg g) := by
  rw [ht, State.seg_editSeg]
  by_cases hg : g = k
  · subst hg
    rw [if_pos rfl]
    exact hf
  · rw [if_neg hg]
    exact .refl g _

theorem Aside.seg {A : Premises} {s t : State} (h : Aside A s t) (g : Seg) :
    Segment.Moved g (s.seg g) (t.seg g) := by
  cases h with
  | outside | link | mgmt | notices | stream | series | kind | station | stationState | card | journal |
      grant | conclude =>
    cases g
    · exact .refl _ _
    · exact .refl _ _
  | segment k f h => exact Segment.Moved.editSeg (fun _ => rfl) (Or.inl h) g
  | join addr h haddr =>
    exact Segment.Moved.editSeg (fun g => State.editStation_seg ..) (Or.inr (Or.inl ⟨_, rfl⟩)) g
  | unlist addr r h =>
    exact Segment.Moved.editSeg (fun g => State.putStation_seg ..) (Or.inr (Or.inl ⟨_, rfl⟩)) g
  | goDown k h =>
    exact Segment.Moved.editSeg (fun g => State.editSegStations_seg ..)
      (Or.inr (Or.inr (Or.inl ⟨h, rfl⟩))) g
  | comeUp k h =>
    exact Segment.Moved.editSeg (fun g => State.editSegStations_seg ..)
      (Or.inr (Or.inr (Or.inr ⟨h, rfl⟩))) g

theorem Round.seg {A : Premises} {p q : Phase} {s t : State} (h : Round A s p q t) (g : Seg) :
    t.seg g = s.seg g := (congrArg (State.seg · g) h.turned :)

/-! ### The queues -/

theorem State.queuesBounded_iff {s : State} : s.queuesBounded = true ↔
    s.notices.queue.length ≤ 64 ∧ s.link.requests.length ≤ 4 ∧ s.link.relays.length ≤ 16 ∧
      ∀ g, (s.seg g).relays.length ≤ 8 := by
  simp only [State.queuesBounded, Bool.and_eq_true, decide_eq_true_eq, and_assoc]
  refine and_congr_right fun _ => and_congr_right fun _ => and_congr_right fun _ => ?_
  exact ⟨fun h g => by cases g; exacts [h.1, h.2], fun h => ⟨h .a, h .b⟩⟩

theorem Segment.Moved.relays {g : Seg} {x y : Segment} (h : Segment.Moved g x y)
    (hx : x.relays.length ≤ 8) : y.relays.length ≤ 8 := by
  obtain h | ⟨l, rfl⟩ | ⟨-, rfl⟩ | ⟨-, rfl⟩ := h
  · exact h.relays hx
  · exact hx
  · exact Nat.zero_le 8
  · exact hx

/-- The queues of the link and of the notices after an aside. -/
theorem Aside.queues {A : Premises} {s t : State} (h : Aside A s t) :
    (s.notices.queue.length ≤ 64 → t.notices.queue.length ≤ 64) ∧
      (s.link.requests.length ≤ 4 → t.link.requests.length ≤ 4) ∧
      (s.link.relays.length ≤ 16 → t.link.relays.length ≤ 16) := by
  cases h with
  | outside | mgmt | stream | series | kind | station | stationState | card | journal | grant |
      conclude => exact ⟨id, id, id⟩
  | link f hrequests hrelays => exact ⟨id, hrequests, hrelays⟩
  | notices f h => exact ⟨h, id, id⟩
  | segment g f h =>
    cases g
    · exact ⟨id, id, id⟩
    · exact ⟨id, id, id⟩
  | join addr h haddr =>
    unfold State.joinConfigure
    cases segOf addr
    · exact ⟨id, id, id⟩
    · exact ⟨id, id, id⟩
  | unlist addr r h =>
    unfold State.leaveConfigure
    cases segOf addr
    · exact ⟨id, id, id⟩
    · exact ⟨id, id, id⟩
  | goDown g h =>
    have hrest := (s.editSeg g Segment.goDown).editSegStations_restored g Station.cut
    generalize (s.editSeg g Segment.goDown).editSegStations g Station.cut = t at hrest
    have hn : t.notices = s.notices := (congrArg State.notices hrest :).trans (State.editSeg_notices ..)
    have hl : t.link = s.link := (congrArg State.link hrest :).trans (State.editSeg_link ..)
    rw [hn, hl]
    exact ⟨id, id, id⟩
  | comeUp g h =>
    have hrest := (s.editSeg g fun x =>
      { x with state := .up, quietRestore := false }).editSegStations_restored g Station.uncut
    generalize (s.editSeg g fun x =>
      { x with state := .up, quietRestore := false }).editSegStations g Station.uncut = t at hrest
    have hn : t.notices = s.notices := (congrArg State.notices hrest :).trans (State.editSeg_notices ..)
    have hl : t.link = s.link := (congrArg State.link hrest :).trans (State.editSeg_link ..)
    rw [hn, hl]
    exact ⟨id, id, id⟩

theorem Move.queuesBounded {A : Premises} {p q : Phase} {s t : State} (h : Move A p s q t)
    (hs : s.queuesBounded = true) : t.queuesBounded = true := by
  rw [State.queuesBounded_iff] at hs ⊢
  obtain ⟨hnotices, hrequests, hrelays, hdown⟩ := hs
  cases h with
  | aside p h =>
    obtain ⟨hn, hq, hr⟩ := h.queues
    exact ⟨hn hnotices, hq hrequests, hr hrelays, fun g => (h.seg g).relays (hdown g)⟩
  | round h =>
    have hlink : t.link = s.link := (congrArg State.link h.turned :)
    rw [hlink]
    refine ⟨h.yields.queue hnotices, hrequests, hrelays, fun g => ?_⟩
    rw [h.seg]
    exact hdown g

theorem Segment.restart_relays (x : Segment) : x.restart.relays = [] := by
  unfold Segment.restart
  cases x.state <;> rfl

theorem queues_law : Law Premises.none (fun s => s.queuesBounded = true)
    fun _ s => s.queuesBounded = true where
  hold s _ := Premises.none_hold s
  enters _ := id
  leaves _ := id
  move := Move.queuesBounded
  pending _ _ := id
  cold _ := rfl
  restart s tag _ := by
    rw [State.queuesBounded_iff]
    refine ⟨?_, Nat.zero_le _, Nat.zero_le _, fun g => ?_⟩
    · exact (by omega : 1 ≤ 64)
    · rw [State.restarted_seg, Segment.restart_relays]
      exact Nat.zero_le _

/-- Settles O4: what joins a queue finds room in it, or displaces or is dropped. -/
theorem stepKeepsQueuesBounded : Obligations.StepKeepsQueuesBounded := queues_law.step

/-! ### The poll law -/

theorem State.pollLaw_iff {s : State} : s.pollLaw = true ↔ ∀ g, (s.seg g).pollLaw = true := by
  simp only [State.pollLaw, Bool.and_eq_true]
  exact ⟨fun h g => by cases g; exacts [h.1, h.2], fun h => ⟨h .a, h .b⟩⟩

/-- A segment without a window or a POLL is within the law. -/
theorem Segment.pollLaw_of_none {x : Segment} (hwindow : x.window = none) (hout : x.pollOut = none) :
    x.pollLaw = true := by
  simp [Segment.pollLaw, hwindow, hout]

theorem Segment.Moved.pollLaw {g : Seg} {x y : Segment} (h : Segment.Moved g x y) (hx : x.pollLaw = true) :
    y.pollLaw = true := by
  obtain h | ⟨l, rfl⟩ | ⟨hout, rfl⟩ | ⟨hrestoring, rfl⟩ := h
  · exact h.poll hx
  · exact hx
  · exact Segment.pollLaw_of_none rfl hout
  · simp only [Segment.pollLaw, hrestoring, Bool.and_eq_true, Bool.or_eq_true, Option.isNone_iff_eq_none,
      reduceCtorEq, decide_false, Bool.false_eq_true, false_and, or_false] at hx
    obtain ⟨⟨⟨hwindow, hout⟩, -⟩, -⟩ := hx
    exact Segment.pollLaw_of_none hwindow hout

theorem Segment.restart_quiet (x : Segment) : x.restart.window = none ∧ x.restart.pollOut = none := by
  unfold Segment.restart
  cases x.state <;> exact ⟨rfl, rfl⟩

theorem poll_law : Law Premises.none (fun s => s.pollLaw = true) fun _ s => s.pollLaw = true where
  hold s _ := Premises.none_hold s
  enters _ := id
  leaves _ := id
  move {p s q t} h hs := by
    rw [State.pollLaw_iff] at hs ⊢
    intro g
    cases h with
    | aside p h => exact (h.seg g).pollLaw (hs g)
    | round h => exact h.seg g ▸ hs g
  pending _ _ := id
  cold _ := rfl
  restart s tag _ := by
    rw [State.pollLaw_iff]
    intro g
    rw [State.restarted_seg]
    exact Segment.pollLaw_of_none (s.seg g).restart_quiet.1 (s.seg g).restart_quiet.2

/-- Settles O8: a window opens as its POLL has been sent, and a POLL is sent only in a turn that begins without
a window. -/
theorem stepKeepsPollLaw : Obligations.StepKeepsPollLaw := poll_law.step

end Sys2Proof.Machine
end

section
/-! PROOF. The Ticket Ring under the rounds: what each makes of the tickets and of the indices, and so the
ring law and the capacity law of every step. -/

namespace Sys2Proof.Machine

/-! ### The tickets after a round -/

/-- A ticket that becomes current starts its hold (R97). -/
theorem State.becomeCurrent_ticket (s : State) (n : Nat) :
    ∃ h, s.becomeCurrent.ticket n = { s.ticket n with holdStart := h } := by
  have hrow : s.becomeCurrent.ticket n = _ := State.ticket_putTicket s s.dispatch.dispatchIndex n
    { s.ticket s.dispatch.dispatchIndex with holdStart := some s.seconds }
  by_cases hn : n = s.dispatch.dispatchIndex
  · rw [if_pos hn, ← hn] at hrow
    exact ⟨_, hrow⟩
  · rw [if_neg hn] at hrow
    exact ⟨_, hrow⟩

/-- The advance starts the hold of the ticket it comes to rest at, and leaves the tickets otherwise (R97). -/
theorem State.advance_ticket (fuel : Nat) (s : State) (n : Nat) :
    ∃ h, (State.advance fuel s).ticket n = { s.ticket n with holdStart := h } := by
  induction fuel generalizing s with
  | zero => exact ⟨_, rfl⟩
  | succ fuel ih =>
    unfold State.advance
    dsimp only
    split_ifs
    · exact State.becomeCurrent_ticket (s.editDispatch fun x =>
        { x with dispatchIndex := (s.dispatch.dispatchIndex + 1) % 16 }) n
    · exact ⟨_, rfl⟩
    · exact ih _

theorem State.handBack_ticket (s : State) (cause : HandBackCause) (n : Nat) :
    ∃ h, (s.handBack cause).ticket n =
      { (if n = s.dispatch.dispatchIndex then s.currentTicket.handedBack cause else s.ticket n) with
        holdStart := h } := by
  obtain ⟨u, hadvance, hticket, -⟩ := s.handBack_eq_advance cause
  obtain ⟨h, hn⟩ := State.advance_ticket 16 u n
  exact ⟨h, by rw [hadvance, hn, hticket]⟩

theorem State.recall_ticket (s : State) (slot n : Nat) :
    ∃ h, (s.recall slot).ticket n =
      { (if n = slot then (s.ticket slot).recalled else s.ticket n) with holdStart := h } := by
  obtain ⟨-, htold, -, -⟩ := s.recallTold_spec slot
  by_cases hcurrent : s.running = true ∧ s.dispatch.dispatchIndex = slot
  · obtain ⟨h, hn⟩ := State.advance_ticket 16 (s.recallTold slot) n
    exact ⟨h, by rw [State.recall_of_current hcurrent.1 hcurrent.2, hn, htold]⟩
  · rw [State.recall_of_not_current (by rwa [not_and_or, Bool.not_eq_true] at hcurrent)]
    exact ⟨_, htold n⟩

theorem State.placed_ticket_held (s : State) (k : Ticket) (n : Nat) :
    ∃ h, (if !s.running then (s.placed k).becomeCurrent else s.placed k).ticket n =
      { (if n = s.dispatch.fillIndex then k else s.ticket n) with holdStart := h } := by
  rw [← State.placed_ticket s k n]
  by_cases hrun : (!s.running) = true
  · rw [if_pos hrun]
    exact State.becomeCurrent_ticket ..
  · rw [if_neg hrun]
    exact ⟨_, rfl⟩

theorem State.tell_ticket_eq (s : State) (row : Nat) (was : Container) (n : Nat) :
    (s.tell row was).ticket n = s.ticket n :=
  congrArg (fun t => Table.get Ticket.free t n) (s.tell_ring row was).1

/-! ### The indices -/

/-- The dispatch index is at its place: at an OPEN ticket, or at the fill index (R97). -/
def State.ringHeld (s : State) : Prop :=
  s.dispatch.fillIndex < 16 ∧ s.dispatch.dispatchIndex < 16 ∧
    (s.currentTicket.state = .opened ∨ s.dispatch.dispatchIndex = s.dispatch.fillIndex)

theorem State.ringLaw_iff {s : State} : s.ringLaw ↔ s.ringHeld ∧ s.Settled := by
  unfold State.ringLaw State.ringHeld State.Settled
  rw [State.running_iff]
  tauto

/-- A ring whose current ticket stays OPEN, with its indices. -/
theorem State.ringHeld_of {s t : State} (h : s.ringHeld)
    (hfill : t.dispatch.fillIndex = s.dispatch.fillIndex)
    (hindex : t.dispatch.dispatchIndex = s.dispatch.dispatchIndex)
    (hticket : s.currentTicket.state = .opened → (t.ticket s.dispatch.dispatchIndex).state = .opened) :
    t.ringHeld := by
  obtain ⟨hf, hd, hplace⟩ := h
  unfold State.ringHeld State.currentTicket
  rw [hfill, hindex]
  exact ⟨hf, hd, hplace.imp_left hticket⟩

/-- The advance comes to rest at an OPEN ticket or at the fill index, within sixteen moves (R97). -/
theorem State.ringHeld_advance {s : State} (fuel : Nat) (hfill : s.dispatch.fillIndex < 16)
    (hindex : s.dispatch.dispatchIndex < 16)
    (hfuel : (s.dispatch.fillIndex + 15 - s.dispatch.dispatchIndex) % 16 < fuel) :
    (State.advance fuel s).ringHeld := by
  induction fuel generalizing s with
  | zero => exact absurd hfuel (Nat.not_lt_zero _)
  | succ fuel ih =>
    unfold State.advance
    dsimp only
    split_ifs with hopen hrest
    · refine ⟨hfill, Nat.mod_lt _ (by omega), Or.inl ?_⟩
      generalize (s.dispatch.dispatchIndex + 1) % 16 = m at hopen
      exact (congrArg Ticket.state ((State.ticket_putTicket (s.editDispatch fun x => { x with dispatchIndex := m })
        m m { s.ticket m with holdStart := some s.seconds }).trans (if_pos rfl))).trans hopen
    · exact ⟨hfill, Nat.mod_lt _ (by omega), Or.inr hrest⟩
    · refine ih hfill (Nat.mod_lt _ (by omega)) ?_
      change ¬ (s.dispatch.dispatchIndex + 1) % 16 = s.dispatch.fillIndex at hrest
      show (s.dispatch.fillIndex + 15 - (s.dispatch.dispatchIndex + 1) % 16) % 16 < fuel
      omega

/-! ### The ring law -/

theorem State.ringHeld_handBack {s : State} (h : s.ringHeld) (cause : HandBackCause) :
    (s.handBack cause).ringHeld := by
  obtain ⟨hfill, hindex, -⟩ := h
  obtain ⟨u, hadvance, -, hframe⟩ := s.handBack_eq_advance cause
  have htold : (s.toldHandBack cause).dispatch = s.dispatch := by
    unfold State.toldHandBack
    dsimp only
    split_ifs <;> rfl
  have hu : u.dispatch = s.dispatch := (congrArg State.dispatch hframe :).trans htold
  rw [hadvance]
  refine State.ringHeld_advance 16 ?_ ?_ ?_
  · rw [hu]
    exact hfill
  · rw [hu]
    exact hindex
  · exact Nat.mod_lt _ (by omega)

theorem State.ringHeld_recall {s : State} (h : s.ringHeld) (slot : Nat) : (s.recall slot).ringHeld := by
  obtain ⟨⟨l, j, p, cs, ts, htold⟩, hticket, -, -⟩ := s.recallTold_spec slot
  have hfill : (s.recallTold slot).dispatch.fillIndex = s.dispatch.fillIndex :=
    (congrArg (fun x : State => x.dispatch.fillIndex) htold :)
  have hindex : (s.recallTold slot).dispatch.dispatchIndex = s.dispatch.dispatchIndex :=
    (congrArg (fun x : State => x.dispatch.dispatchIndex) htold :)
  by_cases hcurrent : s.running = true ∧ s.dispatch.dispatchIndex = slot
  · rw [State.recall_of_current hcurrent.1 hcurrent.2]
    obtain ⟨hf, hd, -⟩ := h
    exact State.ringHeld_advance 16 (hfill ▸ hf) (hindex ▸ hd) (Nat.mod_lt _ (by omega))
  · rw [State.recall_of_not_current (by rwa [not_and_or, Bool.not_eq_true] at hcurrent)]
    refine State.ringHeld_of h hfill hindex fun hopen => ?_
    have hne : s.dispatch.dispatchIndex ≠ slot := fun heq => hcurrent ⟨State.running_iff.2 hopen, heq⟩
    rw [hticket, if_neg hne]
    exact hopen

/-- A ticket placed at a FREE slot leaves the current one, or becomes current itself (R97, R99). -/
theorem State.ringHeld_give {s : State} (h : s.ringHeld) {k : Ticket}
    (hfree : (s.ticket s.dispatch.fillIndex).state = .free) (hstate : k.state = .opened) :
    (if !s.running then (s.placed k).becomeCurrent else s.placed k).ringHeld := by
  obtain ⟨hfill, hindex, hplace⟩ := h
  obtain ⟨m, hm⟩ := State.placed_ticket_held s k s.dispatch.dispatchIndex
  have hopened : (if s.dispatch.dispatchIndex = s.dispatch.fillIndex then k
      else s.ticket s.dispatch.dispatchIndex).state = .opened := by
    rcases hplace with hopen | heq
    · rw [if_neg]
      · exact hopen
      · intro heq
        rw [State.currentTicket, heq, hfree] at hopen
        exact TicketState.noConfusion hopen
    · rw [if_pos heq]
      exact hstate
  have hindexed : (if !s.running then (s.placed k).becomeCurrent else s.placed k).dispatch.dispatchIndex =
      s.dispatch.dispatchIndex := by
    split_ifs <;> rfl
  refine ⟨?_, hindexed ▸ hindex, Or.inl ?_⟩
  · split_ifs
    · exact Nat.mod_lt _ (by omega)
    · exact Nat.mod_lt _ (by omega)
  · rw [State.currentTicket, hindexed, hm]
    exact hopened

theorem Round.ringHeld {A : Premises} {p q : Phase} {s t : State} (h : Round A s p q t) (hs : s.ringHeld) :
    t.ringHeld := by
  cases h with
  | start | takeUp | rest | container | upset | change | passTaken => exact hs
  | leave row slot st mass hst hgood ha =>
    have hdispatch := s.leavePlanned_dispatch row slot st mass
    refine State.ringHeld_of hs (congrArg Dispatch.fillIndex hdispatch)
      (congrArg Dispatch.dispatchIndex hdispatch) fun hopen => ?_
    rw [State.leavePlanned_ticket]
    split_ifs with hslot
    · exact Ticket.stopEnded_state_of_opened (hslot ▸ hopen) ..
    · exact hopen
  | tell row was =>
    obtain ⟨-, hfill, hindex⟩ := s.tell_ring row was
    refine State.ringHeld_of hs hfill hindex fun hopen => ?_
    rw [State.tell_ticket_eq]
    exact hopen
  | discharge row r =>
    have hdispatch := s.discharge_dispatch row r
    refine State.ringHeld_of hs (congrArg Dispatch.fillIndex hdispatch :)
      (congrArg Dispatch.dispatchIndex hdispatch :) fun hopen => ?_
    rw [State.discharge_ticket]
    split_ifs
    · exact Ticket.stopEnded_state_of_opened hopen ..
    · exact hopen
  | assign row vol =>
    refine State.ringHeld_of hs rfl rfl fun hopen => ?_
    rw [State.assign_ticket, if_pos rfl]
    exact hopen
  | handBack cause => exact State.ringHeld_handBack hs cause
  | recalled slot => exact State.ringHeld_recall hs slot
  | give k hfree hstate => exact State.ringHeld_give hs hfree hstate
  | retire slot hcomplete =>
    refine State.ringHeld_of hs rfl rfl fun hopen => ?_
    rw [State.ticket_putTicket, if_neg]
    · exact hopen
    · rintro rfl
      exact TicketState.noConfusion (hcomplete.symm.trans hopen)

/-- Between events no pass is due (R99). -/
theorem Move.settled {A : Premises} {p q : Phase} {s t : State} (h : Move A p s q t)
    (hs : p = .between → s.Settled) : q = .between → t.Settled := by
  cases h with
  | aside p h =>
    intro hp
    have hdispatch := h.unturned.2.2
    show t.dispatch.passDue = false
    rw [hdispatch]
    exact hs hp
  | round h =>
    cases h with
    | rest h => exact fun _ => h
    | container | upset | retire => exact hs
    | start | takeUp | change | leave | tell | discharge | assign | handBack | recalled | give | passTaken =>
      exact nofun

theorem Move.ringHeld {A : Premises} {p q : Phase} {s t : State} (h : Move A p s q t) (hs : s.ringHeld) :
    t.ringHeld := by
  cases h with
  | aside p h =>
    obtain ⟨-, htickets, hdispatch⟩ := h.unturned
    refine State.ringHeld_of hs (by rw [hdispatch]) (by rw [hdispatch]) fun hopen => ?_
    rw [State.ticket, htickets]
    exact hopen
  | round h => exact h.ringHeld hs

theorem State.restarted_ring (s : State) (tag : Octet) :
    (s.restarted tag).tickets = [] ∧ (s.restarted tag).dispatch.fillIndex = 0 ∧
      (s.restarted tag).dispatch.dispatchIndex = 0 ∧ (s.restarted tag).dispatch.passDue = false := by
  have hring := s.partsRestarted_rebuilt.ring
  have hlist := s.listRestarted_eq
  rw [s.partsRestarted_dispatch] at hring
  unfold State.restarted
  generalize s.partsRestarted.rebuildList = u at hring hlist ⊢
  exact ⟨(congrArg State.tickets hlist :), (congrArg Dispatch.fillIndex hring :),
    (congrArg Dispatch.dispatchIndex hring :), (congrArg Dispatch.passDue hring :)⟩

theorem State.restarted_ringLaw (s : State) (tag : Octet) : (s.restarted tag).ringLaw := by
  obtain ⟨-, hfill, hindex, hdue⟩ := s.restarted_ring tag
  refine ⟨hfill ▸ (by omega : 0 < 16), hindex ▸ (by omega : 0 < 16), hdue, Or.inr (hindex.trans hfill.symm)⟩

theorem ring_law : Law Premises.none State.ringLaw fun p s => s.ringHeld ∧ (p = .between → s.Settled) where
  hold s _ := Premises.none_hold s
  enters s h := by
    obtain ⟨hring, hdue⟩ := State.ringLaw_iff.1 h
    exact ⟨hring, fun _ => hdue⟩
  leaves s h := State.ringLaw_iff.2 ⟨h.1, h.2 rfl⟩
  move h hs := ⟨h.ringHeld hs.1, h.settled hs.2⟩
  pending _ _ := id
  cold := State.cold_ringLaw
  restart s tag _ := s.restarted_ringLaw tag

/-- Settles O6: every advance comes to rest, and an event ends with no pass due. -/
theorem stepKeepsRingLaw : Obligations.StepKeepsRingLaw := ring_law.step

/-! ### The capacity law -/

theorem endStop_volumes (row : Nat) (st : StopStatus) (mass : Option Nat) (l : List Stop) :
    (endStop row st mass l).map (·.volume) = l.map (·.volume) := by
  induction l with
  | nil => rfl
  | cons p l ih =>
    unfold endStop
    split_ifs
    · rfl
    · exact congrArg (p.volume :: ·) ih

/-- The law of a ticket is no matter of how its stops ended (R100, R105). -/
theorem Ticket.capacityLaw_of {k w : Ticket} (h : k.capacityLaw) (hfree : k.state = .free → w.state = .free)
    (hvolumes : w.stops.map (·.volume) = k.stops.map (·.volume)) (hremaining : w.remaining = k.remaining)
    (hcapacity : w.capacity = k.capacity) (hmax : w.maxStops = k.maxStops) : w.capacityLaw := by
  intro hw
  obtain ⟨hsum, hlength⟩ := h fun hk => hw (hfree hk)
  have hcount : w.stops.length = k.stops.length := by simpa using congrArg List.length hvolumes
  rw [hvolumes, hremaining, hcapacity, hcount, hmax]
  exact ⟨hsum, hlength⟩

theorem Ticket.capacityLaw_stopEnded {k : Ticket} (h : k.capacityLaw) (row : Nat) (st : StopStatus)
    (mass : Option Nat) : (k.stopEnded row st mass).capacityLaw := by
  refine Ticket.capacityLaw_of h (fun hk => ?_) (endStop_volumes ..) rfl rfl rfl
  have hnot : ¬ k.completesAt row st mass := fun hc => nomatch hk.symm.trans hc.1
  exact (if_neg hnot).trans hk

theorem Ticket.capacityLaw_handedBack {k : Ticket} (h : k.capacityLaw) (hopen : k.state = .opened)
    (cause : HandBackCause) : (k.handedBack cause).capacityLaw :=
  Ticket.capacityLaw_of h (fun hk => nomatch hopen.symm.trans hk) rfl rfl rfl rfl

theorem Ticket.capacityLaw_recalled {k : Ticket} (h : k.capacityLaw)
    (hstate : k.state = .opened ∨ k.state = .handed) : k.recalled.capacityLaw := by
  refine Ticket.capacityLaw_of h (fun hk => ?_) ?_ rfl rfl rfl
  · rcases hstate with ho | ho <;> exact nomatch ho.symm.trans hk
  · simp only [Ticket.recalled, List.map_map]
    refine List.map_congr_left fun p _ => ?_
    simp only [Function.comp_apply, Stop.skip]
    split_ifs <;> rfl

theorem Ticket.capacityLaw_holdStart {k : Ticket} (h : k.capacityLaw) (start : Option Word32) :
    ({ k with holdStart := start } : Ticket).capacityLaw := h

theorem Round.capacityLaw {A : Premises} {p q : Phase} {s t : State} (h : Round A s p q t)
    (hs : s.capacityLaw) : t.capacityLaw := by
  intro n
  cases h with
  | start | takeUp | rest | container | upset | change | passTaken => exact hs n
  | leave row slot st mass =>
    rw [State.leavePlanned_ticket]
    split_ifs
    · exact Ticket.capacityLaw_stopEnded (hs slot) row st mass
    · exact hs n
  | tell row was => exact (s.tell_ticket_eq row was n) ▸ hs n
  | discharge row r =>
    rw [State.discharge_ticket]
    split_ifs
    · exact Ticket.capacityLaw_stopEnded (hs n) row .skipped none
    · exact hs n
  | assign row vol hrun hgood hlist hvol hstops =>
    rw [State.assign_ticket]
    split_ifs with hn
    · have hopen := State.running_iff.1 hrun
      obtain ⟨hsum, -⟩ := hs s.dispatch.dispatchIndex (fun hfree => nomatch hopen.symm.trans hfree)
      change (s.currentTicket.stops.map (·.volume)).sum + s.currentTicket.remaining = s.currentTicket.capacity at hsum
      refine fun _ => ⟨?_, ?_⟩
      · simp only [List.map_append, List.map_cons, List.map_nil, List.sum_append, List.sum_cons, List.sum_nil]
        omega
      · rw [List.length_append, List.length_singleton]
        exact hstops
    · exact hs n
  | handBack cause hrun =>
    obtain ⟨start, hn⟩ := s.handBack_ticket cause n
    rw [hn]
    refine Ticket.capacityLaw_holdStart ?_ start
    split_ifs
    · exact Ticket.capacityLaw_handedBack (hs _) (State.running_iff.1 hrun) cause
    · exact hs n
  | recalled slot hslot hstate =>
    obtain ⟨start, hn⟩ := s.recall_ticket slot n
    rw [hn]
    refine Ticket.capacityLaw_holdStart ?_ start
    split_ifs
    · exact Ticket.capacityLaw_recalled (hs slot) hstate
    · exact hs n
  | give k hfree hstate hstops hrem =>
    obtain ⟨start, hn⟩ := State.placed_ticket_held s k n
    rw [hn]
    refine Ticket.capacityLaw_holdStart ?_ start
    split_ifs
    · refine fun _ => ⟨?_, ?_⟩
      · rw [hstops, hrem]
        exact Nat.zero_add _
      · rw [hstops]
        exact Nat.zero_le _
    · exact hs n
  | retire slot =>
    rw [State.ticket_putTicket]
    split_ifs
    · exact fun hfree => absurd rfl hfree
    · exact hs n

theorem capacity_law : Law Premises.none State.capacityLaw fun _ s => s.capacityLaw where
  hold s _ := Premises.none_hold s
  enters _ := id
  leaves _ := id
  move {p s q t} h hs := by
    cases h with
    | aside p h =>
      intro n
      rw [State.ticket, h.unturned.2.1]
      exact hs n
    | round h => exact h.capacityLaw hs
  pending _ _ := id
  cold := State.cold_capacityLaw
  restart s tag _ := by
    intro n
    rw [State.ticket, (s.restarted_ring tag).1]
    exact fun hfree => absurd rfl hfree

/-- Settles O7: an assignment takes from what remains what it adds to the stops. -/
theorem stepKeepsCapacityLaw : Obligations.StepKeepsCapacityLaw := capacity_law.step

end Sys2Proof.Machine
end

section
/-! PROOF. Every step keeps the law of the containers, and the laws of the deposits and of the Journal. -/

namespace Sys2Proof.Machine

/-! ### The law of the containers -/

/-- The assignment and the join sequence are no matter of the law of a container. -/
theorem Container.law_congr {c k : Container} (h : c.law) (he : k.estimate = c.estimate)
    (hf : k.fill = c.fill) (hs : k.suspect = c.suspect) (hv : k.service = c.service)
    (ht : k.liftTimer = c.liftTimer) (hg : k.liftStage = c.liftStage) : k.law := by
  unfold Container.law
  rw [he, hf, hs, hv, ht, hg]
  exact h

/-- A row whose entry reads good is within the law. -/
def rowLaw (r : Row Container) : Prop := r.bad = false → r.data.law

theorem State.containerLaw_iff {s : State} : s.containerLaw ↔ ∀ row, rowLaw (s.containerRow row) := Iff.rfl

/-- One row written within the law. -/
theorem rowLaw_of_put {s t : State} {row : Nat} {r : Row Container}
    (ht : ∀ x, t.containerRow x = if x = row then r else s.containerRow x) (hr : rowLaw r)
    (hs : s.containerLaw) : t.containerLaw := by
  intro x
  rw [State.container, ht]
  split_ifs
  · exact hr
  · exact hs x

theorem rowLaw_unassigned {r : Row Container} (h : rowLaw r) (a : Option Nat) :
    rowLaw { data := { r.data with assignment := a }, bad := r.bad } := h

/-- The tells of a recall change the join sequence alone of a row. -/
theorem State.tell_containerLaw {s : State} (hs : s.containerLaw) (row : Nat) (was : Container) :
    (s.tell row was).containerLaw := by
  obtain ⟨q, hrow⟩ := s.tell_containerRow row was
  exact rowLaw_of_put hrow (hs row) hs

theorem State.foldl_containerLaw {f : State → Nat → State}
    (hf : ∀ (x : State) row, x.containerLaw → (f x row).containerLaw) (rows : List Nat) {s : State}
    (hs : s.containerLaw) : (rows.foldl f s).containerLaw := by
  induction rows generalizing s with
  | nil => exact hs
  | cons row rows ih => exact ih (hf s row hs)

theorem State.advance_containerRow (fuel : Nat) (s : State) (row : Nat) :
    (State.advance fuel s).containerRow row = s.containerRow row := by
  induction fuel generalizing s with
  | zero => rfl
  | succ fuel ih =>
    unfold State.advance
    dsimp only
    split_ifs
    · rfl
    · rfl
    · exact ih _

theorem State.handBack_containerRow (s : State) (cause : HandBackCause) (row : Nat) :
    (s.handBack cause).containerRow row = s.containerRow row := by
  obtain ⟨u, hadvance, -, hframe⟩ := s.handBack_eq_advance cause
  have htold : (s.toldHandBack cause).containerRow row = s.containerRow row := by
    unfold State.toldHandBack
    dsimp only
    split_ifs <;> rfl
  rw [hadvance, State.advance_containerRow]
  exact (congrArg (State.containerRow · row) hframe :).trans htold

theorem State.recall_containerRow (s : State) (slot row : Nat) :
    (s.recall slot).containerRow row = (s.recallTold slot).containerRow row := by
  by_cases hcurrent : s.running = true ∧ s.dispatch.dispatchIndex = slot
  · rw [State.recall_of_current hcurrent.1 hcurrent.2, State.advance_containerRow]
  · rw [State.recall_of_not_current (by rwa [not_and_or, Bool.not_eq_true] at hcurrent)]

theorem State.recallTold_containerLaw {s : State} (hs : s.containerLaw) (slot : Nat) :
    (s.recallTold slot).containerLaw := by
  refine State.foldl_containerLaw (fun x row hx => State.tell_containerLaw hx row _) _ ?_
  exact State.foldl_containerLaw (s := s) (f := State.unassign)
    (fun x row hx => rowLaw_of_put (State.containerRow_editContainer x row · _) (hx row) hx) _ hs

theorem Round.containerLaw {A : Premises} {p q : Phase} {s t : State} (h : Round A s p q t)
    (hs : s.containerLaw) : t.containerLaw := by
  cases h with
  | start | takeUp | rest | retire | passTaken => exact hs
  | container row r hbad h =>
    exact rowLaw_of_put (fun x => State.containerRow_putContainer ..) (fun hgood => h.law (hs row (hbad ▸ hgood))) hs
  | change row r hbad h =>
    exact rowLaw_of_put (fun x => State.containerRow_putContainer ..) (fun hgood => h.law (hs row (hbad ▸ hgood))) hs
  | upset row c => exact rowLaw_of_put (fun x => State.containerRow_putContainer ..) nofun hs
  | leave row slot st mass =>
    exact rowLaw_of_put (fun x => State.leavePlanned_containerRow ..) (rowLaw_unassigned (hs row) none) hs
  | tell row was => exact State.tell_containerLaw hs row was
  | discharge row r hlaw =>
    exact rowLaw_of_put (fun x => State.discharge_containerRow s row x r) (fun _ => hlaw) hs
  | assign row vol hrun hgood =>
    exact rowLaw_of_put (fun x => State.assign_containerRow ..) (fun _ => hs row hgood) hs
  | handBack cause =>
    intro row
    rw [State.container, State.handBack_containerRow]
    exact hs row
  | recalled slot =>
    intro row
    rw [State.container, State.recall_containerRow]
    exact State.recallTold_containerLaw hs slot row
  | give k =>
    intro row
    split_ifs
    · exact hs row
    · exact hs row

/-- A container within its law is so after a warm restart (R18, R126). -/
theorem Container.restart_law {c : Container} (h : c.law) : c.restart.law := by
  rw [Container.restart_eq]
  dsimp only
  split_ifs
  · simp [Container.law]
  · exact h

theorem State.restarted_containerRow {s : State} (h : s.tablesCanonical = true) (tag : Octet) (row : Nat) :
    ∃ q, (s.restarted tag).containerRow row =
      { data := { (s.container row).restart with joinSeq := q }, bad := (s.containerRow row).bad } := by
  have hrow := s.partsRestarted_rebuilt.rows row
  have hparts := State.partsRestarted_containerRow h row
  have hdata : s.partsRestarted.container row = (s.container row).restart := congrArg Row.data hparts
  rw [State.rejoined, hparts, hdata] at hrow
  unfold State.restarted
  generalize s.partsRestarted.rebuildList = u at hrow ⊢
  split_ifs at hrow
  · exact ⟨_, hrow⟩
  · exact ⟨_, hrow⟩

theorem container_law : Law Premises.none (fun s => s.tablesCanonical = true ∧ s.containerLaw)
    fun _ s => s.tablesCanonical = true ∧ s.containerLaw where
  hold s _ := Premises.none_hold s
  enters _ := id
  leaves _ := id
  move {p s q t} h hs := by
    refine ⟨h.canonical hs.1, ?_⟩
    cases h with
    | aside p h =>
      intro row
      rw [State.container, State.containerRow, h.unturned.1]
      exact hs.2 row
    | round h => exact h.containerLaw hs.2
  pending _ _ := id
  cold high := ⟨rfl, State.cold_containerLaw high⟩
  restart s tag hs := by
    refine ⟨State.canonical_restarted hs.1 tag, fun row hgood => ?_⟩
    obtain ⟨q, hrow⟩ := State.restarted_containerRow hs.1 tag row
    rw [State.container, hrow]
    rw [hrow] at hgood
    exact Container.restart_law (hs.2 row hgood)

/-- Settles O10: what writes a Container Entry writes it within the law. -/
theorem stepKeepsContainerLaw : Obligations.StepKeepsContainerLaw :=
  fun s t hcanonical hlaw h => (container_law.step s t ⟨hcanonical, hlaw⟩ h).2

end Sys2Proof.Machine
end

section
/-! PROOF. Every step keeps the laws of the Pending Deposit list and of the Journal. -/

namespace Sys2Proof.Machine

/-! ### The deposits of a card row -/

theorem unitsNaming_cons (d : Deposit) (ds : List Deposit) (row : Nat) :
    unitsNaming (d :: ds) row = (if d.cardRow = row then d.units else 0) + unitsNaming ds row := by
  simp only [unitsNaming, List.filter_cons, decide_eq_true_eq]
  split_ifs <;> simp

theorem unitsNaming_perm {ds es : List Deposit} (h : ds.Perm es) (row : Nat) :
    unitsNaming ds row = unitsNaming es row := ((h.filter _).map _).sum_eq

theorem unitsNaming_append (ds : List Deposit) (d : Deposit) (row : Nat) :
    unitsNaming (ds ++ [d]) row = (if d.cardRow = row then d.units else 0) + unitsNaming ds row :=
  (unitsNaming_perm (List.perm_append_singleton d ds) row).trans (unitsNaming_cons d ds row)

/-- A deposit of the list stands apart from those that are left when it has been removed. -/
theorem deposits_perm {ds : List Deposit} {d : Deposit} (hd : d ∈ ds) (hapart : (ds.map (·.row)).Nodup) :
    ds.Perm (d :: ds.eraseP fun x => x.row = d.row) := by
  obtain ⟨a, front, behind, -, ha, hds, herase⟩ :=
    List.exists_of_eraseP (p := fun x : Deposit => x.row = d.row) hd (decide_eq_true rfl)
  have had : a = d := List.inj_on_of_nodup_map hapart (hds ▸ List.mem_append_right _ List.mem_cons_self) hd
    (of_decide_eq_true ha)
  rw [herase, ← had]
  exact hds ▸ List.perm_middle

/-! ### The asides of the accounts -/

/-- The deposits, the cards and the Journal stand as they did. -/
def State.SameAccounts (s t : State) : Prop :=
  t.deposits = s.deposits ∧ t.cards = s.cards ∧ t.journal = s.journal

theorem State.sameAccounts_editSeg (s : State) (g : Seg) (f : Segment → Segment) :
    s.SameAccounts (s.editSeg g f) := by
  cases g <;> exact ⟨rfl, rfl, rfl⟩

theorem State.sameAccounts_editSegStations (s : State) (g : Seg) (f : Station → Station) :
    s.SameAccounts (s.editSegStations g f) := by
  have h := s.editSegStations_restored g f
  exact ⟨(congrArg State.deposits h :), (congrArg State.cards h :), (congrArg State.journal h :)⟩

theorem State.SameAccounts.trans {s t u : State} (h : s.SameAccounts t) (k : t.SameAccounts u) :
    s.SameAccounts u :=
  ⟨k.1.trans h.1, k.2.1.trans h.2.1, k.2.2.trans h.2.2⟩

theorem Move.depositLaw_of_same {s t : State} (h : s.SameAccounts t) (hs : s.depositLaw) : t.depositLaw := by
  obtain ⟨hdeposits, hcards, hjournal⟩ := h
  unfold State.depositLaw State.card State.cardRow
  rw [hdeposits, hcards, hjournal]
  exact hs

theorem Aside.depositLaw {A : Premises} {s t : State} (h : Aside A s t) (hA : A.apart) (hs : s.depositLaw) :
    t.depositLaw := by
  have same {u : State} (hu : s.SameAccounts u) : u.depositLaw := Move.depositLaw_of_same hu hs
  cases h with
  | outside | link | mgmt | notices | stream | series | kind | station | stationState =>
    exact same ⟨rfl, rfl, rfl⟩
  | segment g f h => exact same (s.sameAccounts_editSeg g f)
  | join addr h haddr =>
    exact same ((s.sameAccounts_editSeg (segOf addr) _).trans (u := s.joinConfigure addr) ⟨rfl, rfl, rfl⟩)
  | unlist addr r h =>
    exact same ((s.sameAccounts_editSeg (segOf addr) _).trans
      (u := (s.leaveConfigure addr).putStation addr r) ⟨rfl, rfl, rfl⟩)
  | goDown g h => exact same ((s.sameAccounts_editSeg g _).trans (State.sameAccounts_editSegStations ..))
  | comeUp g h => exact same ((s.sameAccounts_editSeg g _).trans (State.sameAccounts_editSegStations ..))
  | card row r h =>
    obtain ⟨hlength, hapart, hroom, hcards⟩ := hs
    refine ⟨hlength, hapart, hroom, fun x hgood => ?_⟩
    simp only [State.card, State.cardRow_putCard] at hgood ⊢
    split_ifs at hgood ⊢ with hx
    · subst hx
      rcases h hgood with hr | ⟨hwas, hr⟩
      · exact hr
      · exact hr.trans (hcards x hwas)
    · exact hcards x hgood
  | journal f hlength hlaw =>
    obtain ⟨hds, hapart, hroom, hcards⟩ := hs
    exact ⟨hds, hapart, (Nat.add_le_add_right hlength _).trans hroom, hcards⟩
  | grant d c hcard hc hroom hnew hcharged =>
    have hapart := (Aside.grant (A := A) d c hcard hc hroom hnew hcharged).depositsApart hA hs.2.1
    obtain ⟨hlength, -, hjournal, hcards⟩ := hs
    refine ⟨?_, hapart, ?_, fun row hgood => ?_⟩
    · show (s.deposits ++ [d]).length ≤ 32
      rw [List.length_append, List.length_singleton]
      exact hroom
    · show s.journal.records.length + chargedPending (s.deposits ++ [d]) ≤ 1024
      unfold chargedPending at hjournal hcharged ⊢
      rw [List.countP_append, List.countP_singleton]
      split_ifs with hd
      · have := hcharged hd
        omega
      · exact hjournal
    · show _ = unitsNaming (s.deposits ++ [d]) row
      rw [unitsNaming_append]
      have hrow := State.cardRow_writeCard (s.editDeposits fun ds => ds ++ [d]) d.cardRow row c
      rw [State.card, hrow]
      rw [hrow] at hgood
      split_ifs at hgood ⊢ with h1 h2 h3
      · subst h1
        exact hc.trans ((congrArg (· + d.units) (hcards _ hcard)).trans (Nat.add_comm ..))
      · exact absurd h1.symm h2
      · exact absurd h3.symm h1
      · exact (hcards row hgood).trans (Nat.zero_add _).symm
  | conclude d c j hcard hc hheld hj =>
    obtain ⟨hlength, hapart, hjournal, hcards⟩ := hs
    have hperm := deposits_perm hheld hapart
    have hunits (row : Nat) := (unitsNaming_perm hperm row).trans (unitsNaming_cons ..)
    refine ⟨?_, hapart.sublist (List.eraseP_sublist.map _), ?_, fun row hgood => ?_⟩
    · exact List.eraseP_sublist.length_le.trans hlength
    · show j.records.length + chargedPending (s.deposits.eraseP fun x => x.row = d.row) ≤ 1024
      have hcount := hperm.countP_eq (·.charged)
      rw [List.countP_cons] at hcount
      unfold chargedPending at hjournal ⊢
      rcases hj with rfl | ⟨hcharged, x, -, rfl⟩
      · omega
      · rw [if_pos hcharged] at hcount
        show (s.journal.records ++ [Row.good x]).length + _ ≤ 1024
        rw [List.length_append, List.length_singleton]
        omega
    · show _ = unitsNaming (s.deposits.eraseP fun x => x.row = d.row) row
      have hrow := State.cardRow_writeCard ({ s with journal := j } : State) d.cardRow row c
      change ((({ s with journal := j } : State).writeCard d.cardRow c).cardRow row).bad = false at hgood
      show (({ s with journal := j } : State).writeCard d.cardRow c |>.cardRow row).data.reserved = _
      rw [hrow] at hgood ⊢
      split_ifs at hgood ⊢ with h1
      · subst h1
        have hwas := (hcards _ hcard).trans (hunits d.cardRow)
        rw [if_pos rfl] at hwas
        refine hc.trans ?_
        rw [lowerReserved, hwas, if_pos (Nat.le_add_right ..), Nat.add_sub_cancel_left]
      · have hwas := (hcards row hgood).trans (hunits row)
        rw [if_neg (Ne.symm h1), Nat.zero_add] at hwas
        exact hwas

theorem Table.get_mapRows_cases {α : Type} [DecidableEq α] (d : Row α) (f : α → α) (t : Table (Row α))
    (k : Nat) : Table.get d (Table.mapRows d f t) k = d ∨
      ∃ x : Row α, Table.get d (Table.mapRows d f t) k = { data := f x.data, bad := x.bad } := by
  unfold Table.mapRows
  induction t with
  | nil => exact Or.inl rfl
  | cons p t ih =>
    rw [List.map_cons, List.filter_cons]
    split_ifs
    · unfold Table.get
      split_ifs
      · exact Or.inr ⟨p.2, rfl⟩
      · exact ih
    · exact ih

theorem State.restarted_accounts (s : State) (tag : Octet) :
    (s.restarted tag).deposits = [] ∧ (s.restarted tag).journal = s.journal ∧
      (s.restarted tag).cards = Table.mapRows (Row.good CardRow.cold) CardRow.restart s.cards := by
  have hlist := s.listRestarted_eq
  have hrest := s.restarted_restored tag
  have hjournal : (s.restarted tag).journal = s.journal := by
    generalize s.restarted tag = t at hrest ⊢
    exact (congrArg State.journal hrest :)
  refine ⟨?_, hjournal, ?_⟩
  · unfold State.restarted
    generalize s.partsRestarted.rebuildList = u at hlist ⊢
    exact (congrArg State.deposits hlist :)
  · unfold State.restarted
    generalize s.partsRestarted.rebuildList = u at hlist ⊢
    exact (congrArg State.cards hlist :)

/-- One deposit for a row, and nothing else, is the premise. -/
def Premises.apartOnly : Premises := { own := False, apart := True, once := False }

theorem deposit_law : Law Premises.apartOnly State.depositLaw fun _ s => s.depositLaw where
  hold s h := ⟨False.elim, fun _ => h.2.1, False.elim⟩
  enters _ := id
  leaves _ := id
  move {p s q t} h hs := by
    cases h with
    | aside p h => exact h.depositLaw trivial hs
    | round h =>
      have hturned := h.turned
      exact Move.depositLaw_of_same ⟨(congrArg State.deposits hturned :), (congrArg State.cards hturned :),
        (congrArg State.journal hturned :)⟩ hs
  pending _ _ := id
  cold := State.cold_depositLaw
  restart s tag hs := by
    obtain ⟨hdeposits, hjournal, hcards⟩ := s.restarted_accounts tag
    refine ⟨?_, ?_, ?_, fun row _ => ?_⟩
    · rw [hdeposits]
      exact Nat.zero_le _
    · rw [hdeposits]
      exact List.nodup_nil
    · rw [hdeposits, hjournal]
      exact (Nat.le_add_right _ _).trans hs.2.2.1
    · rw [hdeposits, State.card, State.cardRow, hcards]
      rcases Table.get_mapRows_cases (Row.good CardRow.cold) CardRow.restart s.cards row with h | ⟨x, h⟩
      · rw [h]
        rfl
      · rw [h]
        rfl

/-! ### The Journal -/

theorem Journal.lawful_append {j : Journal} (h : j.lawful) {x : JournalRecord} (hx : x.seq = j.counter + 1) :
    (j.append x).lawful := by
  obtain ⟨-, hrecords⟩ := h
  refine ⟨Nat.mod_lt _ (by omega), fun i r hr hgood => ?_⟩
  have hlength : (j.append x).records.length = j.records.length + 1 := by
    simp [Journal.append]
  change (j.records ++ [Row.good x])[i]? = some r at hr
  show r.data.seq = j.counter + 1 - BitVec.ofNat 32 ((j.append x).records.length - 1 - i)
  rw [hlength, Nat.add_sub_cancel]
  by_cases hi : i < j.records.length
  · rw [List.getElem?_append_left hi] at hr
    rw [hrecords i r hr hgood]
    have hsucc : j.records.length - i = j.records.length - 1 - i + 1 := by omega
    rw [hsucc, BitVec.ofNat_add]
    generalize BitVec.ofNat 32 (j.records.length - 1 - i) = b
    show j.counter - b = j.counter + 1 - (b + 1)
    bv_omega
  · rw [List.getElem?_append_right (Nat.not_lt.1 hi)] at hr
    obtain ⟨hi0, rfl⟩ : i - j.records.length = 0 ∧ Row.good x = r := by
      cases hk : i - j.records.length with
      | zero => exact ⟨rfl, by rw [hk] at hr; exact Option.some.inj hr⟩
      | succ k =>
        rw [hk] at hr
        exact absurd hr (by simp)
    have hi' : j.records.length - i = 0 := by omega
    rw [hi']
    exact hx.trans (BitVec.sub_zero _).symm

theorem State.journalLaw_iff {s : State} : s.journalLaw ↔ s.journal.lawful := Iff.rfl

theorem Aside.journal_lawful {A : Premises} {s t : State} (h : Aside A s t) (hs : s.journal.lawful) :
    t.journal.lawful := by
  have same {u : State} (hu : s.SameAccounts u) : u.journal.lawful := hu.2.2 ▸ hs
  cases h with
  | outside | link | mgmt | notices | stream | series | kind | station | stationState | card | grant =>
    exact hs
  | segment g f h => exact same (s.sameAccounts_editSeg g f)
  | join addr h haddr =>
    exact same ((s.sameAccounts_editSeg (segOf addr) _).trans (u := s.joinConfigure addr) ⟨rfl, rfl, rfl⟩)
  | unlist addr r h =>
    exact same ((s.sameAccounts_editSeg (segOf addr) _).trans
      (u := (s.leaveConfigure addr).putStation addr r) ⟨rfl, rfl, rfl⟩)
  | goDown g h => exact same ((s.sameAccounts_editSeg g _).trans (State.sameAccounts_editSegStations ..))
  | comeUp g h => exact same ((s.sameAccounts_editSeg g _).trans (State.sameAccounts_editSegStations ..))
  | journal f hlength hlaw => exact hlaw hs
  | conclude d c j hcard hc hheld hj =>
    show j.lawful
    rcases hj with rfl | ⟨-, x, hx, rfl⟩
    · exact hs
    · exact Journal.lawful_append hs hx

theorem journal_law : Law Premises.none State.journalLaw fun _ s => s.journal.lawful where
  hold s _ := Premises.none_hold s
  enters _ := State.journalLaw_iff.1
  leaves _ := State.journalLaw_iff.2
  move {p s q t} h hs := by
    cases h with
    | aside p h => exact h.journal_lawful hs
    | round h =>
      have hjournal : t.journal = s.journal := (congrArg State.journal h.turned :)
      exact hjournal ▸ hs
  pending _ _ := id
  cold := State.cold_journalLaw
  restart s tag hs := by
    rw [State.journalLaw_iff, (s.restarted_accounts tag).2.1]
    exact hs

/-- Settles O5: a deposit is taken into the list and the reserved units at once, and leaves both at once; a
charged one leaves its room in the Journal to its record. -/
theorem stepKeepsDepositLaw : Obligations.StepKeepsDepositLaw :=
  ⟨deposit_law.step, journal_law.step⟩

end Sys2Proof.Machine
end

section
/-! PROOF. Every step keeps the law of the stations (R148, R151). -/

namespace Sys2Proof.Machine

/-- The law of one station, by whether its segment is UP and lists it (R148, R151). -/
def Station.Lawful (up listed : Prop) (e : Station) : Prop :=
  (e.awaiting = true ↔ listed) ∧ (e.awaiting = true → e.state = .configuring) ∧
    (e.state = .inService → up) ∧ (e.state = .cutOff → ¬ up) ∧ (e.state = .absent ↔ e.loaded = false)

/-- The law of a segment's configure list (R148). -/
def Segment.listsOwn (g : Seg) (x : Segment) : Prop := x.cfgList.Nodup ∧ ∀ a ∈ x.cfgList, a ∈ segAddrs g

/-- The law of a row of the Station Table, where it reads good. -/
def State.stationLawAt (s : State) (addr : Nat) : Prop :=
  (s.stationRow addr).bad = false → Station.Lawful ((s.seg (segOf addr)).state = .up)
    (addr ∈ (s.seg (segOf addr)).cfgList) (s.station addr)

theorem State.stationLaw_iff {s : State} : s.stationLaw ↔ s.windowsOwn ∧
    (∀ g, Segment.listsOwn g (s.seg g)) ∧ ∀ addr, 1 ≤ addr → addr ≤ 64 → s.stationLawAt addr := by
  constructor
  · rintro ⟨hsegs, hstations⟩
    refine ⟨fun g => (hsegs g).2.2, fun g => ⟨(hsegs g).1, (hsegs g).2.1⟩, fun addr h1 h64 hgood => ?_⟩
    exact hstations addr h1 h64 hgood
  · rintro ⟨hwindows, hlists, hstations⟩
    refine ⟨fun g => ⟨(hlists g).1, (hlists g).2, hwindows g⟩, fun addr h1 h64 hgood => ?_⟩
    exact hstations addr h1 h64 hgood

/-! ### One station or one segment -/

theorem Station.Lawful.congr {up up' listed listed' : Prop} {e f : Station}
    (h : Station.Lawful up listed e) (hup : up' ↔ up) (hlisted : listed' ↔ listed)
    (halike : Station.Alike e f) : Station.Lawful up' listed' f := by
  obtain ⟨hstate, hawaiting, hloaded⟩ := halike
  unfold Station.Lawful
  rw [hstate, hawaiting, hloaded, hup, hlisted]
  exact h

/-- A station that is absent awaits nothing. -/
theorem Station.Lawful.awaiting_of_unloaded {up listed : Prop} {e : Station} (h : Station.Lawful up listed e)
    (hl : e.loaded = false) : e.awaiting = false := by
  obtain ⟨-, hconfiguring, -, -, habsent⟩ := h
  by_contra hawaiting
  have hstate := hconfiguring (by simpa using hawaiting)
  exact StationState.noConfusion (hstate.symm.trans (habsent.2 hl))

/-- A station that awaits nothing, and that no list holds. -/
theorem Station.lawful_of_quiet {up listed : Prop} {e : Station} (hlisted : ¬ listed)
    (hawaiting : e.awaiting = false) (hservice : e.state = .inService → up) (hcut : e.state = .cutOff → ¬ up)
    (habsent : e.state = .absent ↔ e.loaded = false) : Station.Lawful up listed e := by
  have hnot : ¬ e.awaiting = true := by simp [hawaiting]
  exact ⟨⟨fun h => absurd h hnot, fun h => absurd h hlisted⟩, fun h => absurd h hnot, hservice, hcut, habsent⟩

theorem Station.Lawful.loaded_of_present {up listed : Prop} {e : Station} (h : Station.Lawful up listed e)
    (hs : e.state ≠ .absent) : e.loaded = true := by
  obtain ⟨-, -, -, -, habsent⟩ := h
  by_contra hl
  exact hs (habsent.2 (by simpa using hl))

/-- A station off the list is within its law, in each of the states it may have (R147, R148, R156). -/
theorem Station.Unlisted.lawful {seg : SegState} {listed listed' : Prop} {e : Row Station} {f : Station}
    (h : Station.Unlisted seg e f) (he : e.bad = false → Station.Lawful (seg = .up) listed e.data)
    (hlisted : ¬ listed') : Station.Lawful (seg = .up) listed' f := by
  obtain ⟨hawaiting, hstate⟩ := h
  have unloadedOnly {st : StationState} (hs : f.state = st) (hst : st ≠ .absent) (hl : f.loaded = true) :
      f.state = .absent ↔ f.loaded = false := by
    rw [hs, hl]
    exact ⟨fun h => absurd h hst, fun h => absurd h.symm Bool.false_ne_true⟩
  refine Station.lawful_of_quiet hlisted hawaiting ?_ ?_ ?_
  · obtain ⟨hgood, hs, -⟩ | ⟨-, hs, -⟩ | ⟨hs, -⟩ | ⟨hs, -⟩ | ⟨hs, -⟩ := hstate
    · rw [hs]
      exact (he hgood).2.2.1
    all_goals rw [hs]; exact nofun
  · obtain ⟨hgood, hs, -⟩ | ⟨-, hs, -⟩ | ⟨hs, -⟩ | ⟨-, -, hdown⟩ | ⟨hs, -⟩ := hstate
    · rw [hs]
      exact (he hgood).2.2.2.1
    · rw [hs]; exact nofun
    · rw [hs]; exact nofun
    · rw [hdown]; exact fun _ => SegState.noConfusion
    · rw [hs]; exact nofun
  · obtain ⟨hgood, hs, hl⟩ | ⟨hgood, hs, hpresent, hl⟩ | ⟨hs, hl⟩ | ⟨hs, hl, -⟩ | ⟨hs, hl⟩ := hstate
    · rw [hs, hl]
      exact (he hgood).2.2.2.2
    · exact unloadedOnly hs StationState.noConfusion (hl.trans ((he hgood).loaded_of_present hpresent))
    · exact unloadedOnly hs StationState.noConfusion hl
    · exact unloadedOnly hs StationState.noConfusion hl
    · exact ⟨fun _ => hl, fun _ => hs⟩

theorem Station.cut_lawful {up listed : Prop} {e : Station} (h : Station.Lawful up listed e) {down : Prop}
    (hdown : ¬ down) {none : Prop} (hnone : ¬ none) : Station.Lawful down none e.cut := by
  unfold Station.cut
  split_ifs with hl
  · refine Station.lawful_of_quiet hnone rfl nofun (fun _ => hdown) ⟨nofun, fun h => ?_⟩
    exact absurd (hl.symm.trans h).symm Bool.false_ne_true
  · have hl' : e.loaded = false := by simpa using hl
    have habsent := h.2.2.2.2.2 hl'
    refine Station.lawful_of_quiet hnone (h.awaiting_of_unloaded hl') ?_ (fun _ => hdown) h.2.2.2.2
    rw [habsent]
    exact nofun

theorem Station.uncut_lawful {up listed : Prop} {e : Station} (h : Station.Lawful up listed e) :
    Station.Lawful True listed e.uncut := by
  obtain ⟨hlisted, hconfiguring, -, -, habsent⟩ := h
  unfold Station.uncut
  split_ifs with hcut
  · have hloaded : e.loaded ≠ false := fun hl => StationState.noConfusion (hcut.symm.trans (habsent.2 hl))
    refine ⟨hlisted, fun ha => ?_, nofun, nofun, nofun, fun hl => absurd hl hloaded⟩
    exact StationState.noConfusion (hcut.symm.trans (hconfiguring ha))
  · exact ⟨hlisted, hconfiguring, fun _ => trivial, fun hc => absurd hc hcut, habsent⟩

theorem Station.restart_lawful {up listed : Prop} {e : Station} (h : Station.Lawful up listed e) (b : Bool)
    {down none : Prop} (hdown : ¬ down) (hnone : ¬ none) : Station.Lawful down none (e.restart b) := by
  unfold Station.restart
  by_cases hl : e.loaded = true
  · rw [if_pos hl]
    refine Station.lawful_of_quiet hnone rfl ?_ (fun _ => hdown) ⟨?_, fun h => ?_⟩
    · cases b <;> exact nofun
    · cases b <;> exact nofun
    · exact absurd (hl.symm.trans h).symm Bool.false_ne_true
  · rw [if_neg hl]
    have hl' : e.loaded = false := by simpa using hl
    have habsent := h.2.2.2.2.2 hl'
    refine Station.lawful_of_quiet hnone (h.awaiting_of_unloaded hl') ?_ (fun _ => hdown) h.2.2.2.2
    rw [habsent]
    exact nofun

/-! ### The asides -/

/-- Rows and lists that stand as they did, and segments that are UP as they were. -/
theorem State.stationLawAt_congr {s t : State} {addr : Nat} (h : s.stationLawAt addr)
    (hrow : t.stationRow addr = s.stationRow addr)
    (hup : (t.seg (segOf addr)).state = .up ↔ (s.seg (segOf addr)).state = .up)
    (hlist : addr ∈ (t.seg (segOf addr)).cfgList ↔ addr ∈ (s.seg (segOf addr)).cfgList) :
    t.stationLawAt addr := by
  unfold State.stationLawAt State.station
  rw [hrow]
  exact fun hgood => (h hgood).congr hup hlist ⟨rfl, rfl, rfl⟩

/-- Segments that stand as they did, and one row written within its law. -/
theorem State.stationLaw_putStation {s : State} (hs : s.stationLaw) (addr : Nat) (r : Row Station)
    (hr : r.bad = false → s.stationLawAt addr →
      Station.Lawful ((s.seg (segOf addr)).state = .up) (addr ∈ (s.seg (segOf addr)).cfgList) r.data) :
    (s.putStation addr r).stationLaw := by
  rw [State.stationLaw_iff] at hs ⊢
  obtain ⟨hwindows, hlists, hstations⟩ := hs
  refine ⟨State.windowsOwn_congr (fun g => State.putStation_seg ..) hwindows, fun g => ?_,
    fun x h1 h64 => ?_⟩
  · rw [State.putStation_seg]
    exact hlists g
  · have hat := hstations x h1 h64
    by_cases hx : x = addr
    · subst hx
      unfold State.stationLawAt State.station
      rw [State.stationRow_putStation, if_pos rfl, State.putStation_seg]
      exact fun hgood => hr hgood hat
    · refine State.stationLawAt_congr hat ?_ ?_ ?_
      · rw [State.stationRow_putStation, if_neg hx]
      · rw [State.putStation_seg]
      · rw [State.putStation_seg]

/-- The segments after an edit of one, in the words of that one. -/
theorem State.seg_editSeg_at (s : State) (g k : Seg) (f : Segment → Segment) :
    (s.editSeg g f).seg k = if k = g then f (s.seg g) else s.seg k := by
  rw [State.seg_editSeg]
  split_ifs with hk
  · rw [hk]
  · rfl

theorem segOf_mem {addr : Nat} (h1 : 1 ≤ addr) (h64 : addr ≤ 64) (g : Seg) :
    addr ∈ segAddrs g ↔ segOf addr = g := by
  rw [mem_segAddrs]
  exact ⟨fun h => h.2.2, fun h => ⟨h1, h64, h⟩⟩

/-- A segment edited with all its stations, which are then within their law, and the other as it was. -/
theorem State.stationLaw_editSegStations {s : State} (hs : s.stationLaw) (g : Seg) {f : Segment → Segment}
    {e : Station → Station} (hwindows : (s.editSeg g f).windowsOwn)
    (hlists : Segment.listsOwn g (f (s.seg g)))
    (he : ∀ addr x, segOf addr = g →
      Station.Lawful ((s.seg g).state = .up) (addr ∈ (s.seg g).cfgList) x →
      Station.Lawful ((f (s.seg g)).state = .up) (addr ∈ (f (s.seg g)).cfgList) (e x)) :
    ((s.editSeg g f).editSegStations g e).stationLaw := by
  rw [State.stationLaw_iff] at hs ⊢
  obtain ⟨-, hold, hstations⟩ := hs
  have hseg (k : Seg) : ((s.editSeg g f).editSegStations g e).seg k =
      if k = g then f (s.seg g) else s.seg k :=
    (State.editSegStations_seg ..).trans (State.seg_editSeg_at ..)
  refine ⟨State.windowsOwn_congr (fun k => State.editSegStations_seg ..) hwindows, fun k => ?_,
    fun addr h1 h64 => ?_⟩
  · rw [hseg]
    split_ifs with hk
    · exact hk ▸ hlists
    · exact hold k
  · have hat := hstations addr h1 h64
    have hrow : ((s.editSeg g f).editSegStations g e).stationRow addr = _ :=
      State.editSegStations_stationRow ..
    rw [State.station, State.editSeg_stationRow] at hrow
    by_cases hg : segOf addr = g
    · rw [if_pos ((segOf_mem h1 h64 g).2 hg)] at hrow
      unfold State.stationLawAt State.station
      rw [hrow, hseg, if_pos hg]
      exact fun hgood => he addr _ hg (hg ▸ hat hgood)
    · rw [if_neg (mt (segOf_mem h1 h64 g).1 hg)] at hrow
      refine State.stationLawAt_congr hat hrow ?_ ?_
      · rw [hseg, if_neg hg]
      · rw [hseg, if_neg hg]

/-- One segment edited, its windows and its list within their laws, for every station but one. -/
theorem State.stationLawAt_editSeg {s : State} (hs : s.stationLaw) {g : Seg} {f : Segment → Segment}
    (hup : (f (s.seg g)).state = .up ↔ (s.seg g).state = .up) {addr : Nat} (h1 : 1 ≤ addr) (h64 : addr ≤ 64)
    (hlist : segOf addr = g → (addr ∈ (f (s.seg g)).cfgList ↔ addr ∈ (s.seg g).cfgList)) :
    (s.editSeg g f).stationLawAt addr := by
  refine State.stationLawAt_congr ((State.stationLaw_iff.1 hs).2.2 addr h1 h64) (State.editSeg_stationRow ..) ?_ ?_
  · rw [State.seg_editSeg]
    split_ifs with hg
    · rw [hg]
      exact hup
    · rfl
  · rw [State.seg_editSeg]
    split_ifs with hg
    · rw [hg]
      exact hlist hg
    · rfl

/-- A segment's list changed by one station, whose row is then written within its law. -/
theorem State.stationLaw_editList {s : State} (hs : s.stationLaw) {addr : Nat} {f : List Nat → List Nat}
    {r : Row Station}
    (hlists : Segment.listsOwn (segOf addr) { s.seg (segOf addr) with cfgList := f (s.seg (segOf addr)).cfgList })
    (hothers : ∀ x, x ≠ addr → (x ∈ f (s.seg (segOf addr)).cfgList ↔ x ∈ (s.seg (segOf addr)).cfgList))
    (hr : r.bad = false → s.stationLawAt addr →
      Station.Lawful ((s.seg (segOf addr)).state = .up) (addr ∈ f (s.seg (segOf addr)).cfgList) r.data) :
    ((s.editSeg (segOf addr) fun x => { x with cfgList := f x.cfgList }).putStation addr r).stationLaw := by
  obtain ⟨hwindows, hold, hstations⟩ := State.stationLaw_iff.1 hs
  have hseg (g : Seg) : (((s.editSeg (segOf addr) fun x => { x with cfgList := f x.cfgList }).putStation
      addr r).seg g) = if g = segOf addr then
        { s.seg (segOf addr) with cfgList := f (s.seg (segOf addr)).cfgList } else s.seg g :=
    (State.putStation_seg ..).trans (State.seg_editSeg_at ..)
  rw [State.stationLaw_iff]
  refine ⟨State.windowsOwn_congr (fun g => State.putStation_seg ..) (State.windowsOwn_editSeg hwindows
    (hwindows _).1 (hwindows _).2), fun g => ?_, fun x h1 h64 => ?_⟩
  · rw [hseg]
    split_ifs with hg
    · exact hg ▸ hlists
    · exact hold g
  · by_cases hx : x = addr
    · subst hx
      unfold State.stationLawAt State.station
      rw [State.stationRow_putStation, if_pos rfl, hseg, if_pos rfl]
      exact fun hgood => hr hgood (hstations x h1 h64)
    · refine State.stationLawAt_congr (s := s.editSeg (segOf addr) fun x => { x with cfgList := f x.cfgList })
        (State.stationLawAt_editSeg hs Iff.rfl h1 h64 fun _ => hothers x hx) ?_ ?_ ?_
      · rw [State.stationRow_putStation, if_neg hx]
      · rw [State.putStation_seg]
      · rw [State.putStation_seg]

theorem State.stationLaw_congr {s t : State} (hs : s.stationLaw) (hrow : ∀ addr, t.stationRow addr = s.stationRow addr)
    (hseg : ∀ g, t.seg g = s.seg g) : t.stationLaw := by
  unfold State.stationLaw State.station at hs ⊢
  simp only [hrow, hseg]
  exact hs

theorem Aside.stationLaw {A : Premises} {s t : State} (h : Aside A s t) (hA : A.own) (hs : s.stationLaw) :
    t.stationLaw := by
  cases h with
  | outside | link | mgmt | notices | stream | series | kind | card | journal | grant | conclude =>
    exact State.stationLaw_congr hs (fun _ => rfl) fun g => by cases g <;> rfl
  | segment g f h =>
    have hwindows := (Aside.segment (A := A) g f h).windowsOwn (State.stationLaw_iff.1 hs).1
    refine State.stationLaw_iff.2 ⟨hwindows, fun k => ?_, fun addr h1 h64 => ?_⟩
    · have hold := (State.stationLaw_iff.1 hs).2.1
      rw [State.seg_editSeg_at]
      split_ifs with hk
      · rw [Segment.listsOwn, h.cfgList, hk]
        exact hold g
      · exact hold k
    · exact State.stationLawAt_editSeg hs h.up h1 h64 fun _ => by rw [h.cfgList]
  | station addr r h =>
    refine State.stationLaw_putStation hs addr r fun hgood hat => ?_
    obtain ⟨hwas, halike⟩ := h hgood
    exact (hat hwas).congr Iff.rfl Iff.rfl halike
  | stationState addr f hstate hloaded hawaiting hpresent =>
    refine State.stationLaw_putStation hs addr _ fun hgood hat => ?_
    have hlaw := hat hgood
    have hl := hlaw.loaded_of_present hpresent
    obtain ⟨hlisted, hconfiguring, -, -, -⟩ := hlaw
    have hloaded' : (f (s.station addr)).loaded = true := hloaded.trans hl
    have hnotAwaiting (ha : (s.station addr).awaiting = false) : ¬ (f (s.station addr)).awaiting = true := by
      rw [hawaiting, ha]
      exact Bool.false_ne_true
    show Station.Lawful _ _ (f (s.station addr))
    refine ⟨?_, fun ha => ?_, fun hservice => ?_, fun hcut => ?_, ?_⟩
    · rw [hawaiting]
      exact hlisted
    · rcases hstate with hc | ⟨hno, -⟩
      · exact hc
      · exact absurd ha (hnotAwaiting hno)
    · rcases hstate with hc | ⟨-, hc | ⟨-, hup⟩⟩
      · exact StationState.noConfusion (hc.symm.trans hservice)
      · exact StationState.noConfusion (hc.symm.trans hservice)
      · exact hup hA
    · rcases hstate with hc | ⟨-, hc | ⟨hc, -⟩⟩ <;> exact StationState.noConfusion (hc.symm.trans hcut)
    · refine ⟨fun habsent => ?_, fun hno => absurd (hloaded'.symm.trans hno).symm Bool.false_ne_true⟩
      rcases hstate with hc | ⟨-, hc | ⟨hc, -⟩⟩ <;> exact StationState.noConfusion (hc.symm.trans habsent)
  | join addr h haddr =>
    obtain ⟨h1, h64⟩ := haddr hA
    have hlists := (State.stationLaw_iff.1 hs).2.1 (segOf addr)
    refine State.stationLaw_editList hs (f := fun l => if addr ∈ l then l else l ++ [addr]) ?_
      (fun x hx => ?_) fun hgood hat => ?_
    · dsimp only
      split_ifs with hm
      · exact hlists
      · refine ⟨hlists.1.append (List.nodup_singleton _) (by simpa using hm), fun a ha => ?_⟩
        rcases List.mem_append.1 ha with ha | ha
        · exact hlists.2 a ha
        · rw [List.mem_singleton.1 ha]
          exact (segOf_mem h1 h64 _).2 rfl
    · split_ifs
      · rfl
      · simp [hx]
    · rw [State.editSeg_stationRow] at hgood
      obtain ⟨-, -, -, -, habsent⟩ := hat hgood
      have hstation : (s.editSeg (segOf addr) fun x =>
          { x with cfgList := if addr ∈ x.cfgList then x.cfgList else x.cfgList ++ [addr] }).station addr =
            s.station addr := congrArg Row.data (State.editSeg_stationRow ..)
      rw [hstation]
      refine ⟨⟨fun _ => ?_, fun _ => rfl⟩, fun _ => h, fun hservice => ?_, fun hcut => ?_, habsent⟩
      · split_ifs with hm
        · exact hm
        · simp
      · exact StationState.noConfusion (h.symm.trans hservice)
      · exact StationState.noConfusion (h.symm.trans hcut)
  | unlist addr r h =>
    have hlists := (State.stationLaw_iff.1 hs).2.1 (segOf addr)
    refine State.stationLaw_editList hs (f := fun l => l.filter (· ≠ addr)) ?_ (fun x hx => ?_)
      fun hgood hat => ?_
    · exact ⟨hlists.1.filter _, fun a ha => hlists.2 a (List.mem_filter.1 ha).1⟩
    · simp [hx]
    · exact (h hgood).lawful hat (by simp)
  | goDown g h =>
    have hwindows := (State.stationLaw_iff.1 hs).1
    refine State.stationLaw_editSegStations hs g (State.windowsOwn_editSeg hwindows nofun fun a ha => ?_)
      ⟨List.nodup_nil, nofun⟩ fun addr x _ hx => ?_
    · exact (hwindows g).2 a ha
    · exact Station.cut_lawful hx nofun nofun
  | comeUp g h =>
    obtain ⟨hwindows, hlists, -⟩ := State.stationLaw_iff.1 hs
    refine State.stationLaw_editSegStations hs g (State.windowsOwn_editSeg hwindows (hwindows g).1
      (hwindows g).2) (hlists g) fun addr x _ hx => ?_
    exact (Station.uncut_lawful hx).congr (by simp) Iff.rfl ⟨rfl, rfl, rfl⟩

theorem Segment.restart_spec (x : Segment) : x.restart.state ≠ .up ∧ x.restart.cfgList = [] := by
  unfold Segment.restart
  cases x.state <;> simp

theorem State.restarted_stationLaw {s : State} (hs : s.stationLaw) (tag : Octet) :
    (s.restarted tag).stationLaw := by
  have hseg (g : Seg) := s.restarted_seg tag g
  have hrow (addr : Nat) (h1 : 1 ≤ addr) (h64 : addr ≤ 64) := s.restarted_stationRow tag h1 h64
  rw [State.stationLaw_iff] at hs ⊢
  generalize s.restarted tag = t at hseg hrow ⊢
  refine ⟨fun g => ?_, fun g => ?_, fun addr h1 h64 hgood => ?_⟩
  · obtain ⟨hwindow, hout⟩ := (s.seg g).restart_quiet
    rw [hseg, hwindow, hout]
    exact ⟨nofun, nofun⟩
  · rw [Segment.listsOwn, hseg, (s.seg g).restart_spec.2]
    exact ⟨List.nodup_nil, nofun⟩
  · rw [State.station, hrow addr h1 h64, hseg]
    rw [hrow addr h1 h64] at hgood
    refine Station.restart_lawful (hs.2.2 addr h1 h64 hgood) _ (s.seg (segOf addr)).restart_spec.1 ?_
    rw [(s.seg (segOf addr)).restart_spec.2]
    exact List.not_mem_nil

/-- Windows and POLLs of their own segment's stations are the premise. -/
def Premises.ownOnly : Premises := { own := True, apart := False, once := False }

theorem station_law : Law Premises.ownOnly State.stationLaw fun _ s => s.stationLaw where
  hold s h := ⟨fun _ => (State.stationLaw_iff.1 h).1, False.elim, False.elim⟩
  enters _ := id
  leaves _ := id
  move {p s q t} h hs := by
    cases h with
    | aside p h => exact h.stationLaw trivial hs
    | round h =>
      have hturned := h.turned
      exact State.stationLaw_congr hs (fun addr => (congrArg (State.stationRow · addr) hturned :)) fun g => h.seg g
  pending _ _ h := State.stationLaw_congr h (fun _ => rfl) fun g => by cases g <;> rfl
  cold := State.cold_stationLaw
  restart _ tag h := State.restarted_stationLaw h tag

/-- Settles O9: a station joins and leaves its configure list as it begins and ends to await, and a segment that
goes DOWN or is restored takes its stations with it. -/
theorem stepKeepsStationLaw : Obligations.StepKeepsStationLaw := station_law.step

end Sys2Proof.Machine
end

section
/-! PROOF. Every step keeps the laws of the Dispatch Unit (R92, R96): the law of one row, by how often each
ticket plans it, and what each round makes of it. -/

namespace Sys2Proof.Machine

/-! ### How often a ticket plans a row -/

/-- The number of PLANNED stops at a row of a ticket that is OPEN or HANDED (R96). -/
def Ticket.planned (k : Ticket) (row : Nat) : Nat :=
  if k.state = .opened ∨ k.state = .handed then k.stops.countP fun p => p.row = row && p.isPlanned else 0

theorem Ticket.plans_iff {k : Ticket} {row : Nat} : k.plans row ↔ k.planned row ≠ 0 := by
  unfold Ticket.plans Ticket.planned
  split_ifs with hlive
  · simp [hlive, Stop.isPlanned]
  · simp [hlive]

theorem Ticket.planned_of_not_live {k : Ticket} (h : ¬ (k.state = .opened ∨ k.state = .handed)) (row : Nat) :
    k.planned row = 0 := if_neg h

theorem Ticket.planned_of_nil {k : Ticket} (h : k.stops = []) (row : Nat) : k.planned row = 0 := by
  unfold Ticket.planned
  rw [h]
  exact ite_self 0

theorem Ticket.planned_holdStart (k : Ticket) (h : Option Word32) (row : Nat) :
    ({ k with holdStart := h } : Ticket).planned row = k.planned row := rfl

/-- The end of a stop takes one PLANNED stop of its row, and none of another (R105). -/
theorem countP_endStop (row x : Nat) {st : StopStatus} (hst : st ≠ .planned) (mass : Option Nat) (l : List Stop) :
    (endStop row st mass l).countP (fun p => p.row = x && p.isPlanned) =
      l.countP (fun p => p.row = x && p.isPlanned) - if x = row then 1 else 0 := by
  induction l with
  | nil => simp [endStop]
  | cons p l ih =>
    unfold endStop
    by_cases hp : (p.row = row && p.isPlanned) = true
    · rw [if_pos hp]
      simp only [Bool.and_eq_true, decide_eq_true_eq] at hp
      obtain ⟨rfl, hplanned⟩ := hp
      have hended : ({ p with status := st, mass := mass } : Stop).isPlanned = false := by
        simpa [Stop.isPlanned] using hst
      by_cases hx : x = p.row
      · simp [hended, hplanned, hx]
      · simp [hended, hx, Ne.symm hx]
    · rw [if_neg hp, List.countP_cons, List.countP_cons, ih]
      by_cases hx : x = row
      · subst hx
        simp [hp]
      · simp [hx]

theorem Ticket.planned_stopEnded (k : Ticket) (row x : Nat) {st : StopStatus} (hst : st ≠ .planned)
    (mass : Option Nat) : (k.stopEnded row st mass).planned x = k.planned x - if x = row then 1 else 0 := by
  have hcount := countP_endStop row x hst mass k.stops
  by_cases hlive : k.state = .opened ∨ k.state = .handed
  · have hk : k.planned x = k.stops.countP (fun p => p.row = x && p.isPlanned) := if_pos hlive
    rw [hk, ← hcount]
    by_cases hc : k.completesAt row st mass
    · have hstate : (k.stopEnded row st mass).state = .complete := if_pos hc
      rw [Ticket.planned_of_not_live (by simp [hstate])]
      obtain ⟨-, hnone⟩ := hc
      refine (List.countP_eq_zero.2 fun p hp => ?_).symm
      simp [Stop.isPlanned, hnone p hp]
    · have hstate : (k.stopEnded row st mass).state = k.state := if_neg hc
      rw [Ticket.planned, hstate, if_pos hlive]
      rfl
  · have hc : ¬ k.completesAt row st mass := fun hc => hlive (Or.inr hc.1)
    have hstate : (k.stopEnded row st mass).state = k.state := if_neg hc
    rw [Ticket.planned_of_not_live hlive, Ticket.planned_of_not_live (by rwa [hstate]), Nat.zero_sub]

theorem Ticket.planned_handedBack {k : Ticket} (h : k.state = .opened) (cause : HandBackCause) (row : Nat) :
    (k.handedBack cause).planned row = k.planned row := by
  rw [Ticket.planned, Ticket.planned, if_pos (Or.inl h)]
  by_cases hplanned : k.stops.any (fun p => p.status = .planned) = true
  · have hstate : (k.handedBack cause).state = .handed := if_pos hplanned
    rw [if_pos (Or.inr hstate)]
    rfl
  · have hstate : (k.handedBack cause).state = .complete := if_neg hplanned
    rw [if_neg (by simp [hstate])]
    refine (List.countP_eq_zero.2 fun p hp => ?_).symm
    simp only [List.any_eq_true, decide_eq_true_eq, not_exists, not_and] at hplanned
    simp [Stop.isPlanned, hplanned p hp]

theorem Ticket.planned_recalled (k : Ticket) (row : Nat) : k.recalled.planned row = 0 :=
  Ticket.planned_of_not_live (by simp [Ticket.recalled]) row

theorem Ticket.planned_assigned {k : Ticket} (h : k.state = .opened) (row vol x n : Nat) :
    ({ k with stops := k.stops ++ [{ row := row, volume := vol, status := .planned, mass := none }],
              remaining := n } : Ticket).planned x = k.planned x + if x = row then 1 else 0 := by
  rw [Ticket.planned, Ticket.planned, if_pos (Or.inl h), if_pos (Or.inl h), List.countP_append,
    List.countP_singleton]
  by_cases hx : x = row
  · simp [hx, Stop.isPlanned]
  · simp [hx, Ne.symm hx]

theorem Ticket.mem_plannedRows {k : Ticket} (h : k.state = .opened ∨ k.state = .handed) {row : Nat} :
    row ∈ k.plannedRows ↔ k.planned row ≠ 0 := by
  rw [← Ticket.plans_iff, Ticket.plans]
  simp only [Ticket.plannedRows, List.mem_map, List.mem_filter, Stop.isPlanned, decide_eq_true_eq]
  constructor
  · rintro ⟨p, ⟨hp, hs⟩, rfl⟩
    exact ⟨h, p, hp, rfl, hs⟩
  · rintro ⟨-, p, hp, hr, hs⟩
    exact ⟨p, ⟨hp, hs⟩, hr⟩

/-! ### The law of a row -/

/-- The law of one row: in the list by R92's conditions, unless its place is open, and assigned to the one slot
that plans it once (R96, R17). -/
structure State.RowDispatched (s : State) (opened : Prop) (row : Nat) : Prop where
  listed : (s.containerRow row).bad = false → ¬ opened →
    (row ∈ s.dispatch.list ↔ (s.container row).eligible = true)
  unloaded : (s.containerRow row).bad = false → (s.container row).loaded = false →
    (s.container row).assignment = none
  assigned : (s.containerRow row).bad = false → ∀ n,
    (s.container row).assignment = some n ↔ n < 16 ∧ (s.ticket n).planned row ≠ 0
  once : ∀ n, n < 16 → (s.ticket n).planned row ≤ 1
  oneSlot : ∀ m n, m < 16 → n < 16 → (s.ticket m).planned row ≠ 0 → (s.ticket n).planned row ≠ 0 → m = n
  beyond : 256 ≤ row → s.containerRow row = Row.good Container.unloaded

/-- The laws of the Dispatch Unit within an event. -/
def State.Dispatched (p : Phase) (s : State) : Prop :=
  s.dispatch.list.Nodup ∧ ∀ row, s.RowDispatched (p = .placing row) row

theorem State.dispatchLaw_iff {s : State} : s.dispatchLaw ↔ s.Dispatched .between := by
  unfold State.dispatchLaw State.Dispatched
  simp only [Ticket.plans_iff]
  constructor
  · rintro ⟨hbeyond, hnodup, hrows, honce, hslot⟩
    refine ⟨hnodup, fun row => ⟨fun hgood _ => (hrows row hgood).1, fun hgood => (hrows row hgood).2.1,
      fun hgood => (hrows row hgood).2.2, fun n hn => ?_, fun m n hm hn => hslot m n row hm hn, hbeyond row⟩⟩
    by_cases hzero : (s.ticket n).planned row = 0
    · rw [hzero]
      exact Nat.zero_le 1
    · have hone := honce n row hn hzero
      unfold Ticket.planned
      split_ifs
      · exact Nat.le_of_eq hone
      · exact Nat.zero_le 1
  · rintro ⟨hnodup, hrows⟩
    refine ⟨fun row => (hrows row).beyond, hnodup, fun row hgood => ⟨(hrows row).listed hgood nofun,
      (hrows row).unloaded hgood, (hrows row).assigned hgood⟩, fun n row hn hplans => ?_,
      fun m n row hm hn => (hrows row).oneSlot m n hm hn⟩
    have hle := (hrows row).once n hn
    have hlive : (s.ticket n).state = .opened ∨ (s.ticket n).state = .handed := (Ticket.plans_iff.2 hplans).1
    rw [Ticket.planned, if_pos hlive] at hle hplans
    exact Nat.le_antisymm hle (Nat.one_le_iff_ne_zero.2 hplans)

namespace State.RowDispatched

variable {s t : State} {opened opened' : Prop} {row : Nat}

theorem weaken (h : s.RowDispatched opened row) (ho : opened → opened') : s.RowDispatched opened' row :=
  { h with listed := fun hgood hn => h.listed hgood (mt ho hn) }

/-- A row that no round touches. -/
theorem congr (h : s.RowDispatched opened row) (hrow : t.containerRow row = s.containerRow row)
    (hplanned : ∀ n, n < 16 → (t.ticket n).planned row = (s.ticket n).planned row)
    (hlist : ¬ opened' → (row ∈ t.dispatch.list ↔ row ∈ s.dispatch.list) ∧ ¬ opened) :
    t.RowDispatched opened' row where
  listed hgood hn := by
    rw [hrow] at hgood
    rw [State.container, hrow]
    exact (hlist hn).1.trans (h.listed hgood (hlist hn).2)
  unloaded hgood := by
    rw [hrow] at hgood
    rw [State.container, hrow]
    exact h.unloaded hgood
  assigned hgood n := by
    rw [hrow] at hgood
    rw [State.container, hrow]
    refine (h.assigned hgood n).trans (and_congr_right fun hn => ?_)
    rw [hplanned n hn]
  once n hn := by
    rw [hplanned n hn]
    exact h.once n hn
  oneSlot m n hm hn := by
    rw [hplanned m hm, hplanned n hn]
    exact h.oneSlot m n hm hn
  beyond hle := hrow.trans (h.beyond hle)

/-- A row that no ticket plans. -/
theorem of_unplanned (hplanned : ∀ n, n < 16 → (t.ticket n).planned row = 0)
    (hnone : (t.containerRow row).bad = false → (t.container row).assignment = none)
    (hlist : (t.containerRow row).bad = false → ¬ opened' →
      (row ∈ t.dispatch.list ↔ (t.container row).eligible = true))
    (hbeyond : 256 ≤ row → t.containerRow row = Row.good Container.unloaded) :
    t.RowDispatched opened' row where
  listed := hlist
  unloaded hgood _ := hnone hgood
  assigned hgood n := by
    rw [hnone hgood]
    exact ⟨nofun, fun h => absurd (hplanned n h.1) h.2⟩
  once n hn := by
    rw [hplanned n hn]
    exact Nat.zero_le 1
  oneSlot m n hm hn h := absurd (hplanned m hm) h
  beyond := hbeyond

/-- A row written with the assignment it had. -/
theorem of_put (h : s.RowDispatched opened row) {r : Row Container} (hrow : t.containerRow row = r)
    (hgood : r.bad = false → (s.containerRow row).bad = false ∧
      Container.Changed (s.container row) r.data ∧
      (¬ opened' → (¬ opened → (row ∈ s.dispatch.list ↔ (s.container row).eligible = true)) →
        (row ∈ t.dispatch.list ↔ r.data.eligible = true)))
    (hbeyond : 256 ≤ row → r = Row.good Container.unloaded)
    (hticket : ∀ n, t.ticket n = s.ticket n) : t.RowDispatched opened' row := by
  have hdata : t.container row = r.data := congrArg Row.data hrow
  have assignment (hr : r.bad = false) : r.data.assignment = (s.container row).assignment ∧
      (r.data.loaded = false → r.data.assignment = none) := by
    obtain ⟨hwas, hchanged, -⟩ := hgood hr
    have hunloaded := h.unloaded hwas
    rcases hchanged.assignment with ⟨ha, hl | hnone⟩ | ⟨hl, hnone⟩
    · exact ⟨ha, fun hr => ha.trans (hunloaded (hl ▸ hr))⟩
    · exact ⟨ha, fun _ => hnone⟩
    · exact ⟨hnone.trans (hunloaded hl).symm, fun _ => hnone⟩
  refine ⟨fun hr hn => ?_, fun hr => ?_, fun hr n => ?_, fun n hn => ?_, fun m n hm hn => ?_, fun hle =>
    hrow.trans (hbeyond hle)⟩
  · rw [hrow] at hr
    obtain ⟨hwas, -, hlist⟩ := hgood hr
    rw [hdata]
    exact hlist hn (h.listed hwas)
  · rw [hrow] at hr
    rw [hdata]
    exact (assignment hr).2
  · rw [hrow] at hr
    rw [hdata, (assignment hr).1, hticket]
    exact h.assigned (hgood hr).1 n
  · rw [hticket]
    exact h.once n hn
  · rw [hticket, hticket]
    exact h.oneSlot m n hm hn

/-- A row that reads good is planned by no slot but that of its assignment. -/
theorem planned_of_unassigned (h : s.RowDispatched opened row) (hgood : (s.containerRow row).bad = false)
    (hnone : (s.container row).assignment = none) (n : Nat) (hn : n < 16) : (s.ticket n).planned row = 0 := by
  by_contra hplanned
  have := (h.assigned hgood n).2 ⟨hn, hplanned⟩
  rw [hnone] at this
  exact nomatch this

/-- Once the stop of its slot has its end, no ticket plans the row. -/
theorem planned_of_ended (h : s.RowDispatched opened row) {slot : Nat} (hslot : slot < 16)
    (hplans : (s.ticket slot).planned row ≠ 0)
    (hticket : ∀ n x, (t.ticket n).planned x = (s.ticket n).planned x - if n = slot ∧ x = row then 1 else 0)
    (n : Nat) (hn : n < 16) : (t.ticket n).planned row = 0 := by
  rw [hticket]
  by_cases heq : n = slot
  · subst heq
    rw [if_pos ⟨rfl, rfl⟩]
    have := h.once n hn
    omega
  · have hzero : (s.ticket n).planned row = 0 := by
      by_contra hne
      exact heq (h.oneSlot n slot hn hslot hne hplans)
    rw [hzero, Nat.zero_sub]

end State.RowDispatched

/-! ### The rounds -/

/-- The tells of a recall leave of the entries what the list goes by, and list each row by it (R94, R106). -/
theorem State.foldl_tellSame_list (rows : List Nat) (s : State) (r : Nat) :
    ((rows.foldl State.tellSame s).container r).eligible = (s.container r).eligible ∧
      (r ∈ (rows.foldl State.tellSame s).dispatch.list ↔
        if r ∈ rows then (s.container r).eligible = true else r ∈ s.dispatch.list) := by
  induction rows generalizing s with
  | nil => simp
  | cons row rows ih =>
    obtain ⟨heligible, hlist⟩ := ih (s.tellSame row)
    obtain ⟨q, htold⟩ := s.tell_containerRow row (s.container row)
    have hsame : ((s.tellSame row).container r).eligible = (s.container r).eligible := by
      have hr : (s.tellSame row).container r = _ := congrArg Row.data (htold r)
      rw [hr]
      split_ifs with h
      · rw [h]
        rfl
      · rfl
    rw [List.foldl_cons]
    refine ⟨heligible.trans hsame, hlist.trans ?_⟩
    rw [hsame, State.tellSame, s.mem_tell_list row r]
    by_cases hmem : r ∈ rows
    · simp [hmem]
    · by_cases hrow : r = row
      · simp [hrow]
      · simp [hmem, hrow]

/-- The list after a recall: a row it has unassigned is in it where it is eligible (R94, R106). -/
theorem State.recallTold_list (s : State) (slot r : Nat) :
    r ∈ (s.recallTold slot).dispatch.list ↔
      if r ∈ (s.ticket slot).plannedRows then ((s.recallTold slot).container r).eligible = true
      else r ∈ s.dispatch.list := by
  have hun (rows : List Nat) (x : State) : (rows.foldl State.unassign x).dispatch = x.dispatch := by
    induction rows generalizing x with
    | nil => rfl
    | cons row rows ih => exact ih _
  have htold := State.foldl_tellSame_list (s.ticket slot).plannedRows
    (((s.ticket slot).plannedRows.foldl State.unassign s).putTicket slot (s.ticket slot).recalled) r
  obtain ⟨heligible, hlist⟩ := htold
  change ((s.recallTold slot).container r).eligible = _ at heligible
  rw [heligible]
  refine hlist.trans ?_
  rw [State.putTicket_dispatch, hun]

theorem State.recall_list (s : State) (slot : Nat) :
    (s.recall slot).dispatch.list = (s.recallTold slot).dispatch.list := by
  by_cases hcurrent : s.running = true ∧ s.dispatch.dispatchIndex = slot
  · rw [State.recall_of_current hcurrent.1 hcurrent.2]
    obtain ⟨n, p, hd⟩ := State.advance_dispatch 16 (s.recallTold slot)
    rw [hd]
  · rw [State.recall_of_not_current (by rwa [not_and_or, Bool.not_eq_true] at hcurrent)]

/-- The slot taken for a row's is the one that plans it, whether its entry reads good or not (R96; log entry
13). -/
theorem State.RowDispatched.assignedSlot {s : State} {row : Nat} {opened : Prop}
    (h : s.RowDispatched opened row) :
    (∀ slot, s.assignedSlot row = some slot → slot < 16 ∧ (s.ticket slot).planned row ≠ 0) ∧
      (s.assignedSlot row = none → ∀ n, n < 16 → (s.ticket n).planned row = 0) := by
  have hplans (n : Nat) : (((s.ticket n).state = .opened || (s.ticket n).state = .handed) &&
      (s.ticket n).stops.any fun p => p.row = row && p.isPlanned) = true ↔ (s.ticket n).planned row ≠ 0 := by
    rw [← Ticket.plans_iff, Ticket.plans]
    simp [Stop.isPlanned]
  by_cases hbad : (s.containerRow row).bad = true
  · rw [State.assignedSlot, if_pos hbad, State.plannedSlot]
    refine ⟨fun slot hslot => ?_, fun hnone n hn => ?_⟩
    · refine ⟨List.mem_range.1 (List.mem_of_find?_eq_some hslot), ?_⟩
      have := List.find?_some hslot
      exact (hplans slot).1 this
    · by_contra hne
      exact List.find?_eq_none.1 hnone n (List.mem_range.2 hn) ((hplans n).2 hne)
  · have hgood : (s.containerRow row).bad = false := by simpa using hbad
    rw [State.assignedSlot_of_good hgood]
    exact ⟨fun slot hslot => (h.assigned hgood slot).1 hslot, fun hnone => h.planned_of_unassigned hgood hnone⟩

theorem State.discharge_planned {s : State} {row : Nat} {opened : Prop} (h : s.RowDispatched opened row)
    (r : Row Container) (n : Nat) (hn : n < 16) (x : Nat) :
    ((s.discharge row r).ticket n).planned x = if x = row then 0 else (s.ticket n).planned x := by
  have hticket (m : Nat) (y : Nat) : ((s.discharge row r).ticket m).planned y = (s.ticket m).planned y -
      if s.assignedSlot row = some m ∧ y = row then 1 else 0 := by
    rw [State.discharge_ticket]
    by_cases hm : s.assignedSlot row = some m
    · rw [if_pos hm, Ticket.planned_stopEnded _ _ _ (by exact StopStatus.noConfusion)]
      simp only [hm, true_and]
    · rw [if_neg hm, if_neg fun h => hm h.1, Nat.sub_zero]
  by_cases hx : x = row
  · subst hx
    rw [if_pos rfl]
    obtain ⟨hsome, hnone⟩ := h.assignedSlot
    cases hslot : s.assignedSlot x with
    | none =>
      rw [hticket, hnone hslot n hn, Nat.zero_sub]
    | some slot =>
      obtain ⟨hlt, hplans⟩ := hsome slot hslot
      refine h.planned_of_ended hlt hplans (fun m y => ?_) n hn
      rw [hticket, hslot]
      simp only [Option.some.injEq, eq_comm]
  · rw [if_neg hx, hticket, if_neg fun h => hx h.2, Nat.sub_zero]

/-- A slot's ticket with another beginning of its hold, and the others as they were, plan what they did. -/
theorem planned_congr {k w : Ticket} (h : ∃ start, w = { k with holdStart := start }) (row : Nat) :
    w.planned row = k.planned row := by
  obtain ⟨start, rfl⟩ := h
  exact Ticket.planned_holdStart k start row

/-- Only the premise that no row is in the list twice. -/
def Premises.onceOnly : Premises := { own := False, apart := False, once := True }

/-- A row that is not written, while its place stays as open as it was. -/
theorem State.RowDispatched.of_same {s t : State} {p q : Phase} {row : Nat}
    (h : s.RowDispatched (p = .placing row) row) (hrow : t.containerRow row = s.containerRow row)
    (hplanned : ∀ n, n < 16 → (t.ticket n).planned row = (s.ticket n).planned row)
    (hlist : row ∈ t.dispatch.list ↔ row ∈ s.dispatch.list)
    (hopen : p = .placing row → q = .placing row) : t.RowDispatched (q = .placing row) row :=
  h.congr hrow hplanned fun hq => ⟨hlist, mt hopen hq⟩

/-- An entry written in place: its assignment and its place in the list stand, unless that is open. -/
theorem State.Dispatched.put {s : State} {p : Phase} (hs : s.Dispatched p) {row : Nat} {r : Row Container}
    (hgood : r.bad = false → (s.containerRow row).bad = false ∧ Container.Changed (s.container row) r.data ∧
      (p ≠ .placing row → r.data.eligible = (s.container row).eligible))
    (hbeyond : 256 ≤ row → s.containerRow row = Row.good Container.unloaded → r = Row.good Container.unloaded) :
    (s.putContainer row r).Dispatched p := by
  refine ⟨hs.1, fun x => ?_⟩
  have hput := State.containerRow_putContainer s row x r
  by_cases hx : x = row
  · subst hx
    rw [if_pos rfl] at hput
    refine (hs.2 x).of_put hput (fun hr => ?_) (fun hle => hbeyond hle ((hs.2 x).beyond hle)) fun _ => rfl
    obtain ⟨hwas, hchanged, heligible⟩ := hgood hr
    refine ⟨hwas, hchanged, fun hp hlist => ?_⟩
    rw [heligible hp]
    exact hlist hp
  · rw [if_neg hx] at hput
    exact (hs.2 x).of_same hput (fun _ _ => rfl) Iff.rfl id

/-- A row written that no ticket plans then, and that is not listed or its place open; other rows stand as
they did. -/
theorem State.Dispatched.drop {s t : State} {p : Phase} (hs : s.Dispatched p) (hnodup : t.dispatch.list.Nodup)
    {row : Nat} {r : Row Container}
    (hrow : ∀ x, t.containerRow x = if x = row then r else s.containerRow x)
    (hplanned : ∀ n, n < 16 → ∀ x, (t.ticket n).planned x = if x = row then 0 else (s.ticket n).planned x)
    (hlist : ∀ x, x ≠ row → (x ∈ t.dispatch.list ↔ x ∈ s.dispatch.list))
    (hnone : r.data.assignment = none)
    (hrowList : p ≠ .placing row → (row ∈ t.dispatch.list ↔ r.data.eligible = true))
    (hbeyond : 256 ≤ row → s.containerRow row = Row.good Container.unloaded → r = Row.good Container.unloaded) :
    t.Dispatched p := by
  refine ⟨hnodup, fun x => ?_⟩
  have hput := hrow x
  by_cases hx : x = row
  · subst hx
    rw [if_pos rfl] at hput
    have hdata : t.container x = r.data := congrArg Row.data hput
    refine State.RowDispatched.of_unplanned (fun n hn => (hplanned n hn x).trans (if_pos rfl)) (fun _ => ?_)
      (fun _ hp => ?_) fun hle => hput.trans (hbeyond hle ((hs.2 x).beyond hle))
    · rw [hdata]
      exact hnone
    · rw [hdata]
      exact hrowList hp
  · rw [if_neg hx] at hput
    exact (hs.2 x).of_same hput (fun n hn => (hplanned n hn x).trans (if_neg hx)) (hlist x hx) id

/-- The containers and the list as they were, and tickets that plan what they did. -/
theorem State.Dispatched.congr {s t : State} {p q : Phase} (hs : s.Dispatched p)
    (hrow : ∀ x, t.containerRow x = s.containerRow x) (hlist : t.dispatch.list = s.dispatch.list)
    (hplanned : ∀ n, n < 16 → ∀ x, (t.ticket n).planned x = (s.ticket n).planned x)
    (hopen : ∀ x, p = .placing x → q = .placing x) : t.Dispatched q :=
  ⟨hlist ▸ hs.1, fun x => (hs.2 x).of_same (hrow x) (fun n hn => hplanned n hn x) (by rw [hlist]) (hopen x)⟩

theorem State.Dispatched.leave {s : State} {row slot : Nat} (hs : s.Dispatched (.placing row))
    {st : StopStatus} {mass : Option Nat} (hst : st ≠ .planned) (hgood : (s.containerRow row).bad = false)
    (h : (s.container row).assignment = some slot) :
    (s.leavePlanned row slot st mass).Dispatched (.placing row) := by
  obtain ⟨hlt, hplans⟩ := ((hs.2 row).assigned hgood slot).1 h
  have hticket (n x : Nat) : ((s.leavePlanned row slot st mass).ticket n).planned x =
      (s.ticket n).planned x - if n = slot ∧ x = row then 1 else 0 := by
    rw [State.leavePlanned_ticket]
    by_cases hn : n = slot
    · subst hn
      rw [if_pos rfl, Ticket.planned_stopEnded _ _ _ hst]
      simp only [true_and]
    · rw [if_neg hn, if_neg fun h => hn h.1, Nat.sub_zero]
  have hlist : (s.leavePlanned row slot st mass).dispatch.list = s.dispatch.list :=
    congrArg Dispatch.list (s.leavePlanned_dispatch row slot st mass)
  refine hs.drop (hlist ▸ hs.1) (State.leavePlanned_containerRow s row slot st mass) (fun n hn x => ?_)
    (fun x _ => by rw [hlist]) rfl (fun hp => absurd rfl hp) fun _ hcold => ?_
  · by_cases hx : x = row
    · subst hx
      rw [if_pos rfl]
      exact (hs.2 x).planned_of_ended hlt hplans hticket n hn
    · rw [if_neg hx, hticket, if_neg fun h => hx h.2, Nat.sub_zero]
  · have hc : s.container row = Container.unloaded := congrArg Row.data hcold
    rw [hc] at h
    exact nomatch h

theorem State.Dispatched.tell {s : State} {row : Nat} (hs : s.Dispatched (.placing row)) (was : Container) :
    (s.tell row was).Dispatched .within := by
  obtain ⟨q, hrow⟩ := s.tell_containerRow row was
  refine ⟨State.tell_list_nodup hs.1 row was, fun x => ?_⟩
  have hlist := s.mem_tell_list row x was
  have hput := hrow x
  by_cases hx : x = row
  · subst hx
    rw [if_pos rfl] at hput hlist
    refine (hs.2 x).of_put hput (fun hr => ⟨hr, ⟨id, Or.inl ⟨rfl, Or.inl rfl⟩⟩, fun _ _ => hlist⟩)
      (fun hle => ?_) (s.tell_ticket_eq x was)
    have hcold := (hs.2 x).beyond hle
    have hc : s.container x = Container.unloaded := congrArg Row.data hcold
    have htold : s.tell x was = s.leaveList x := by
      refine State.tell_of_ineligible (fun hfull => ?_) (by rw [hc]; rfl)
      rw [hc] at hfull
      exact nomatch hfull
    rw [← hput, htold, State.leaveList_containerRow]
    exact hcold
  · rw [if_neg hx] at hput hlist
    refine (hs.2 x).congr hput (fun n _ => by rw [s.tell_ticket_eq row was n]) fun _ => ⟨hlist, ?_⟩
    exact fun hp => hx (Phase.placing.inj hp).symm

theorem State.Dispatched.discharge {s : State} (hs : s.Dispatched .within) {row : Nat} {r : Row Container}
    (hnone : r.data.assignment = none) (heligible : r.data.eligible = false)
    (hbeyond : rowStays row (s.containerRow row) r) : (s.discharge row r).Dispatched .within := by
  have hlist : (s.discharge row r).dispatch.list = s.dispatch.list.filter (· ≠ row) :=
    (congrArg Dispatch.list (s.discharge_dispatch row r) :)
  refine hs.drop (hlist ▸ hs.1.filter _) (fun x => State.discharge_containerRow s row x r)
    (fun n hn x => State.discharge_planned (hs.2 row) r n hn x) (fun x hx => ?_) hnone (fun _ => ?_) hbeyond
  · rw [hlist]
    simp [hx]
  · rw [hlist, heligible]
    simp

/-- A container of the list, assigned to the current ticket, leaves the list (R100, R96). -/
theorem State.Dispatched.assign {s : State} (hs : s.Dispatched .within) (hring : s.ringHeld) {row : Nat}
    (vol : Nat) (hrun : s.running = true) (hgood : (s.containerRow row).bad = false)
    (hmem : row ∈ s.dispatch.list) : (s.assign row vol).Dispatched .within := by
  have hopen := State.running_iff.1 hrun
  have heligible := ((hs.2 row).listed hgood nofun).1 hmem
  obtain ⟨hloaded, hunassigned⟩ : (s.container row).loaded = true ∧ (s.container row).assignment = none := by
    simp only [Container.eligible, Bool.and_eq_true, Option.isNone_iff_eq_none] at heligible
    exact ⟨heligible.1.1.1.1, heligible.2⟩
  have hbefore := (hs.2 row).planned_of_unassigned hgood hunassigned
  have hplanned (n x : Nat) : ((s.assign row vol).ticket n).planned x =
      (s.ticket n).planned x + if n = s.dispatch.dispatchIndex ∧ x = row then 1 else 0 := by
    rw [State.assign_ticket]
    by_cases hn : n = s.dispatch.dispatchIndex
    · subst hn
      rw [if_pos rfl, Ticket.planned_assigned hopen]
      simp only [true_and]
      rfl
    · rw [if_neg hn, if_neg fun h => hn h.1, Nat.add_zero]
  have hlist : (s.assign row vol).dispatch.list = s.dispatch.list.filter (· ≠ row) := rfl
  refine ⟨hlist ▸ hs.1.filter _, fun x => ?_⟩
  have hput := State.assign_containerRow s row vol x
  by_cases hx : x = row
  · subst hx
    rw [if_pos rfl] at hput
    have hdata : (s.assign x vol).container x =
        { s.container x with assignment := some s.dispatch.dispatchIndex } := congrArg Row.data hput
    have hone (n : Nat) (hn : n < 16) : ((s.assign x vol).ticket n).planned x =
        if n = s.dispatch.dispatchIndex then 1 else 0 := by
      rw [hplanned, hbefore n hn, Nat.zero_add]
      simp only [and_true]
    refine ⟨fun _ _ => ?_, fun _ hl => ?_, fun _ n => ?_, fun n hn => ?_, fun m n hm hn hmp hnp => ?_, fun hle => ?_⟩
    · rw [hlist, hdata]
      simp [Container.eligible]
    · rw [hdata] at hl
      exact absurd (hloaded.symm.trans hl).symm Bool.false_ne_true
    · rw [hdata]
      constructor
      · intro h
        obtain rfl := Option.some.inj h
        refine ⟨hring.2.1, ?_⟩
        rw [hone _ hring.2.1, if_pos rfl]
        exact Nat.one_ne_zero
      · rintro ⟨hn, hne⟩
        rw [hone n hn] at hne
        by_contra h
        exact hne (if_neg fun heq => h (congrArg some heq.symm))
    · rw [hone n hn]
      split_ifs
      · exact le_rfl
      · exact Nat.zero_le 1
    · rw [hone m hm] at hmp
      rw [hone n hn] at hnp
      have hm' : m = s.dispatch.dispatchIndex := by
        by_contra h
        exact hmp (if_neg h)
      have hn' : n = s.dispatch.dispatchIndex := by
        by_contra h
        exact hnp (if_neg h)
      rw [hm', hn']
    · have hc : s.container x = Container.unloaded := congrArg Row.data ((hs.2 x).beyond hle)
      rw [hc] at hloaded
      exact nomatch hloaded
  · rw [if_neg hx] at hput
    refine (hs.2 x).of_same hput (fun n _ => ?_) ?_ id
    · rw [hplanned, if_neg fun h => hx h.2, Nat.add_zero]
    · rw [hlist]
      simp [hx]

theorem State.Dispatched.handBack {s : State} (hs : s.Dispatched .within) (cause : HandBackCause)
    (hrun : s.running = true) : (s.handBack cause).Dispatched .within := by
  obtain ⟨m, b, hd⟩ := s.handBack_dispatch cause
  refine hs.congr (s.handBack_containerRow cause) (congrArg Dispatch.list hd :) (fun n _ x => ?_) fun _ => id
  rw [planned_congr (s.handBack_ticket cause n)]
  split_ifs with hn
  · rw [Ticket.planned_handedBack (State.running_iff.1 hrun), hn]
    rfl
  · rfl

/-- A recalled ticket plans no row; each row it planned is listed where it is eligible then (R106). -/
theorem State.Dispatched.recalled {s : State} (hs : s.Dispatched .within) {slot : Nat} (hslot : slot < 16)
    (hlive : (s.ticket slot).state = .opened ∨ (s.ticket slot).state = .handed) :
    (s.recall slot).Dispatched .within := by
  obtain ⟨-, -, hassign, hothers⟩ := s.recallTold_spec slot
  have hplanned (n x : Nat) : ((s.recall slot).ticket n).planned x =
      if n = slot then 0 else (s.ticket n).planned x := by
    rw [planned_congr (s.recall_ticket slot n)]
    split_ifs
    · exact Ticket.planned_recalled ..
    · rfl
  have hrow := s.recall_containerRow slot
  have hlist (x : Nat) := s.recallTold_list slot x
  refine ⟨State.recall_list_nodup hs.1 slot, fun x => ?_⟩
  by_cases hx : x ∈ (s.ticket slot).plannedRows
  · have hplans := (Ticket.mem_plannedRows hlive).1 hx
    have hdata : (s.recall slot).container x = (s.recallTold slot).container x := congrArg Row.data (hrow x)
    refine State.RowDispatched.of_unplanned (fun n hn => ?_) (fun _ => ?_) (fun _ _ => ?_) fun hle => ?_
    · rw [hplanned]
      split_ifs with h
      · rfl
      · by_contra hne
        exact h ((hs.2 x).oneSlot n slot hn hslot hne hplans)
    · rw [hdata, hassign, if_pos hx]
    · rw [State.recall_list, hlist, if_pos hx, hdata]
    · have hcold := (hs.2 x).beyond hle
      have hnone := (hs.2 x).planned_of_unassigned (by rw [hcold]; rfl) (by rw [State.container, hcold]; rfl) slot hslot
      exact absurd hnone hplans
  · have hnot : (s.ticket slot).planned x = 0 := by
      by_contra hne
      exact hx ((Ticket.mem_plannedRows hlive).2 hne)
    refine (hs.2 x).of_same ((hrow x).trans (hothers x hx)) (fun n _ => ?_) ?_ id
    · rw [hplanned]
      split_ifs with h
      · rw [h, hnot]
      · rfl
    · rw [State.recall_list, hlist, if_neg hx]

theorem State.Dispatched.give {s : State} (hs : s.Dispatched .within) {k : Ticket}
    (hfree : (s.ticket s.dispatch.fillIndex).state = .free) (hstops : k.stops = []) :
    (if !s.running then (s.placed k).becomeCurrent else s.placed k).Dispatched .within := by
  refine hs.congr (fun x => ?_) ?_ (fun n _ x => ?_) fun _ => id
  · split_ifs <;> rfl
  · split_ifs <;> rfl
  · rw [planned_congr (s.placed_ticket_held k n)]
    split_ifs with hn
    · rw [Ticket.planned_of_nil hstops, hn, Ticket.planned_of_not_live (by simp [hfree])]
    · rfl

theorem Round.dispatched {A : Premises} {p q : Phase} {s t : State} (h : Round A s p q t) (hA : A.once)
    (hring : s.ringHeld) (hs : s.Dispatched p) : t.Dispatched q := by
  cases h with
  | start | takeUp | rest => exact hs.congr (fun _ => rfl) rfl (fun _ _ _ => rfl) nofun
  | container row r hbad h heligible hrow =>
    exact hs.put (fun hr => ⟨hbad ▸ hr, h, fun _ => heligible⟩) hrow
  | upset row c h => exact hs.put nofun fun hle => absurd h (Nat.not_lt.2 hle)
  | change row r hbad h hrow => exact hs.put (fun hr => ⟨hbad ▸ hr, h, fun hp => absurd rfl hp⟩) hrow
  | leave row slot st mass hst hgood h => exact hs.leave hst hgood h
  | tell row was => exact hs.tell was
  | discharge row r hlaw ha he hrow => exact hs.discharge ha he hrow
  | assign row vol hrun hgood hlist => exact hs.assign hring vol hrun hgood (hlist hA)
  | handBack cause hrun => exact hs.handBack cause hrun
  | recalled slot hslot h => exact hs.recalled hslot h
  | give k hfree hstate hstops => exact hs.give hfree hstops
  | retire slot hcomplete =>
    refine hs.congr (fun _ => rfl) rfl (fun n _ x => ?_) fun _ => id
    rw [State.ticket_putTicket]
    split_ifs with hn
    · rw [hn, Ticket.planned_of_not_live (k := s.ticket slot) (by simp [hcomplete])]
      rfl
    · rfl
  | passTaken => exact hs.congr (fun _ => rfl) rfl (fun _ _ _ => rfl) nofun

/-! ### The warm restart -/

/-- The containers and the list of a warm restart are those of the rebuilt list. -/
theorem State.restarted_rebuilt (s : State) (tag : Octet) :
    (s.restarted tag).containers = s.partsRestarted.rebuildList.containers ∧
      (s.restarted tag).dispatch = s.partsRestarted.rebuildList.dispatch := by
  unfold State.restarted
  generalize s.partsRestarted.rebuildList = u
  exact ⟨rfl, rfl⟩

theorem State.restarted_dispatchLaw {s : State} (hcanonical : s.tablesCanonical = true) (hs : s.dispatchLaw)
    (tag : Octet) : (s.restarted tag).dispatchLaw := by
  have hrebuilt := s.partsRestarted_rebuilt
  have hparts := State.partsRestarted_containerRow hcanonical
  obtain ⟨htickets, -, -, -⟩ := s.restarted_ring tag
  obtain ⟨hcontainers, hdispatch⟩ := s.restarted_rebuilt tag
  have hrow (row : Nat) : (s.restarted tag).containerRow row =
      { data := s.partsRestarted.rejoined 256 row, bad := (s.partsRestarted.containerRow row).bad } := by
    rw [State.containerRow, hcontainers]
    exact hrebuilt.rows row
  have hlist (row : Nat) : row ∈ (s.restarted tag).dispatch.list ↔
      row ∈ s.partsRestarted.eligibleBelow 256 := by
    rw [hdispatch]
    exact hrebuilt.perm.mem_iff
  have hnodup : (s.restarted tag).dispatch.list.Nodup := by
    rw [hdispatch]
    exact hrebuilt.perm.nodup_iff.2 (List.nodup_range.filter _)
  have hrestarted (row : Nat) : s.partsRestarted.container row = (s.container row).restart :=
    congrArg Row.data (hparts row)
  have hcold (row : Nat) (hle : 256 ≤ row) : s.partsRestarted.containerRow row = Row.good Container.unloaded := by
    rw [hparts, State.container, hs.1 row hle]
    rfl
  generalize s.restarted tag = t at htickets hrow hlist hnodup ⊢
  generalize s.partsRestarted = u at hrow hlist hrestarted hcold
  have hrejoined (row : Nat) : (u.rejoined 256 row).assignment = none ∧
      (u.rejoined 256 row).eligible = (u.container row).eligible := by
    have hnone : (u.container row).assignment = none := by
      rw [hrestarted]
      exact Container.restart_assignment _
    unfold State.rejoined
    split_ifs
    · exact ⟨hnone, rfl⟩
    · exact ⟨hnone, rfl⟩
  refine State.dispatchLaw_iff.2 ⟨hnodup, fun row => ?_⟩
  have hdata : t.container row = u.rejoined 256 row := congrArg Row.data (hrow row)
  refine State.RowDispatched.of_unplanned (fun n _ => ?_) (fun _ => ?_) (fun _ _ => ?_) fun hle => ?_
  · rw [State.ticket, htickets]
    exact Ticket.planned_of_not_live (by simp [Table.get, Ticket.free]) row
  · rw [hdata]
    exact (hrejoined row).1
  · rw [hlist, hdata, (hrejoined row).2, State.mem_eligibleBelow]
    refine and_iff_right_of_imp fun he => ?_
    by_contra hlt
    have hc : u.container row = Container.unloaded := congrArg Row.data (hcold row (Nat.not_lt.1 hlt))
    rw [hc] at he
    exact Bool.false_ne_true he
  · have hnot : row ∉ u.eligibleBelow 256 := fun h => Nat.not_lt.2 hle (State.mem_eligibleBelow.1 h).1
    rw [hrow, State.rejoined, if_neg hnot]
    exact hcold row hle

theorem dispatch_law : Law Premises.onceOnly
    (fun s => s.tablesCanonical = true ∧ s.ringLaw ∧ s.dispatchLaw)
    fun p s => s.tablesCanonical = true ∧ (s.ringHeld ∧ (p = .between → s.Settled)) ∧ s.Dispatched p where
  hold s h := ⟨False.elim, False.elim, fun _ => h.2.2.2.1⟩
  enters s h := ⟨h.1, ring_law.enters s h.2.1, State.dispatchLaw_iff.1 h.2.2⟩
  leaves s h := ⟨h.1, ring_law.leaves s h.2.1, State.dispatchLaw_iff.2 h.2.2⟩
  move {p s q t} h hs := by
    obtain ⟨hcanonical, hring, hdispatched⟩ := hs
    refine ⟨h.canonical hcanonical, ⟨h.ringHeld hring.1, h.settled hring.2⟩, ?_⟩
    cases h with
    | aside p h =>
      obtain ⟨hcontainers, htickets, hdispatch⟩ := h.unturned
      refine hdispatched.congr (fun x => ?_) (by rw [hdispatch]) (fun n _ x => ?_) fun _ => id
      · rw [State.containerRow, hcontainers, State.containerRow]
      · rw [State.ticket, htickets, State.ticket]
    | round h => exact h.dispatched trivial hring.1 hdispatched
  pending _ _ := id
  cold high := ⟨rfl, State.cold_ringLaw high, State.cold_dispatchLaw high⟩
  restart s tag hs := ⟨State.canonical_restarted hs.1 tag, s.restarted_ringLaw tag,
    State.restarted_dispatchLaw hs.1 hs.2.2 tag⟩

/-- Settles O11: within an event the place of the one row that changes is open, until the Dispatch Unit is told
of it. -/
theorem stepKeepsDispatchLaw : Obligations.StepKeepsDispatchLaw :=
  fun s t hcanonical _ hring hlaw h => (dispatch_law.step s t ⟨hcanonical, hring, hlaw⟩ h).2.2

end Sys2Proof.Machine
end

section
/-! PROOF. The five reads, on rows that read good: what each reply carries, octet by octet (R13, R54, R86, R109,
R155). -/

namespace Sys2Proof.Machine

/-! ### Fields -/

theorem suspectOctets_eq (x : Option SpikeDir) :
    suspectOctets x = match x with
      | some d => [1, d.code]
      | none => [0, 0] := by
  cases x <;> rfl

theorem optional_deposit (x : Option Deposit) :
    optional 7 (x.map fun d => cardOctets d.card ++ be32 d.expiry) = match x with
      | some d => 1 :: (cardOctets d.card ++ be32 d.expiry)
      | none => [0, 0, 0, 0, 0, 0, 0, 0] := by
  cases x <;> rfl

theorem optional_announcement (x : Option Announcement) :
    optional 2 (x.map fun a => [a.model, a.count]) = match x with
      | some m => [1, m.model, m.count]
      | none => [0, 0, 0] := by
  cases x <;> rfl

theorem optional_cause (x : Option HandBackCause) :
    optional 1 (x.map fun c => [c.code]) = match x with
      | some c => [1, c.code]
      | none => [0, 0] := by
  cases x <;> rfl

theorem optional_second (x : Option Word32) :
    optional 4 (x.map be32) = match x with
      | some h => 1 :: be32 h
      | none => [0, 0, 0, 0, 0] := by
  cases x <;> rfl

theorem optional_mass (x : Option Nat) :
    optional 2 (x.map be16) = match x with
      | some m => 1 :: be16 m
      | none => [0, 0, 0] := by
  cases x <;> rfl

/-- The whole seconds to an expiry, 0 once it is reached, as the replies carry them (R165). -/
theorem State.remaining_eq (s : State) (expiry : Word32) :
    s.remaining expiry =
      if (s.seconds - expiry).toNat < 2147483648 then 0 else (expiry - s.seconds).toNat := by
  simp only [State.remaining, reached, decide_eq_true_eq]

theorem State.liftRemaining_eq (s : State) (c : Container) :
    s.liftRemaining c = (c.liftTimer.map s.remaining).getD 0 := by
  unfold State.liftRemaining
  cases c.liftTimer <;> rfl

/-! ### READ CONTAINER -/

/-- READ CONTAINER on entries that read good reports the row as it stands (R13). -/
theorem exec_readContainer_of_good {s : State} {tag x : Octet} (hs : s.Settled) (h : s.Carries tag [0x13, x])
    (hrow : (s.containerRow x.toNat).bad = false)
    (hstation : (s.stationRow (rowStation x.toNat)).bad = false) :
    exec .readContainer s = .next (s.replied tag 0x13 .accepted ([octet x.toNat,
      yesNo (s.container x.toNat).loaded, yesNo (s.reachable x.toNat)] ++
        if (s.container x.toNat).loaded then s.containerReport x.toNat else [])) := by
  refine congrArg Host.Outcome.next (State.serve_answers (f := readContainerRequest)
    (a := s.reportContainer x.toNat) h rfl ?_)
  show ((s.readStation (rowStation x.toNat)).readContainer x.toNat).endEvent.reportContainer x.toNat = _
  rw [State.readStation_of_good hstation, State.readContainer_of_good hrow, State.endEvent_of_settled hs]

/-- The octets of the report, in the fields' order (R13). -/
theorem State.containerReport_eq (s : State) (row : Nat) :
    s.containerReport row =
      let c := s.container row
      let k := c.cfg
      ([octet k.stream] ++ be16 k.capacity ++ be16 k.depth ++ be16 k.deadZone ++
        [octet k.hatchVolume, octet k.unitCost, octet k.zone] ++ be16 k.warn ++ be16 k.full ++
        be16 k.hysteresis ++ [octet k.gain] ++ be16 k.spikeLimit ++ [octet k.qualityMin] ++
        be16 k.residue ++ [if k.grantUnknown then 0 else 1, k.reportMask]) ++
      [c.service.code, c.liftStage.code] ++ be16 ((c.liftTimer.map s.remaining).getD 0) ++
      be16 (c.estimate.getD 65535) ++ [c.fill.code] ++
      (match c.suspect with
        | some d => [1, d.code]
        | none => [0, 0]) ++
      (match s.depositAt row with
        | some d => 1 :: (cardOctets d.card ++ be32 d.expiry)
        | none => [0, 0, 0, 0, 0, 0, 0, 0]) ++
      [octet (c.assignment.getD 255)] ++
      (if row ∈ s.dispatch.list then 1 :: be32 c.joinSeq else [0, 0, 0, 0, 0]) ++
      [c.flags] ++ be16 c.deposits ++ [octet c.rejected] := by
  have hlisted : optional 4 (if row ∈ s.dispatch.list then some (be32 (s.container row).joinSeq) else none) =
      if row ∈ s.dispatch.list then 1 :: be32 (s.container row).joinSeq else [0, 0, 0, 0, 0] := by
    split_ifs <;> rfl
  rw [State.containerReport, hlisted]
  simp only [ContainerConfig.octets, yesNo, estimateOctets, slotOctet, optional_deposit, suspectOctets_eq,
    State.liftRemaining_eq]

/-! ### READ STATION -/

theorem exec_readStation_of_carries {s : State} {tag : Octet} {args : List Octet} {r : Answered}
    (h : s.Carries tag (0x03 :: args)) (hr : readStationRequest args s = r) (hsettled : r.state.Settled) :
    exec .readStation s = .next (r.state.replied tag 0x03 r.result r.data) :=
  congrArg _ (State.serve_answers_settled (f := readStationRequest) h rfl hr hsettled)

theorem State.loadedContainers_eq (s : State) (addr : Nat) :
    s.loadedContainers addr = (List.range 4).countP fun slot => (s.container (rowOf addr slot)).loaded := rfl

theorem State.stationReport_eq (s : State) (addr : Nat) :
    s.stationReport addr =
      let e := s.station addr
      [octet e.count] ++ be16 e.sampleInterval ++ be16 e.deadline ++
        [e.state.code, octet e.misses, octet e.attempts, if e.awaiting then 0 else 1] ++
        (match e.lastAnnounce with
          | some m => [1, m.model, m.count]
          | none => [0, 0, 0]) ++
        [e.errors] ++ be16 e.lateAnswers ++ be16 e.discarded ++
        [octet ((List.range 4).countP fun slot => (s.container (rowOf addr slot)).loaded),
          octet (s.deposits.countP fun d => d.row / 4 + 1 = addr)] := by
  simp only [State.stationReport, yesNo, optional_announcement, State.loadedContainers_eq] <;>
  rfl

/-! ### READ CARD -/

theorem exec_readCard_of_carries {s : State} {tag : Octet} {args : List Octet} {r : Answered}
    (h : s.Carries tag (0x24 :: args)) (hr : readCardRequest args s = r) :
    exec .readCard s = .next (r.state.replied tag 0x24 r.result r.data) :=
  congrArg _ (State.serve_answers (f := readCardRequest) h rfl hr)

/-- The report of a card row, which begins with the octets that named it (R54). -/
theorem State.cardReport_eq (s : State) (x y : Octet) :
    s.cardReport (u16 x y) =
      let c := s.card (u16 x y)
      [x, y, c.state.code, c.streamRights, c.zoneRights] ++ be16s c.balance ++
        [octet c.limit, octet c.reserved] ++ be16 c.periodDeposits ++ [if c.clamped then 1 else 0] ++
        availableOctets (c.balance - c.reserved) ++
        [octet (s.deposits.countP fun d => d.cardRow = u16 x y), flagOctet (s.cardRow (u16 x y)).bad] := by
  simp only [State.cardReport, be16_u16, flagOctet]
  rfl

/-! ### READ TICKET -/

theorem exec_readTicket_of_carries {s : State} {tag : Octet} {args : List Octet} {r : Answered}
    (h : s.Carries tag (0x33 :: args)) (hr : readTicketRequest args s = r) :
    exec .readTicket s = .next (r.state.replied tag 0x33 r.result r.data) :=
  congrArg _ (State.serve_answers (f := readTicketRequest) h rfl hr)

theorem State.ringReport_eq (s : State) :
    s.ringReport = [octet s.dispatch.fillIndex, octet s.dispatch.dispatchIndex,
        if s.running then 0 else 1] ++ be16 s.dispatch.list.length ++
      be16 (s.dispatch.list.countP fun row => (s.container row).fill = .full) ++
      be16 s.dispatch.missedFull := rfl

/-- The hold that remains is that of the current ticket, while it is OPEN with a hold (R109). -/
theorem State.optional_holdRemaining (s : State) (slot : Nat) :
    optional 2 ((s.holdRemaining slot).map be16) =
      match (s.ticket slot).holdStart with
      | some h =>
        if slot = s.dispatch.dispatchIndex ∧ (s.ticket slot).state = .opened ∧ (s.ticket slot).hold ≠ 0 then
          1 :: be16 (s.remaining (h + BitVec.ofNat 32 ((s.ticket slot).hold * 60)))
        else [0, 0, 0]
      | none => [0, 0, 0] := by
  by_cases hslot : slot = s.dispatch.dispatchIndex
  · have hcurrent : s.currentTicket = s.ticket slot := by rw [hslot]; rfl
    have hrun : s.running = true ↔ (s.ticket slot).state = .opened := by rw [← hcurrent]; exact State.running_iff
    simp only [State.holdRemaining, hslot.symm, decide_true, Bool.and_true, hrun, hcurrent, Ticket.holdExpiry,
      true_and]
    cases (s.ticket slot).holdStart with
    | none => split_ifs <;> rfl
    | some h =>
      by_cases hopen : (s.ticket slot).state = .opened <;> by_cases hzero : (s.ticket slot).hold = 0 <;>
        simp [hopen, hzero, optional]
  · have hnone : s.holdRemaining slot = none := if_neg (by simp [hslot])
    rw [hnone]
    cases (s.ticket slot).holdStart with
    | none => rfl
    | some h => exact (if_neg fun hc => hslot hc.1).symm

theorem Stop.octets_eq (p : Stop) :
    p.octets = [octet p.row] ++ be16 p.volume ++ [p.status.code] ++
      match p.mass with
      | some m => 1 :: be16 m
      | none => [0, 0, 0] := by
  rw [Stop.octets, optional_mass] <;> rfl

theorem State.ticketReport_eq (s : State) (slot : Nat) :
    s.ticketReport slot =
      let k := s.ticket slot
      be16 k.number ++ [octet k.stream] ++ be16 k.capacity ++ be16 k.remaining ++
        [octet k.maxStops] ++ be16 k.minVolume ++ [octet k.hold] ++
        (match k.cause with
          | some c => [1, c.code]
          | none => [0, 0]) ++
        (match k.holdStart with
          | some h => 1 :: be32 h
          | none => [0, 0, 0, 0, 0]) ++
        octet k.stops.length ::
        (k.stops.flatMap fun p => [octet p.row] ++ be16 p.volume ++ [p.status.code] ++
          match p.mass with
          | some m => 1 :: be16 m
          | none => [0, 0, 0]) ++
        (match k.holdStart with
          | some h =>
            if slot = s.dispatch.dispatchIndex ∧ k.state = .opened ∧ k.hold ≠ 0 then
              1 :: be16 (s.remaining (h + BitVec.ofNat 32 (k.hold * 60)))
            else [0, 0, 0]
          | none => [0, 0, 0]) := by
  rw [State.ticketReport, s.optional_holdRemaining slot, funext Stop.octets_eq]
  simp only [optional_cause, optional_second]

/-! ### READ JOURNAL -/

theorem exec_readJournal_of_carries {s : State} {tag : Octet} {args : List Octet} {r : Answered}
    (h : s.Carries tag (0x40 :: args)) (hr : readJournalRequest args s = r) :
    exec .readJournal s = .next (r.state.replied tag 0x40 r.result r.data) :=
  congrArg _ (State.serve_answers (f := readJournalRequest) h rfl hr)

theorem State.journalFaults_of_good {j : Journal} {rs : List (Row JournalRecord)} (i : Nat) (s : State)
    (h : ∀ r ∈ rs, r.bad = false) : State.journalFaults j i rs s = s := by
  induction rs generalizing i with
  | nil => rfl
  | cons r rs ih =>
    unfold State.journalFaults
    rw [if_neg (by simp [h r List.mem_cons_self])]
    exact ih (i + 1) fun x hx => h x (List.mem_cons_of_mem _ hx)

/-- A record that reads good, under its own sequence number (R86). -/
theorem recordOctets_of_good {seq : Word32} {r : Row JournalRecord} (h : r.bad = false) :
    recordOctets seq r = be32 seq ++ (if r.data.stamp.isSome then 1 else 0) ::
      (cardOctets r.data.card ++ [octet r.data.row, octet r.data.units] ++ be16s r.data.balance ++
        (match r.data.stamp with
          | some m => be16 m.day ++ be16 m.minute
          | none => [0, 0, 0, 0])) := by
  unfold recordOctets
  rw [h]
  cases hstamp : r.data.stamp with
  | none => simp [be16, octet, hstamp]
  | some m => simp [hstamp]

theorem Journal.report_of_good {j : Journal} {rs : List (Row JournalRecord)} (i : Nat)
    (h : ∀ r ∈ rs, r.bad = false) :
    j.report i rs = rs.flatMap fun r =>
      be32 r.data.seq ++ (if r.data.stamp.isSome then 1 else 0) ::
        (cardOctets r.data.card ++ [octet r.data.row, octet r.data.units] ++ be16s r.data.balance ++
          (match r.data.stamp with
            | some m => be16 m.day ++ be16 m.minute
            | none => [0, 0, 0, 0])) := by
  induction rs generalizing i with
  | nil => rfl
  | cons r rs ih =>
    have hr := h r List.mem_cons_self
    unfold Journal.report
    rw [List.flatMap_cons, ← ih (i + 1) fun x hx => h x (List.mem_cons_of_mem _ hx), ← recordOctets_of_good hr, hr]
    rfl

/-- Settles O31: each reply in the words of its report. -/
theorem readsChangeNothing : Obligations.ReadsChangeNothing := by
  unfold Obligations.ReadsChangeNothing
  intro s tag x hs left
  have hleft : s.remaining = left := funext s.remaining_eq
  refine ⟨fun h hrow hstation => ?container, fun h => ⟨fun hout => ?noStation, fun h1 h64 hgood => ?station⟩,
    fun y h => ⟨fun hgt => ?noCard, fun hle hgood => ?card⟩, fun h => ⟨fun hgt => ?noSlot, fun hle => ?ticket⟩,
    fun h => ⟨fun hout => ?noRecords, fun h1 h8 hgood => ?journal⟩⟩
  case container =>
    have hexec := exec_readContainer_of_good hs h hrow hstation
    rw [octet_toNat] at hexec
    have hreach : yesNo (s.reachable x.toNat) =
        if (s.station (rowStation x.toNat)).state = .inService then 0 else 1 := by
      simp only [yesNo, State.reachable, decide_eq_true_eq]
    refine ⟨fun hl => ?_, fun hl => ?_⟩
    · rw [hexec, hl, hreach]
      rfl
    · rw [hexec, hl, hreach, if_pos rfl, State.containerReport_eq, hleft]
      simp only [yesNo, if_true, List.append_assoc] <;>
      rfl
  case noStation =>
    refine exec_readStation_of_carries (r := refused s .range) h ?_ hs
    exact if_neg (by simp [isStation_eq_false hout])
  case station =>
    have hrequest : readStationRequest [x] s = s.reportStation x.toNat := by
      have hstation : isStation x.toNat = true := isStation_iff.2 ⟨h1, h64⟩
      refine (if_pos hstation).trans ?_
      rw [State.readStation_of_good hgood]
    refine ⟨fun hl => ?_, fun hl => ?_⟩
    · refine exec_readStation_of_carries (r := accepted s [x, 1, 0]) h (hrequest.trans ?_) hs
      refine (if_neg (by simp [hl])).trans ?_
      rw [octet_toNat]
      rfl
    · refine (exec_readStation_of_carries h (hrequest.trans (if_pos hl)) hs).trans ?_
      rw [State.stationReport_eq, octet_toNat]
      simp only [accepted, yesNo, if_true, List.append_assoc, List.cons_append, List.nil_append] <;>
      rfl
  case noCard => exact exec_readCard_of_carries (r := refused s .range) h (if_neg (Nat.not_le.2 hgt))
  case card =>
    refine ⟨?_, availableOctets_of_le⟩
    have hrequest : readCardRequest [x, y] s = accepted s (s.cardReport (u16 x y)) := by
      refine (if_pos hle).trans ?_
      rw [if_neg (by simp [hgood])]
    refine (exec_readCard_of_carries h hrequest).trans ?_
    simp only [accepted, State.cardReport_eq, hgood]
    rfl
  case noSlot => exact exec_readTicket_of_carries (r := refused s .range) h (if_pos hgt)
  case ticket =>
    have hrequest : readTicketRequest [x] s = _ := if_neg (Nat.not_lt.2 hle)
    have hexec := exec_readTicket_of_carries h hrequest
    refine ⟨fun hfree => ?_, fun hnot => ?_⟩
    · rw [hexec, if_pos hfree, State.ringReport_eq, hfree]
      rfl
    · rw [hexec, if_neg hnot, State.ringReport_eq, State.ticketReport_eq, hleft]
      simp only [accepted, List.append_assoc, List.cons_append, List.nil_append] <;>
      rfl
  case noRecords =>
    refine exec_readJournal_of_carries (r := refused s .range) h (if_neg ?_)
    simp only [Bool.and_eq_true, decide_eq_true_eq]
    omega
  case journal =>
    have hrequest : readJournalRequest [x] s = s.readJournal x.toNat := if_pos (by simp [h1, h8])
    refine (exec_readJournal_of_carries h hrequest).trans ?_
    simp only [State.readJournal, accepted, State.journalFaults_of_good 0 s hgood, Journal.report_of_good 0 hgood,
      List.length_take] <;>
    rfl

end Sys2Proof.Machine
end

section
/-! PROOF. A send turn where the segment's entries read good: what is sent, and how the poll search ends (R135 to
R137, R144, R148). -/

namespace Sys2Proof.Machine

/-! ### The poll search -/

/-- The next station of the segment above an address to be polled in a cycle of a count (R144). -/
def State.nextPolled (s : State) (g : Seg) (cycle above : Nat) : Option Nat :=
  ((segAddrs g).filter (above < ·)).find? fun a => (s.station a).state.polled cycle

/-- The segment with a POLL of the station on the line (R144). -/
def Segment.polled (y : Segment) (a : Nat) : Segment :=
  { y with position := a, pollOut := some a, sent := y.sent ++ [stationFrame a 0x81 []] }

/-- The segment once the current cycle has ended (R144). -/
def Segment.cycleEnded (y : Segment) : Segment :=
  { y with cycleCount := (y.cycleCount + 1) % 65536, position := 0 }

/-- How the poll step leaves its segment (R136, R144). -/
def State.pollEnd (s : State) (g : Seg) (y : Segment) : Segment :=
  if y.polling = .stopped then y
  else match s.nextPolled g y.cycleCount y.position with
    | some a => y.polled a
    | none =>
      if !s.anyLive g then { y with polling := if y.polling = .running then .running else .stopped }
      else if y.polling = .running then
        match s.nextPolled g y.cycleEnded.cycleCount 0 with
        | some a => y.cycleEnded.polled a
        | none => { y.cycleEnded with emptyWait := true }
      else { y.cycleEnded with polling := .stopped }

/-- Entries that read good are searched without effect (R144). -/
theorem State.search_of_good {s : State} {cycle : Nat} {l : List Nat}
    (h : ∀ a ∈ l, (s.stationRow a).bad = false) :
    State.search cycle l s = (s, l.find? fun a => (s.station a).state.polled cycle) := by
  induction l with
  | nil => rfl
  | cons a l ih =>
    unfold State.search
    rw [State.readStation_of_good (h a List.mem_cons_self)]
    dsimp only
    rw [ih fun b hb => h b (List.mem_cons_of_mem _ hb), List.find?_cons]
    split_ifs with hpolled
    · simp [hpolled]
    · simp [hpolled]

theorem State.poll_eq (s : State) (g : Seg) (y : Segment) (a : Nat) :
    (s.editSeg g fun _ => y).poll g a = s.editSeg g fun _ => y.polled a := by
  unfold State.poll State.send
  rw [State.editSeg_editSeg, State.editSeg_editSeg]
  rfl

theorem State.anyLive_editSeg (s : State) (g : Seg) (y : Segment) :
    (s.editSeg g fun _ => y).anyLive g = s.anyLive g := by
  simp only [State.anyLive, State.editSeg_station]

theorem PollState.settle_eq (p : PollState) : p.settle = if p = .running then .running else .stopped := by
  cases p <;> rfl

section Search

variable {s : State} {g : Seg} (h : ∀ a ∈ segAddrs g, (s.stationRow a).bad = false)

include h

theorem State.searchCycle_of_good (y : Segment) :
    (s.editSeg g fun _ => y).searchCycle g =
      (s.editSeg g fun _ => y, s.nextPolled g y.cycleCount y.position) := by
  rw [State.searchCycle, State.seg_editSeg_same, State.search_of_good fun a ha => by
    rw [State.editSeg_stationRow]
    exact h a (List.mem_filter.1 ha).1]
  simp only [State.editSeg_station]
  rfl

theorem State.newCycle_of_good (y : Segment) :
    (s.editSeg g fun _ => y).newCycle g = s.editSeg g fun _ =>
      if y.polling = .running then
        match s.nextPolled g y.cycleEnded.cycleCount 0 with
        | some a => y.cycleEnded.polled a
        | none => { y.cycleEnded with emptyWait := true }
      else { y.cycleEnded with polling := y.polling.settle } := by
  have hended : ((s.editSeg g fun _ => y).editSeg g fun x =>
      { x with cycleCount := nextCycle x.cycleCount, position := 0 }) = s.editSeg g fun _ => y.cycleEnded :=
    State.editSeg_editSeg ..
  unfold State.newCycle
  rw [hended]
  dsimp only
  rw [State.seg_editSeg_same, State.searchCycle_of_good h]
  have hpolling : y.cycleEnded.polling = y.polling := rfl
  rw [hpolling]
  split_ifs
  · have hposition : y.cycleEnded.position = 0 := rfl
    rw [hposition]
    cases s.nextPolled g y.cycleEnded.cycleCount 0 with
    | none => exact State.editSeg_editSeg ..
    | some a => exact State.poll_eq ..
  · exact State.editSeg_editSeg ..

theorem State.pollStep_of_good (y : Segment) :
    (s.editSeg g fun _ => y).pollStep g = s.editSeg g fun _ => s.pollEnd g y := by
  unfold State.pollStep State.pollEnd
  rw [State.seg_editSeg_same, State.searchCycle_of_good h]
  by_cases hstopped : y.polling = .stopped
  · rw [if_pos hstopped, if_pos hstopped]
  · rw [if_neg hstopped, if_neg hstopped]
    cases s.nextPolled g y.cycleCount y.position with
    | some a => exact State.poll_eq ..
    | none =>
      have hread : (s.editSeg g fun _ => y).readSegment g = s.editSeg g fun _ => y :=
        State.readSegment_of_good fun a ha => by
          rw [State.editSeg_stationRow]
          exact h a ha
      dsimp only
      rw [hread, State.anyLive_editSeg, State.newCycle_of_good h]
      rw [PollState.settle_eq]
      cases s.anyLive g with
      | false =>
        simp only [Bool.false_eq_true, Bool.not_false, ↓reduceIte]
        refine (State.editSeg_editSeg ..).trans (State.editSeg_congr ?_)
        exact congrArg (fun p => { y with polling := p }) (PollState.settle_eq _)
      | true =>
        simp only [Bool.not_true, Bool.false_eq_true, ↓reduceIte]
        refine State.editSeg_congr ?_
        by_cases hrunning : y.polling = .running
        · exact (if_pos hrunning).trans (if_pos hrunning).symm
        · rw [if_neg hrunning, if_neg hrunning, if_neg hrunning]

end Search

/-- The poll search does not look at whether a turn is due. -/
theorem State.pollEnd_turnDue (s : State) (g : Seg) (y : Segment) (b : Bool) :
    { s.pollEnd g y with turnDue := b } = s.pollEnd g { y with turnDue := b } := by
  unfold State.pollEnd
  by_cases hstopped : y.polling = .stopped
  · rw [if_pos hstopped, if_pos hstopped]
  · rw [if_neg hstopped, if_neg hstopped]
    cases s.nextPolled g y.cycleCount y.position with
    | some a => rfl
    | none =>
      cases s.anyLive g with
      | false => rfl
      | true =>
        by_cases hrunning : y.polling = .running
        · simp only [hrunning, Segment.cycleEnded]
          cases s.nextPolled g ((y.cycleCount + 1) % 65536) 0 <;> rfl
        · simp only [hrunning, Segment.cycleEnded]
          rfl

/-! ### The frames ahead of the POLL -/

/-- The stations once the CONFIGURE at the front of a list is sent (R148). -/
def State.configureSent (s : State) (l : List Nat) : State :=
  match l with
  | [] => s
  | a :: _ => s.editStation a fun e => { e with awaiting := false }

/-- Step 2 of a turn, on an entry that reads good (R136, R148). -/
theorem State.sendConfigure_of_good {s : State} {g : Seg} {y : Segment} {l : List Nat}
    (h : ∀ a ∈ l, segOf a = g ∧ (s.stationRow a).bad = false) :
    State.sendConfigure g l (s.editSeg g fun _ => y) = (s.configureSent l).editSeg g fun _ =>
      { y with sent := y.sent ++ (l.take 1).map fun a => configureFrame a (s.station a),
               cfgList := y.cfgList.filter fun a => a ∉ l.take 1 } := by
  cases l with
  | nil =>
    refine State.editSeg_congr ?_
    simp
  | cons a l =>
    obtain ⟨hg, hgood⟩ := h a List.mem_cons_self
    unfold State.sendConfigure State.configureSent
    rw [if_neg (by rw [State.editSeg_stationRow]; simp [hgood])]
    dsimp only [State.send, State.leaveConfigure]
    rw [hg, State.editSeg_editSeg, State.editSeg_editSeg, State.editSeg_editStation, State.editSeg_station]
    refine State.editSeg_congr ?_
    simp

theorem State.sendRelay_eq (s : State) (g : Seg) (y : Segment) :
    (s.editSeg g fun _ => y).sendRelay g = s.editSeg g fun _ =>
      { y with relays := y.relays.drop 1,
               sent := y.sent ++ (y.relays.take 1).map fun r => stationFrame r.addr r.kind r.payload } := by
  unfold State.sendRelay
  rw [State.seg_editSeg_same]
  cases hr : y.relays with
  | nil =>
    refine State.editSeg_congr ?_
    rw [List.drop_nil, List.take_nil, List.map_nil, List.append_nil, ← hr]
  | cons r rest =>
    dsimp only
    rw [State.send, State.editSeg_editSeg, State.editSeg_editSeg]
    rfl

/-- What a turn sends ahead of the POLL, with the answers, the CONFIGURE and the relay frame gone (R136). -/
def State.turnSent (s : State) (g : Seg) : Segment :=
  let x := s.seg g
  { x with answers := [], relays := x.relays.drop 1,
           sent := x.answers.map Answer.frame ++
             (x.cfgList.take 1).map (fun a => configureFrame a (s.station a)) ++
             (x.relays.take 1).map fun r => stationFrame r.addr r.kind r.payload,
           cfgList := x.cfgList.filter (fun a => a ∉ x.cfgList.take 1), turnDue := false, emptyWait := false }

theorem State.configureSent_stationRow (s : State) (l : List Nat) (a : Nat) :
    (s.configureSent l).stationRow a =
      if a ∈ l.take 1 then { data := { s.station a with awaiting := false }, bad := (s.stationRow a).bad }
      else s.stationRow a := by
  cases l with
  | nil => simp [State.configureSent]
  | cons b l =>
    have hrow : (s.configureSent (b :: l)).stationRow a = _ := State.stationRow_editStation ..
    rw [hrow]
    simp only [List.take_succ_cons, List.take_zero, List.mem_singleton]
    split_ifs with ha
    · rw [ha]
    · rfl

theorem State.configureSent_stations (s : State) (l : List Nat) :
    { s.configureSent l with stations := s.stations } = s := by cases l <;> rfl

theorem State.configureSent_dispatch (s : State) (l : List Nat) : (s.configureSent l).dispatch = s.dispatch := by
  cases l <;> rfl

theorem State.stations_editSeg (s : State) (g : Seg) (f : Segment → Segment) (l : List (Nat × Row Station)) :
    { s.editSeg g f with stations := l } = { s with stations := l }.editSeg g f := by cases g <;> rfl

theorem State.configureSent_state (s : State) (l : List Nat) (a : Nat) :
    ((s.configureSent l).station a).state = (s.station a).state := by
  rw [State.station, s.configureSent_stationRow]
  split_ifs <;> rfl

/-- A whole turn where the segment's entries read good (R136). -/
theorem State.sendTurn_of_good {s : State} {g : Seg} (h : ∀ a ∈ segAddrs g, (s.stationRow a).bad = false)
    (hlist : ∀ a ∈ (s.seg g).cfgList, a ∈ segAddrs g) :
    s.sendTurn g = (s.configureSent (s.seg g).cfgList).editSeg g fun _ => s.pollEnd g (s.turnSent g) := by
  have hconfigure : ∀ a ∈ (s.seg g).cfgList, segOf a = g ∧ (s.stationRow a).bad = false := fun a ha =>
    ⟨(mem_segAddrs.1 (hlist a ha)).2.2, h a (hlist a ha)⟩
  have hanswered : (s.editSeg g fun x => { x with sent := [], emptyWait := false }).sendAnswers g =
      s.editSeg g fun _ => { s.seg g with
        answers := [], sent := (s.seg g).answers.map Answer.frame, emptyWait := false } :=
    (State.editSeg_editSeg ..).trans (State.editSeg_congr rfl)
  have hgood : ∀ a ∈ segAddrs g, ((s.configureSent (s.seg g).cfgList).stationRow a).bad = false := fun a ha => by
    rw [s.configureSent_stationRow]
    split_ifs <;> exact h a ha
  have hnext (cycle above : Nat) :
      (s.configureSent (s.seg g).cfgList).nextPolled g cycle above = s.nextPolled g cycle above := by
    simp only [State.nextPolled, State.configureSent_state]
  have hlive : (s.configureSent (s.seg g).cfgList).anyLive g = s.anyLive g := by
    simp only [State.anyLive, State.configureSent_state]
  have hend (y : Segment) : (s.configureSent (s.seg g).cfgList).pollEnd g y = s.pollEnd g y := by
    simp only [State.pollEnd, hnext, hlive]
  unfold State.sendTurn
  dsimp only
  rw [hanswered, State.seg_editSeg_same]
  dsimp only
  rw [State.sendConfigure_of_good hconfigure, State.sendRelay_eq, State.pollStep_of_good hgood, hend,
    State.editSeg_editSeg]
  refine State.editSeg_congr ?_
  exact State.pollEnd_turnDue ..

theorem StationState.live_eq (st : StationState) : st.live = (st != .absent && st != .cutOff) := by
  cases st <;> rfl

/-- Settles O57: the turn step by step, with the search by where it ends. -/
theorem sendTurnOrder : Obligations.SendTurnOrder := by
  unfold Obligations.SendTurnOrder
  intro s g hs x ready
  have hready : (s.seg g).turnReady = true ↔ ready := by
    simp [Segment.turnReady, ready, x, and_assoc]
  refine ⟨fun hnot => ?idle, fun hr hgood hlist => ?turn⟩
  case idle => exact congrArg Host.Outcome.next (if_neg fun h => hnot (hready.1 h))
  case turn =>
    intro configured frames sent next live poll ended after
    have hnext : s.nextPolled g = next := rfl
    have hlive : s.anyLive g = live := by
      simp only [State.anyLive, StationState.live_eq, live]
    have hsent : s.turnSent g = sent := rfl
    have hafter : s.pollEnd g (s.turnSent g) = after := by
      rw [hsent]
      unfold State.pollEnd
      rw [hlive]
      rfl
    have hturn := State.sendTurn_of_good hgood hlist
    rw [hafter] at hturn
    generalize after = z at hturn ⊢
    have hsettled : (s.sendTurn g).Settled := by
      rw [hturn, State.Settled, State.editSeg_dispatch, s.configureSent_dispatch]
      exact hs
    refine ⟨_, congrArg Host.Outcome.next ((if_pos (hready.2 hr)).trans (State.endEvent_of_settled hsettled)), ?_, ?_⟩
    · intro a
      rw [hturn, State.editSeg_stationRow, s.configureSent_stationRow]
    · rw [hturn, State.stations_editSeg, s.configureSent_stations]

end Sys2Proof.Machine
end

section
/-! PROOF. What a run of characters does to the reply window: stray frames, frames that end in error, frames cut
short, and NOTHING (R129 to R131). -/

namespace Sys2Proof.Machine

/-! ### A frame that is not the window's reply -/

/-- A frame that ends closes the window that is held open past its timeout, as REPLY_TIMEOUT does (R131). -/
theorem State.frameEnded_eq_replyTimeout {s : State} {g : Seg} (hx : (s.seg g).rx = none) {w : Window}
    (hw : (s.seg g).window = some w) (h : w.heldOpen = true) :
    .next (s.frameEnded g) = exec (.replyTimeout g) s :=
  (congrArg Host.Outcome.next (State.frameEnded_of_held hw h)).trans (exec_replyTimeout_of_hunting hx).symm

/-- A valid frame that is not from the polled station is counted as stray (R130, R131). -/
theorem State.handFrame_of_stray {s : State} {g : Seg} {addr : Nat}
    (h : ∀ w, (s.seg g).window = some w → addr ≠ w.addr) (kind : Octet) (payload : List Octet) :
    s.handFrame g addr kind payload = (s.countStray g).frameEnded g := by
  unfold State.handFrame
  split
  · next hw =>
    refine (State.frameEnded_of_not_held ?_).symm
    rw [State.countStray, State.seg_editSeg_same]
    simp [hw]
  · next w hw => exact if_neg (h w hw)

/-! ### Errors -/

/-- The window with an error of its life marked (R130). -/
def Window.marked (w : Window) (check framing : Bool) : Window :=
  { w with checkError := w.checkError || check, framingError := w.framingError || framing }

theorem State.handError_of_none {s : State} {g : Seg} (hw : (s.seg g).window = none) (check framing : Bool) :
    s.handError g check framing = s := by
  unfold State.handError
  have hkeep : (s.editSeg g fun x => { x with window := x.window.map fun w =>
      { w with checkError := w.checkError || check, framingError := w.framingError || framing } }) = s :=
    State.editSeg_of_eq (by rw [hw, Option.map_none, ← hw])
  rw [hkeep]
  exact State.frameEnded_of_not_held fun w h => absurd (hw.symm.trans h) (Option.some_ne_none w).symm

theorem State.handError_of_some {s : State} {g : Seg} {w : Window} (hw : (s.seg g).window = some w)
    (check framing : Bool) :
    s.handError g check framing =
      (s.editSeg g fun x => { x with window := some (w.marked check framing) }).frameEnded g := by
  unfold State.handError
  exact congrArg (State.frameEnded · g) (State.editSeg_congr (by simp [hw, Window.marked]))

/-! ### Runs of characters -/

/-- The third octet of a frame ends it when it is a length above 24 (R129). -/
theorem State.hear_longLength (g : Seg) (a k n : Octet) (s : State) (hn : 24 < n.toNat)
    (hr : (s.seg g).receiving = true) (hx : (s.seg g).rx = none) :
    (markFirst [a, k, n]).foldl (State.hearChar g) s = s.handError g true false := by
  have hbegun : (markFirst [a, k]).foldl (State.hearChar g) s = s.setRx g (some [a, k]) :=
    State.hear_begun g a k 0 [0, 0] s (by decide) rfl hr hx 1 (by decide)
  have hrec : ((s.setRx g (some [a, k])).seg g).receiving = true := by simpa [Segment.receiving] using hr
  have hsplit : markFirst [a, k, n] = markFirst [a, k] ++ [plainChar n] := rfl
  rw [hsplit, List.foldl_append, hbegun, List.foldl_cons, List.foldl_nil, State.hearChar, if_pos hrec]
  simp [State.takeChar, plainChar, State.addOctet, hn, State.setRx_none_of_hunting hx]

section Cut

variable {g : Seg} {addr kind c d : Octet} {payload : List Octet} {s : State} (hp : payload.length ≤ 24)
  (hr : (s.seg g).receiving = true) (hx : (s.seg g).rx = none) {n : Nat} (h1 : 1 ≤ n)
  (hn : n < payload.length + 5)

include hp hr hx h1 hn

/-- The first characters of a frame leave it in progress (R129). -/
theorem State.hear_take :
    (markFirst (([addr, kind, octet payload.length] ++ payload ++ [c, d]).take n)).foldl (State.hearChar g) s =
      s.setRx g (some (([addr, kind, octet payload.length] ++ payload ++ [c, d]).take n)) := by
  obtain ⟨i, rfl⟩ : ∃ i, n = i + 1 := ⟨n - 1, by omega⟩
  have hlength : (octet payload.length).toNat = payload.length := toNat_octet (by omega)
  have hlist : ([addr, kind, octet payload.length] ++ payload ++ [c, d]).take (i + 1) =
      addr :: (kind :: octet payload.length :: (payload ++ [c, d])).take i := by simp
  rw [hlist]
  exact State.hear_begun g _ _ _ _ s (by omega) (by simp [hlength]) hr hx i (by simp; omega)

/-- A bad stop bit ends the frame in progress as a framing error (R129). -/
theorem exec_cutFrame_of_badStop (x : Octet) (m : Bool) :
    exec (.segmentFrameReceived g (markFirst (([addr, kind, octet payload.length] ++ payload ++ [c, d]).take n) ++
      [{ mark := m, data := x, stopGood := false }])) s = .next (s.handError g false true) := by
  simp only [exec, execSegmentFrameReceived_eq]
  rw [List.foldl_append, State.hear_take hp hr hx h1 hn]
  exact congrArg Host.Outcome.next (State.hear_badStop g _ x m s hr hx)

/-- A new address character ends the frame in progress and begins another (R129). -/
theorem exec_cutFrame_of_address (x : Octet) :
    exec (.segmentFrameReceived g (markFirst (([addr, kind, octet payload.length] ++ payload ++ [c, d]).take n) ++
      [{ mark := true, data := x, stopGood := true }])) s = .next ((s.setRx g (some [x])).frameEnded g) := by
  simp only [exec, execSegmentFrameReceived_eq]
  rw [List.foldl_append, State.hear_take hp hr hx h1 hn]
  exact congrArg Host.Outcome.next (State.hear_restart g _ x s hr)

end Cut

/-- NOTHING from the polled station IN SERVICE closes the window and no more (R146, R152). -/
theorem State.Serving.exec_nothing {s : State} {addr : Nat} (h : s.Serving addr) :
    exec (.segmentFrameReceived (segOf addr) (stationFrame addr 0x00 [])) s = .next (s.heard addr) :=
  h.exec_frame_of_comm (f := id) (by decide) rfl rfl rfl rfl

/-- Settles O48: each run of characters down to the hand-over to the window, and that by the window. -/
theorem segmentFramesFindTheirWindow : Obligations.SegmentFramesFindTheirWindow := by
  unfold Obligations.SegmentFramesFindTheirWindow
  refine ⟨?frames, ?errors, fun s g hx => exec_replyTimeout_of_hunting hx, fun s addr h => h.exec_nothing⟩
  case frames =>
    intro s g addr kind payload ha hp hup hpoll hspace hx hears stray
    have hr : (s.seg g).receiving = true := by simp [Segment.receiving, hup, hpoll, hspace]
    have hheard : hears = .next (s.handFrame g addr kind payload) := exec_stationFrame g addr kind payload s ha hp hr hx
    have hseg : stray.seg g = { s.seg g with stray := min ((s.seg g).stray + 1) 65535 } := State.seg_editSeg_same ..
    have hstray (hother : ∀ w, (s.seg g).window = some w → addr ≠ w.addr) : hears = .next (stray.frameEnded g) :=
      hheard.trans (congrArg Host.Outcome.next (State.handFrame_of_stray hother kind payload))
    refine ⟨?_, fun w hw hne hheld => ?_⟩
    · rintro (hw | ⟨w, hw, hne, hheld⟩)
      · rw [hstray (by simp [hw]), State.frameEnded_of_not_held (by simp [hseg, hw])]
      · rw [hstray (by simpa [hw] using hne.symm), State.frameEnded_of_not_held (by simp [hseg, hw, hheld])]
    · rw [hstray (by simpa [hw] using hne.symm)]
      exact State.frameEnded_eq_replyTimeout (by simp [hseg, hx]) (by rw [hseg, hw]) hheld
  case errors =>
    intro s g addr kind c d payload hp hup hpoll hspace hx covered ends
    have hr : (s.seg g).receiving = true := by simp [Segment.receiving, hup, hpoll, hspace]
    have hends {chars : List SegChar} {check framing : Bool}
        (hexec : exec (.segmentFrameReceived g chars) s = .next (s.handError g check framing)) :
        ends chars check framing := by
      refine ⟨fun hw => hexec.trans (congrArg _ (State.handError_of_none hw ..)), fun w hw => ?_⟩
      rw [hexec, State.handError_of_some hw]
      have hopen : ((s.editSeg g fun x => { x with window := some (w.marked check framing) }).seg g).window =
          some (w.marked check framing) := congrArg Segment.window (State.seg_editSeg_same ..)
      refine ⟨fun hheld => congrArg _ (State.frameEnded_of_not_held fun v hv => ?_),
        fun hheld => State.frameEnded_eq_replyTimeout ?_ hopen hheld⟩
      · rw [hopen] at hv
        exact Option.some.inj hv ▸ hheld
      · rw [State.seg_editSeg_same]
        exact hx
    refine ⟨fun hc => hends (exec_spoiledFrame g addr kind c d payload s hp hr hx hc), fun n hn => hends ?_,
      fun n x m h1 hn => hends (exec_cutFrame_of_badStop hp hr hx h1 hn x m), fun n x h1 hn => ?_⟩
    · simp only [exec, execSegmentFrameReceived_eq]
      exact congrArg _ (State.hear_longLength g addr kind n s hn hr hx)
    · refine (exec_cutFrame_of_address hp hr hx h1 hn x).trans (congrArg Host.Outcome.next ?_)
      have hwindow : ((s.setRx g (some [x])).seg g).window = (s.seg g).window := by rw [State.seg_setRx]
      cases hw : (s.seg g).window with
      | none => exact State.frameEnded_of_not_held (by simp [hw])
      | some w =>
        cases hheld : w.heldOpen with
        | false => exact 
          (State.frameEnded_of_not_held (by simp [hw, hheld])).trans (if_neg (by simp [hheld])).symm
        | true => exact (State.frameEnded_of_held (hwindow.trans hw) hheld).trans (if_pos (by simp [hheld])).symm

end Sys2Proof.Machine
end

section
/-! PROOF. The decision on a presentation as one list of checks (R62 to R71). -/

namespace Sys2Proof.Machine

/-! ### The first reason of a list of checks -/

theorem firstReason_cons (b : Bool) (r : RefuseReason) (l : List (Bool × RefuseReason)) :
    firstReason ((b, r) :: l) = if b then some r else firstReason l := by
  cases b <;> rfl

theorem firstReason_append (l m : List (Bool × RefuseReason)) :
    firstReason (l ++ m) = (firstReason l).or (firstReason m) := by
  induction l with
  | nil => rfl
  | cons p l ih =>
    obtain ⟨b, r⟩ := p
    rw [List.cons_append, firstReason_cons, firstReason_cons, ih]
    cases b <;> rfl

theorem firstReason_ne {l : List (Bool × RefuseReason)} {r : RefuseReason} (h : ∀ p ∈ l, p.2 ≠ r) :
    firstReason l ≠ some r := by
  intro hfirst
  obtain ⟨p, hp, rfl⟩ := Option.map_eq_some_iff.1 hfirst
  exact h p (List.mem_of_find?_eq_some hp) rfl

/-! ### The checks -/

/-- The checks on the resolution of a card number (R39, R40, R63). -/
def SeriesEntry.checks (e : SeriesEntry) (serial : Nat) : List (Bool × RefuseReason) :=
  [(!e.valid, .unknownSeries), (e.barred, .barred), (e.span ≤ serial, .unknownCard)]

/-- The checks on the state of a Card Row (R64). -/
def CardRow.checks (r : CardRow) : List (Bool × RefuseReason) :=
  [(r.state = .empty, .unknownCard), (r.state = .blocked, .cardBlocked), (r.state = .lost, .cardLost)]

/-- The checks on the room for a deposit, and the gates of a charged stream (R67 to R69). -/
def State.gateChecks (s : State) (charged : Bool) (u : Nat) (r : CardRow) : List (Bool × RefuseReason) :=
  [(32 ≤ s.deposits.length, .busy),
    (charged && 1024 ≤ s.journal.records.length + s.deposits.countP (·.charged), .journalFull),
    (charged && 255 < r.reserved + u, .busy),
    (charged && r.balance - r.reserved - u < -(r.limit : Int), .noAllowance)]

/-- The checks on rights and headroom (R65, R66). -/
def Container.checks (k : Container) (r : CardRow) : List (Bool × RefuseReason) :=
  let i := (k.cfg.hatchVolume * 10000 + k.cfg.capacity / 2) / k.cfg.capacity
  [(!(r.streamRights.getLsbD k.cfg.stream && r.zoneRights.getLsbD k.cfg.zone), .noRight),
    (k.estimate.isSome && (k.fill = .full || k.cfg.full < k.estimate.getD 0 + i), .containerFull),
    (k.estimate.isNone && !k.cfg.grantUnknown, .containerClosed)]

/-- The Card Row that a card number names by its entry (R39, R40). -/
def State.cardRowOf (s : State) (card : CardNumber) : Nat := (s.seriesOf card).base + cardSerial card

/-- The checks after those on the card's entry, by the stream's charge (R55, R64 to R69). -/
def State.checksOnCard (s : State) (k : Container) (charged : Bool) (card : CardNumber) :
    List (Bool × RefuseReason) :=
  (((s.seriesOf card).onlineOnly && s.link.islanded, RefuseReason.offline) ::
    (s.card (s.cardRowOf card)).checks) ++ (k.checks (s.card (s.cardRowOf card)) ++
      s.gateChecks charged k.cfg.unitCost (s.card (s.cardRowOf card)))

theorem State.gates_eq (s : State) (charged : Bool) (u : Nat) (r : CardRow) :
    s.gates charged u r = firstReason (s.gateChecks charged u r) := by
  simp only [State.gateChecks, firstReason_cons]
  unfold State.gates chargedPending
  cases charged with
  | false => simp [firstReason]
  | true => simp [firstReason]

/-- The headroom test by the increment, which a container with a capacity has (R29, R35). -/
theorem headroom_eq {cfg : ContainerConfig} (h : 0 < cfg.capacity) (e : Nat) :
    (!headroom cfg e) =
      decide (cfg.full < e + (cfg.hatchVolume * 10000 + cfg.capacity / 2) / cfg.capacity) := by
  simp only [headroom, increment, if_neg h.ne', ← decide_not, not_le]

theorem State.rightsAndGates_eq {s : State} {k : Container} {charged : Bool} {r : CardRow}
    (h : k.estimate.isSome = true → k.fill ≠ .full → 0 < k.cfg.capacity) :
    s.rightsAndGates k charged r =
      firstReason (k.checks r ++ s.gateChecks charged k.cfg.unitCost r) := by
  unfold State.rightsAndGates Container.checks setHas
  simp only [List.cons_append, List.nil_append, firstReason_cons, ← State.gates_eq]
  cases he : k.estimate with
  | none => cases k.cfg.grantUnknown <;> simp
  | some e =>
    by_cases hfull : k.fill = .full
    · simp [hfull]
    · simp [hfull, headroom_eq (h (by simp [he]) hfull)]

/-- What a list of checks comes to at a presentation: the grant, a REFUSE, or a REFUSE with its notice (R64, R70,
R71). -/
def State.decided (s : State) (addr : Nat) (slot : Octet) (row : Nat) (card : CardNumber) (charged : Bool)
    (o : Option RefuseReason) : State :=
  match o with
  | none => s.grant addr slot row (s.cardRowOf card) card charged
  | some .cardLost => (s.raise .lostCardUsed card.toNat [octet row]).refuse addr slot .cardLost
  | some r => s.refuse addr slot r

theorem State.decided_of_ne (s : State) (addr : Nat) (slot : Octet) (row : Nat) (card : CardNumber)
    (charged : Bool) {r : RefuseReason} (h : r ≠ .cardLost) :
    s.decided addr slot row card charged (some r) = s.refuse addr slot r := by
  cases r with
  | cardLost => exact absurd rfl h
  | _ => rfl

/-- The entry that resolves a card number, as one Series Map entry (R39, R40). -/
theorem State.resolve_eq (s : State) (card : CardNumber) :
    s.resolve card = (s.seriesOf card).resolve (cardSerial card) := by
  unfold State.resolve State.seriesOf
  split_ifs <;> rfl

theorem SeriesEntry.resolve_eq (e : SeriesEntry) (serial : Nat) :
    e.resolve serial = match firstReason (e.checks serial) with
      | some r => .refuse r
      | none => .row (e.base + serial) e.onlineOnly := by
  simp only [SeriesEntry.checks, firstReason_cons]
  unfold SeriesEntry.resolve
  cases e.valid with
  | false => rfl
  | true =>
    cases e.barred with
    | true => rfl
    | false => by_cases h : e.span ≤ serial <;> simp [h, firstReason]

section Decide

variable {s : State} {addr : Nat} {slot : Octet} {row : Nat} {card : CardNumber} {charged : Bool}
  (hcap : (s.container row).estimate.isSome = true → (s.container row).fill ≠ .full →
    0 < (s.container row).cfg.capacity)
  (hcard : (s.cardRow (s.cardRowOf card)).bad = false)

include hcap hcard

/-- Checks 5 to 11 on a Card Row that reads good (R64 to R71). -/
theorem State.decideOnRow_eq :
    s.decideOnRow addr slot row (s.cardRowOf card) card charged =
      s.decided addr slot row card charged (firstReason ((s.card (s.cardRowOf card)).checks ++
        ((s.container row).checks (s.card (s.cardRowOf card)) ++
          s.gateChecks charged (s.container row).cfg.unitCost (s.card (s.cardRowOf card))))) := by
  unfold State.decideOnRow
  rw [if_neg (by simp [hcard]), firstReason_append, ← State.rightsAndGates_eq hcap]
  simp only [CardRow.checks, firstReason_cons]
  have hlost : s.rightsAndGates (s.container row) charged (s.card (s.cardRowOf card)) ≠ some .cardLost := by
    rw [State.rightsAndGates_eq hcap]
    refine firstReason_ne ?_
    simp [Container.checks, State.gateChecks]
  cases hstate : (s.card (s.cardRowOf card)).state with
  | empty => rfl
  | blocked => rfl
  | lost => rfl
  | active =>
    cases hreason : s.rightsAndGates (s.container row) charged (s.card (s.cardRowOf card)) with
    | none => rfl
    | some r => exact (s.decided_of_ne addr slot row card charged fun h => hlost (h ▸ hreason)).symm

/-- Checks 3 to 11 where the card's entry and row read good (R63 to R71). -/
theorem State.decideOnCard_eq (hseries : s.seriesFaulty card = false) :
    s.decideOnCard addr slot row card charged =
      s.decided addr slot row card charged (firstReason ((s.seriesOf card).checks (cardSerial card) ++
        s.checksOnCard (s.container row) charged card)) := by
  have hlost : firstReason ((s.seriesOf card).checks (cardSerial card)) ≠ some .cardLost :=
    firstReason_ne (by simp [SeriesEntry.checks])
  unfold State.decideOnCard
  rw [if_neg (by simp [hseries]), State.resolve_eq, SeriesEntry.resolve_eq, firstReason_append]
  cases hfirst : firstReason ((s.seriesOf card).checks (cardSerial card)) with
  | some r => exact (s.decided_of_ne addr slot row card charged fun h => hlost (h ▸ hfirst)).symm
  | none =>
    have hrow := State.decideOnRow_eq (addr := addr) (slot := slot) (charged := charged) hcap hcard
    rw [Option.none_or, State.checksOnCard, List.cons_append, firstReason_cons]
    by_cases hoffline : ((s.seriesOf card).onlineOnly && s.link.islanded) = true
    · rw [if_pos hoffline]
      exact if_pos hoffline
    · rw [if_neg hoffline]
      exact (if_neg hoffline).trans hrow

/-- Checks 1 to 11 where every row they read is good (R62 to R71). -/
theorem State.decide_eq (hrow : row = rowOf addr slot.toNat) (hcontainer : (s.containerRow row).bad = false)
    (hstream : (s.streamRow (s.container row).cfg.stream).bad = false) (hseries : s.seriesFaulty card = false)
    (hcharged : charged = (s.streamRow (s.container row).cfg.stream).data.charged) :
    s.decide addr slot card = s.decided addr slot row card charged (firstReason
      ((!(s.container row).loaded || (s.container row).service != .inService, .containerClosed) ::
        ((s.seriesOf card).checks (cardSerial card) ++ s.checksOnCard (s.container row) charged card))) := by
  subst hrow hcharged
  unfold State.decide
  dsimp only
  rw [State.readContainer_of_good hcontainer, State.readStream_of_good hstream, if_neg (by simp [hcontainer]),
    firstReason_cons, if_neg (c := (s.streamRow _).bad = true) (by simp [hstream]),
    State.decideOnCard_eq hcap hcard hseries]
  split_ifs
  · rfl
  · rfl

end Decide

/-! ### The presentation of a station IN SERVICE -/

section Attended

variable (s : State) (addr : Nat)

@[simp] theorem State.attended_containerRow (n : Nat) : (s.attended addr).containerRow n = s.containerRow n := by
  simp [State.attended, State.shutWindow, State.clearMisses, State.editStation]

@[simp] theorem State.attended_container (n : Nat) : (s.attended addr).container n = s.container n :=
  congrArg Row.data (s.attended_containerRow addr n)

@[simp] theorem State.attended_streamRow (n : Nat) : (s.attended addr).streamRow n = s.streamRow n := by
  simp [State.attended, State.shutWindow, State.clearMisses, State.editStation]

@[simp] theorem State.attended_seriesRow (n : Nat) : (s.attended addr).seriesRow n = s.seriesRow n := by
  simp [State.attended, State.shutWindow, State.clearMisses, State.editStation]

@[simp] theorem State.attended_window : (s.attended addr).window = s.window := by
  simp [State.attended, State.shutWindow, State.clearMisses, State.editStation]

@[simp] theorem State.attended_cardRow (n : Nat) : (s.attended addr).cardRow n = s.cardRow n := by
  simp [State.attended, State.shutWindow, State.clearMisses, State.editStation]

@[simp] theorem State.attended_card (n : Nat) : (s.attended addr).card n = s.card n :=
  congrArg Row.data (s.attended_cardRow addr n)

@[simp] theorem State.attended_deposits : (s.attended addr).deposits = s.deposits := by
  simp [State.attended, State.shutWindow, State.clearMisses, State.editStation]

@[simp] theorem State.attended_depositAt (row : Nat) : (s.attended addr).depositAt row = s.depositAt row := by
  simp [State.depositAt]

@[simp] theorem State.attended_journal : (s.attended addr).journal = s.journal := by
  simp [State.attended, State.shutWindow, State.clearMisses, State.editStation]

@[simp] theorem State.attended_params : (s.attended addr).params = s.params := by
  simp [State.attended, State.shutWindow, State.clearMisses, State.editStation]

@[simp] theorem State.attended_seconds : (s.attended addr).seconds = s.seconds := by
  simp [State.attended, State.shutWindow, State.clearMisses, State.editStation]

@[simp] theorem State.attended_seriesOf (card : CardNumber) : (s.attended addr).seriesOf card = s.seriesOf card := by
  simp [State.seriesOf]

@[simp] theorem State.attended_seriesFaulty (card : CardNumber) :
    (s.attended addr).seriesFaulty card = s.seriesFaulty card := by
  simp [State.seriesFaulty]

@[simp] theorem State.attended_cardRowOf (card : CardNumber) :
    (s.attended addr).cardRowOf card = s.cardRowOf card := by
  simp [State.cardRowOf]

@[simp] theorem State.attended_checksOnCard (k : Container) (charged : Bool) (card : CardNumber) :
    (s.attended addr).checksOnCard k charged card = s.checksOnCard k charged card := by
  simp [State.checksOnCard, State.gateChecks]

theorem State.attended_station (a : Nat) : (s.attended addr).station a =
    if a = addr then { s.station addr with misses := 0 } else s.station a := by
  rw [State.station, State.attended, State.clearMisses, State.stationRow_editStation, State.shutWindow_stationRow,
    State.shutWindow_station]
  split_ifs
  · rfl
  · rw [State.shutWindow_stationRow, State.station]

@[simp] theorem State.attended_hasSlot (a : Nat) (slot : Octet) :
    (s.attended addr).hasSlot a slot = s.hasSlot a slot := by
  unfold State.hasSlot
  rw [State.attended_station]
  split_ifs with h
  · rw [h]
  · rfl

end Attended

theorem State.hasSlot_iff {s : State} {addr : Nat} {slot : Octet} :
    s.hasSlot addr slot = true ↔ slot.toNat < 4 ∧ slot.toNat < (s.station addr).count := by
  simp [State.hasSlot]

theorem State.hasSlot_eq_false {s : State} {addr : Nat} {slot : Octet}
    (h : 4 ≤ slot.toNat ∨ (s.station addr).count ≤ slot.toNat) : s.hasSlot addr slot = false := by
  rw [← Bool.not_eq_true, State.hasSlot_iff]
  omega

/-- The parts a presentation reads are in the state in which the reply has been heard as they were before. -/
theorem State.heard_reads (s : State) (addr row : Nat) (card : CardNumber) :
    (s.heard addr).container row = s.container row ∧ (s.heard addr).cardRowOf card = s.cardRowOf card ∧
      (∀ cr, (s.heard addr).card cr = s.card cr) ∧ (s.heard addr).deposits = s.deposits ∧
      (s.heard addr).params = s.params ∧ (s.heard addr).seconds = s.seconds := by
  rw [State.heard_eq, State.turnDue]
  simp [State.cardRowOf, State.seriesOf]

theorem floorBalance_eq_max (b : Int) : floorBalance b = max (-255) b := by
  unfold floorBalance
  split_ifs <;> omega

/-- The writes of a grant in one (R71). -/
theorem State.grant_eq (s : State) (addr : Nat) (slot : Octet) (row cr : Nat) (card : CardNumber)
    (charged : Bool) :
    s.grant addr slot row cr card charged =
      ((({ s with deposits := s.deposits ++
              [{ row := row, cardRow := cr, card := card,
                 units := grantUnits (s.container row).cfg charged, charged := charged,
                 expiry := s.seconds + BitVec.ofNat 32 s.params.pendingExpiry }] } :
          State).writeCard cr
            { s.card cr with reserved := (s.card cr).reserved + grantUnits (s.container row).cfg charged }).editContainer
          row fun x => { x with hasPending := true }).answer addr slot
        (.grant (grantUnits (s.container row).cfg charged)
          (max (-255) ((s.card cr).balance -
            (((s.card cr).reserved + grantUnits (s.container row).cfg charged : Nat) : Int)))) := by
  rw [← floorBalance_eq_max]
  rfl

/-- The grant on the state in which the reply has been heard, from the state before (R71). -/
theorem State.heard_grant (s : State) (addr : Nat) (slot : Octet) (row cr : Nat) (card : CardNumber)
    (charged : Bool) :
    (s.heard addr).grant addr slot row cr card charged =
      ((({ s.heard addr with deposits := s.deposits ++
              [{ row := row, cardRow := cr, card := card,
                 units := grantUnits (s.container row).cfg charged, charged := charged,
                 expiry := s.seconds + BitVec.ofNat 32 s.params.pendingExpiry }] } :
          State).writeCard cr
            { s.card cr with reserved := (s.card cr).reserved + grantUnits (s.container row).cfg charged }).editContainer
          row fun x => { x with hasPending := true }).answer addr slot
        (.grant (grantUnits (s.container row).cfg charged)
          (max (-255) ((s.card cr).balance -
            (((s.card cr).reserved + grantUnits (s.container row).cfg charged : Nat) : Int)))) := by
  obtain ⟨hcontainer, -, hcards, hdeposits, hparams, hseconds⟩ := s.heard_reads addr row card
  rw [State.grant_eq, hcontainer, hcards, hdeposits]
  dsimp only
  rw [hparams, hseconds]

/-- A presentation's action that a due send turn does not touch, and that makes no pass due, is done on the state in
which the reply has been heard (R135, R152). -/
theorem State.Serving.exec_presentation {s : State} {addr : Nat} (h : s.Serving addr) {slot a b c : Octet}
    {f : State → State} (hf : (s.attended addr).present addr slot (cardOf a b c) = f (s.attended addr))
    (hcomm : (f (s.attended addr)).turnDue (segOf addr) = f ((s.attended addr).turnDue (segOf addr)))
    (hdue : (f (s.attended addr)).dispatch = (s.attended addr).dispatch) :
    exec (.segmentFrameReceived (segOf addr) (stationFrame addr 0x02 [slot, a, b, c])) s =
      .next (f (s.heard addr)) :=
  h.exec_frame_of_comm (by simp) rfl hf hcomm hdue

theorem State.refuse_turnDue (s : State) (addr : Nat) (slot : Octet) (r : RefuseReason) :
    (s.refuse addr slot r).turnDue (segOf addr) = (s.turnDue (segOf addr)).refuse addr slot r := by
  unfold State.refuse State.answer State.turnDue
  cases segOf addr <;> rfl

theorem State.refuse_dispatch (s : State) (addr : Nat) (slot : Octet) (r : RefuseReason) :
    (s.refuse addr slot r).dispatch = s.dispatch := State.editSeg_dispatch ..

theorem State.decided_turnDue (s : State) (addr : Nat) (slot : Octet) (row : Nat) (card : CardNumber)
    (charged : Bool) (o : Option RefuseReason) :
    (s.decided addr slot row card charged o).turnDue (segOf addr) =
      (s.turnDue (segOf addr)).decided addr slot row card charged o := by
  cases o with
  | none =>
    unfold State.decided State.grant State.answer State.turnDue
    cases segOf addr <;> rfl
  | some r =>
    by_cases hr : r = .cardLost
    · subst hr
      refine (State.refuse_turnDue ..).trans (congrArg (State.refuse · addr slot _) ?_)
      exact (State.editSeg_raise ..).symm
    · rw [State.decided_of_ne _ _ _ _ _ _ hr, State.decided_of_ne _ _ _ _ _ _ hr, State.refuse_turnDue]

theorem State.decided_dispatch (s : State) (addr : Nat) (slot : Octet) (row : Nat) (card : CardNumber)
    (charged : Bool) (o : Option RefuseReason) :
    (s.decided addr slot row card charged o).dispatch = s.dispatch := by
  cases o with
  | none => exact State.editSeg_dispatch ..
  | some r =>
    by_cases hr : r = .cardLost
    · subst hr
      exact State.refuse_dispatch ..
    · rw [State.decided_of_ne _ _ _ _ _ _ hr, State.refuse_dispatch]

theorem State.present_of_no_deposit {s : State} {addr : Nat} {slot : Octet} (hslot : s.hasSlot addr slot = true)
    (h : s.depositAt (rowOf addr slot.toNat) = none) (card : CardNumber) :
    s.present addr slot card = s.decide addr slot card := by
  rw [State.present, if_pos hslot, State.overrun, h]

/-- Settles O50: the decision as one list of checks, done on the state in which the reply has been heard. -/
theorem presentationDecidedInOrder : Obligations.PresentationDecidedInOrder := by
  unfold Obligations.PresentationDecidedInOrder
  intro s addr slot a b c hserving hears answer h row k card e cr r charged u i checks
  refine ⟨fun hnone => ?noSlot, fun h4 hcount hfree hgood hclosed => ?closed,
    fun h4 hcount hfree hgood hstream hseries hcard hcap => ?checked⟩
  case noSlot =>
    refine hserving.exec_presentation (f := fun t => t.refuse addr slot .containerClosed) ?_
      (State.refuse_turnDue ..) (State.refuse_dispatch ..)
    rw [State.present, if_neg (by rw [State.attended_hasSlot, State.hasSlot_eq_false hnone]; decide)]
  case closed =>
    have hslot : (s.attended addr).hasSlot addr slot = true := by
      rw [State.attended_hasSlot, State.hasSlot_iff]
      exact ⟨h4, hcount⟩
    refine hserving.exec_presentation (f := fun t => t.refuse addr slot .containerClosed) ?_
      (State.refuse_turnDue ..) (State.refuse_dispatch ..)
    have hgood' : ((s.attended addr).containerRow row).bad = false := by rw [State.attended_containerRow, hgood]
    rw [State.present_of_no_deposit hslot (by rw [State.attended_depositAt]; exact hfree)]
    unfold State.decide
    dsimp only
    rw [State.readContainer_of_good hgood', if_neg (by rw [hgood']; decide), State.attended_container]
    refine if_pos ?_
    rcases hclosed with hclosed | hclosed
    · simp [k, row, hclosed]
    · simp [k, row, hclosed]
  case checked =>
    have hslot : (s.attended addr).hasSlot addr slot = true := by
      rw [State.attended_hasSlot, State.hasSlot_iff]
      exact ⟨h4, hcount⟩
    have hheard : exec (.segmentFrameReceived (segOf addr) (stationFrame addr 0x02 [slot, a, b, c])) s =
        .next (h.decided addr slot row card charged (firstReason checks)) := by
      refine hserving.exec_presentation (f := fun t => t.decided addr slot row card charged (firstReason checks)) ?_
        (State.decided_turnDue ..) (State.decided_dispatch ..)
      rw [State.present_of_no_deposit hslot (by rw [State.attended_depositAt]; exact hfree),
        State.decide_eq (row := row) (charged := charged) (by simpa using hcap)
          (by rw [State.attended_cardRowOf, State.attended_cardRow]; exact hcard) rfl (by simpa using hgood)
          (by simpa using hstream) (by simpa using hseries) (by simp [charged, k])]
      simp only [State.attended_container, State.attended_seriesOf, State.attended_checksOnCard]
      rfl
    refine ⟨fun x hx hne => ?_, fun hlost => ?_, fun hgrant => ?_⟩
    · rw [hx, State.decided_of_ne _ _ _ _ _ _ hne] at hheard
      exact hheard
    · rw [hlost] at hheard
      exact hheard
    · rw [hgrant] at hheard
      obtain ⟨-, hcardRow, -⟩ := s.heard_reads addr row card
      refine hheard.trans (congrArg Host.Outcome.next ?_)
      rw [State.decided, hcardRow]
      exact State.heard_grant ..

end Sys2Proof.Machine
end

section
/-! PROOF. Confirmations that release a deposit or name none, and the overrun (R61, R74 to R78). -/

namespace Sys2Proof.Machine

/-! ### Confirmations -/

/-- A confirmation's action that a due send turn does not touch, and that makes no pass due, is done on the state in
which the reply has been heard (R135, R152). -/
theorem State.Serving.exec_confirm {s : State} {addr : Nat} (h : s.Serving addr) {slot outcome : Octet}
    {f : State → State} (hf : (s.attended addr).confirm addr slot outcome = f (s.attended addr))
    (hcomm : (f (s.attended addr)).turnDue (segOf addr) = f ((s.attended addr).turnDue (segOf addr)))
    (hdue : (f (s.attended addr)).dispatch = (s.attended addr).dispatch) :
    exec (.segmentFrameReceived (segOf addr) (stationFrame addr 0x03 [slot, outcome])) s = .next (f (s.heard addr)) :=
  h.exec_frame_of_comm (by simp) rfl hf hcomm hdue

theorem State.countDiscarded_turnDue (s : State) (addr : Nat) (g : Seg) :
    (s.countDiscarded addr).turnDue g = (s.turnDue g).countDiscarded addr :=
  (State.editSeg_editStation ..).symm

theorem State.returned_turnDue (s : State) (d : Deposit) (g : Seg) :
    (s.returned d).turnDue g = (s.turnDue g).returned d := by cases g <;> rfl

theorem State.attended_holds {s : State} {d : Deposit} (h : s.Holds d) (addr : Nat) : (s.attended addr).Holds d := by
  simpa [State.Holds] using h

theorem parseOutcome_of_unknown {o : Octet} (h : o.toNat = 0 ∨ 3 < o.toNat) : parseOutcome o = none := by
  have hne : o ≠ 0x01 ∧ o ≠ 0x02 ∧ o ≠ 0x03 := by
    refine ⟨?_, ?_, ?_⟩ <;> rintro rfl <;> exact absurd h (by decide)
  rw [parseOutcome, if_neg hne.1, if_neg hne.2.1, if_neg hne.2.2]

/-- A confirmation at a slot without a loaded container is discarded (R74). -/
theorem State.confirm_of_not_loaded {s : State} {addr : Nat} {slot : Octet}
    (h : ¬ (s.hasSlot addr slot = true ∧ (s.container (rowOf addr slot.toNat)).loaded = true)) (outcome : Octet) :
    s.confirm addr slot outcome = s.countDiscarded addr :=
  if_neg (by rwa [Bool.and_eq_true])

/-- A confirmation at a loaded container goes by its outcome and the deposit held there (R75 to R78). -/
theorem State.confirm_of_loaded {s : State} {addr : Nat} {slot : Octet} (hslot : s.hasSlot addr slot = true)
    (hloaded : (s.container (rowOf addr slot.toNat)).loaded = true) (outcome : Octet) :
    s.confirm addr slot outcome = match parseOutcome outcome with
      | none => s.countDiscarded addr
      | some o => match s.depositAt (rowOf addr slot.toNat), o with
        | some d, .deposited => s.commit d
        | some d, .notDeposited => s.confirmRelease addr d false
        | some d, .answerLate => s.confirmRelease addr d true
        | none, .deposited => s.unmatched (rowOf addr slot.toNat)
        | none, .notDeposited => s.countDiscarded addr
        | none, .answerLate => s.countDiscarded addr :=
  if_pos (by rw [hslot, hloaded]; rfl)

/-! ### The overrun -/

/-- Two edits of a loaded station's entry in one. -/
theorem State.editStation_editStation {s : State} {addr : Nat} {f f' : Station → Station}
    (h : (f (s.station addr)).state ≠ .absent) (h' : (f' (f (s.station addr))).state ≠ .absent) :
    (s.editStation addr f).editStation addr f' = s.editStation addr fun e => f' (f e) := by
  have hcold {e : Station} {b : Bool} (he : e.state ≠ .absent) : ({ data := e, bad := b } : Row Station) ≠
      Row.good Station.cold := fun heq => he (congrArg (fun r : Row Station => r.data.state) heq)
  have hrow : (s.editStation addr f).stationRow addr =
      { data := f (s.station addr), bad := (s.stationRow addr).bad } :=
    (State.stationRow_editStation ..).trans (if_pos rfl)
  have hstation : (s.editStation addr f).station addr = f (s.station addr) := (congrArg Row.data hrow :)
  have hbad : ((s.editStation addr f).stationRow addr).bad = (s.stationRow addr).bad := (congrArg Row.bad hrow :)
  generalize hu : s.editStation addr f = u at hstation hbad
  rw [State.editStation, hstation, hbad, ← hu]
  simp only [State.editStation, State.putStation, Table.set, if_neg (hcold h), if_neg (hcold h'),
    Table.insert_insert]

theorem State.editStation_comm {s : State} {addr : Nat} {f f' : Station → Station}
    (hf : ∀ e, (f e).state = e.state) (hf' : ∀ e, (f' e).state = e.state)
    (h : (s.station addr).state ≠ .absent) (hcomm : ∀ e, f' (f e) = f (f' e)) :
    (s.editStation addr f).editStation addr f' = (s.editStation addr f').editStation addr f := by
  rw [State.editStation_editStation (by rwa [hf]) (by rwa [hf', hf]),
    State.editStation_editStation (by rwa [hf']) (by rwa [hf, hf']), funext hcomm]

/-- A deposit that has left the list is the only one its row had (R73). -/
theorem State.returned_depositAt {s : State} {d : Deposit} (hapart : s.depositsApart)
    (hd : s.depositAt d.row = some d) : (s.returned d).depositAt d.row = none := by
  have hmem : d ∈ s.deposits := State.mem_of_depositAt hd
  have hnodup : (d.row :: (s.deposits.eraseP fun x => x.row = d.row).map (·.row)).Nodup :=
    ((deposits_perm hmem hapart).map Deposit.row).nodup_iff.1 hapart
  refine List.find?_eq_none.2 fun x hx hrow => (List.nodup_cons.1 hnodup).1 ?_
  exact List.mem_map.2 ⟨x, hx, of_decide_eq_true hrow⟩

/-- The state once an overrun has released the deposit held for its row (R61). -/
def State.overran (s : State) (addr : Nat) (d : Deposit) : State :=
  ((s.returned d).editStation addr fun e => { e with errors := e.errors ||| 4 }).raise .overrun d.row
    (cardOctets d.card)

theorem State.overrun_of_holds {s : State} {d : Deposit} (h : s.Holds d) (addr : Nat) :
    s.overrun addr d.row = s.overran addr d := by
  unfold State.overrun
  rw [h.1]
  dsimp only
  rw [State.release_of_holds h]
  rfl

theorem State.overran_stationRow (s : State) (addr : Nat) (d : Deposit) :
    (s.overran addr d).stationRow addr = { data := { s.station addr with errors := (s.station addr).errors ||| 4 },
                                           bad := (s.stationRow addr).bad } := by
  have hrow : (s.overran addr d).stationRow addr = ((s.returned d).editStation addr fun e =>
      { e with errors := e.errors ||| 4 }).stationRow addr := rfl
  rw [hrow, State.stationRow_editStation, if_pos rfl]
  rfl

/-- An overrun leaves the reply awaited. -/
theorem State.Serving.overran {s : State} {addr : Nat} (h : s.Serving addr) (d : Deposit) :
    (s.overran addr d).Serving addr := by
  obtain ⟨h1, h64, hs, haw, hgood, hstate⟩ := h
  have hseg : (s.overran addr d).seg (segOf addr) = s.seg (segOf addr) := by cases segOf addr <;> rfl
  refine ⟨h1, h64, hs, ?_, ?_, ?_⟩
  · rw [State.Awaits, hseg]
    exact haw
  · rw [State.overran_stationRow, hgood]
  · rw [State.station, State.overran_stationRow, hstate]

/-- The reply is taken before or after the overrun alike. -/
theorem State.Serving.overran_attended {s : State} {addr : Nat} (h : s.Serving addr) (d : Deposit) :
    (s.overran addr d).attended addr = (s.attended addr).overran addr d := by
  obtain ⟨-, -, -, -, -, hstate⟩ := h
  have hclosed : (s.overran addr d).shutWindow (segOf addr) = (s.shutWindow (segOf addr)).overran addr d := by
    unfold State.shutWindow
    cases segOf addr <;> rfl
  have hstate' : ((s.shutWindow (segOf addr)).station addr).state ≠ .absent := by
    rw [State.shutWindow_station, hstate]
    decide
  unfold State.attended
  rw [hclosed]
  generalize s.shutWindow (segOf addr) = u at hstate'
  have hu : ((u.returned d).station addr).state ≠ .absent := hstate'
  have hswap : ((u.returned d).editStation addr fun e => { e with errors := e.errors ||| 4 }).clearMisses addr =
      ((u.returned d).clearMisses addr).editStation addr fun e => { e with errors := e.errors ||| 4 } :=
    State.editStation_comm (fun _ => rfl) (fun _ => rfl) hu fun _ => rfl
  exact congrArg (State.raise · .overrun d.row (cardOctets d.card)) hswap

/-- A presentation at a container that holds a deposit is the overrun and then the decision (R61). -/
theorem State.Serving.exec_overrun {s : State} {addr : Nat} (h : s.Serving addr) {slot : Octet} {d : Deposit}
    (hslot : s.hasSlot addr slot = true) (hrow : d.row = rowOf addr slot.toNat) (hd : s.Holds d)
    (hapart : s.depositsApart) (a b c : Octet) :
    exec (.segmentFrameReceived (segOf addr) (stationFrame addr 0x02 [slot, a, b, c])) s =
      exec (.segmentFrameReceived (segOf addr) (stationFrame addr 0x02 [slot, a, b, c])) (s.overran addr d) := by
  have hpresent (u : State) : u.routeReply addr 0x02 [slot, a, b, c] = u.present addr slot (cardOf a b c) := rfl
  have hslot' : (s.attended addr).hasSlot addr slot = true := by rw [State.attended_hasSlot, hslot]
  have hoverran : ((s.attended addr).overran addr d).hasSlot addr slot = true := by
    rw [State.hasSlot_iff] at hslot' ⊢
    rw [State.station, State.overran_stationRow]
    exact hslot'
  have hnone : ((s.attended addr).overran addr d).depositAt (rowOf addr slot.toNat) = none := by
    have hattended : (s.attended addr).depositsApart := by
      rw [State.depositsApart, State.attended_deposits]
      exact hapart
    rw [← hrow]
    exact State.returned_depositAt hattended (State.attended_holds hd addr).1
  rw [h.exec_frame (by simp) rfl, (h.overran d).exec_frame (by simp) rfl, hpresent, hpresent, h.overran_attended,
    State.present_of_no_deposit hoverran hnone, State.present, if_pos hslot', ← hrow,
    State.overrun_of_holds (State.attended_holds hd addr)]

/-- Settles O51: each confirmation by the branch it takes, and the overrun by the state it leaves. -/
theorem depositsOverrunAndConfirmed : Obligations.DepositsOverrunAndConfirmed := by
  unfold Obligations.DepositsOverrunAndConfirmed
  intro s addr slot hserving row confirms h discards
  have hdiscards {outcome : Octet} (hconfirm : (s.attended addr).confirm addr slot outcome =
      (s.attended addr).countDiscarded addr) : confirms outcome discards :=
    hserving.exec_confirm (f := fun t => t.countDiscarded addr) hconfirm (State.countDiscarded_turnDue ..) rfl
  refine ⟨fun hnone outcome => ?discarded, fun h4 hcount => ?slotted⟩
  case discarded =>
    refine hdiscards (State.confirm_of_not_loaded ?_ outcome)
    rw [State.attended_hasSlot, State.hasSlot_iff, State.attended_container]
    rintro ⟨⟨h4, hcount⟩, hloaded⟩
    rcases hnone with hnone | hnone | hnone
    · omega
    · omega
    · exact absurd (hnone.symm.trans hloaded) Bool.false_ne_true
  case slotted =>
    have hslot : s.hasSlot addr slot = true := State.hasSlot_iff.2 ⟨h4, hcount⟩
    have hconfirm (hloaded : (s.container row).loaded = true) (outcome : Octet) := State.confirm_of_loaded
      (s := s.attended addr) (by rw [State.attended_hasSlot, hslot]) (by rw [State.attended_container]; exact hloaded)
      outcome
    refine ⟨fun hloaded outcome hunknown => ?_, fun hloaded hfree => ⟨?_, ?_⟩, fun d hloaded hrow hd => ?_,
      fun d a b c hrow hd hlaw => ?_⟩
    · refine hdiscards ((hconfirm hloaded outcome).trans ?_)
      rw [parseOutcome_of_unknown hunknown]
    · refine hdiscards ((hconfirm hloaded 0x02).trans ?_)
      rw [State.attended_depositAt, hfree]
      rfl
    · refine hdiscards ((hconfirm hloaded 0x03).trans ?_)
      rw [State.attended_depositAt, hfree]
      rfl
    · have hd' : (s.attended addr).Holds d := State.attended_holds hd addr
      have hat : (s.attended addr).depositAt row = some d := hrow ▸ hd'.1
      refine ⟨hserving.exec_confirm (f := fun t => t.returned d) ?_ (State.returned_turnDue ..) rfl,
        hserving.exec_confirm (f := fun t => (t.returned d).editStation addr fun e =>
          { e with lateAnswers := min (e.lateAnswers + 1) 65535 }) ?_ ?_ rfl⟩
      · rw [hconfirm hloaded, hat]
        exact State.release_of_holds hd'
      · rw [hconfirm hloaded, hat]
        exact congrArg (State.editStation · addr fun e => { e with lateAnswers := min (e.lateAnswers + 1) 65535 })
          (State.release_of_holds hd')
      · refine (State.editSeg_editStation ..).symm.trans ?_
        exact congrArg (State.editStation · addr _) (State.returned_turnDue ..)
    · exact (hserving.exec_overrun hslot hrow hd hlaw.2.1 a b c).trans (by rw [State.overran, hrow])

end Sys2Proof.Machine
end

section
/-! PROOF. A DEPOSITED confirmation: the charge, the Journal record and the increment (R75, R77, R28, R29). -/

namespace Sys2Proof.Machine

@[simp] theorem State.attended_clock (s : State) (addr : Nat) : (s.attended addr).clock = s.clock := by
  simp [State.attended, State.shutWindow, State.clearMisses, State.editStation]

/-! ### Work on an entry -/

/-- A row with an entry's work written back and told (R19). -/
def State.worked (s : State) (row : Nat) (was c : Container) (rs : List Raised) : State :=
  if c.estimate = was.estimate && c.fill = was.fill then (s.writeContainer row c).raiseAll row rs
  else ((s.writeContainer row c).raiseAll row rs).tell row was

theorem State.worked_eq (s : State) (row : Nat) (was c : Container) (rs : List Raised) :
    s.worked row was c rs = if !(c.estimate = was.estimate && c.fill = was.fill) then
      ((s.writeContainer row c).raiseAll row rs).tell row was else (s.writeContainer row c).raiseAll row rs := by
  unfold State.worked
  by_cases h : (c.estimate = was.estimate && c.fill = was.fill : Bool) = true
  · rw [if_pos h, if_neg (by rw [h]; exact Bool.false_ne_true)]
  · rw [if_neg h, if_pos (by rw [Bool.eq_false_of_not_eq_true h]; rfl)]

theorem State.fillWork_eq (s : State) (row : Nat) (work : Container → Container × List Raised) :
    s.fillWork row work =
      s.worked row (s.container row) (work (s.container row)).1 (work (s.container row)).2 := by
  have hwritten : (s.applyWork row work).container row = (work (s.container row)).1 :=
    (State.foldl_raise_container ..).trans
      (congrArg Row.data ((State.containerRow_writeContainer ..).trans (if_pos rfl)))
  rw [State.fillWork, hwritten]
  rfl

/-! ### The increment -/

/-- The increment of one deposit (R27). -/
def ContainerConfig.rise (cfg : ContainerConfig) : Nat :=
  (cfg.hatchVolume * 10000 + cfg.capacity / 2) / cfg.capacity

theorem increment_eq {cfg : ContainerConfig} (h : 0 < cfg.capacity) : increment cfg = cfg.rise := if_neg h.ne'

/-- A deposit raises the estimate of a container IN SERVICE that has one (R28). -/
def Container.raised (k : Container) : Bool := k.service = .inService && k.estimate.isSome

/-- The fill state after an increment (R28, R30). -/
def Container.raisedFill (k : Container) : FillState :=
  evaluateFill k.cfg k.fill (min (k.estimate.getD 0 + k.cfg.rise) 10000)

/-- The container after an increment (R28, R29). -/
def Container.incremented (k : Container) : Container :=
  if k.raised then
    { k with
      deposits := min (k.deposits + 1) 65535
      estimate := some (min (k.estimate.getD 0 + k.cfg.rise) 10000), fill := k.raisedFill,
      flags := if k.estimate.getD 0 + k.cfg.rise ≤ 10000 then k.flags else k.flags ||| 16 }
  else { k with deposits := min (k.deposits + 1) 65535 }

/-- The notices of an increment (R29, R31). -/
def Container.incrementNotices (k : Container) : List Raised :=
  if k.raised then
    (if k.estimate.getD 0 + k.cfg.rise ≤ 10000 then [] else arithNotice k .saturated k.cfg.rise (some 10000)) ++
      fillNotice k.fill k.raisedFill (min (k.estimate.getD 0 + k.cfg.rise) 10000)
  else []

theorem incrementWork_eq {k : Container} (hcap : 0 < k.cfg.capacity) (b : Bool) :
    incrementWork { k with hasPending := b } = ({ k.incremented with hasPending := b }, k.incrementNotices) := by
  unfold incrementWork Container.incremented Container.incrementNotices
  dsimp only
  rw [increment_eq hcap]
  by_cases hraised : k.raised = true
  · rw [if_pos hraised, if_pos hraised]
    simp only [Container.raised, Bool.and_eq_true, decide_eq_true_eq, Option.isSome_iff_exists] at hraised
    obtain ⟨hservice, e, he⟩ := hraised
    simp only [Container.raisedFill, hservice, he, Option.getD_some]
    by_cases hle : e + k.cfg.rise ≤ 10000
    · simp only [if_pos hle, min_eq_left hle]
      rfl
    · simp only [if_neg hle, min_eq_right (not_le.1 hle).le]
      rfl
  · rw [if_neg hraised, if_neg hraised]
    split
    · next e hs he => exact absurd (by simp [Container.raised, hs, he]) hraised
    · rfl

theorem incrementWork_self {k : Container} (hcap : 0 < k.cfg.capacity) :
    incrementWork k = (k.incremented, k.incrementNotices) := by
  have hkeep : { k.incremented with hasPending := k.hasPending } = k.incremented := by
    unfold Container.incremented
    split_ifs <;> rfl
  exact (incrementWork_eq hcap k.hasPending).trans (congrArg (·, k.incrementNotices) hkeep)

/-! ### The commit -/

/-- A deposited confirmation is acted on and its pass run (R99, R135, R146). -/
theorem State.Serving.exec_deposited {s : State} {addr : Nat} (h : s.Serving addr) (slot : Octet) :
    exec (.segmentFrameReceived (segOf addr) (stationFrame addr 0x03 [slot, 0x01])) s =
      .next (((s.attended addr).confirm addr slot 0x01).endEvent.turnDue (segOf addr)) :=
  h.exec_frame (by simp) rfl

theorem parseOutcome_deposited : parseOutcome 0x01 = some .deposited := rfl

/-- The Journal with the record of a charged deposit (R85). -/
def State.journalled (s : State) (d : Deposit) (balance : Int) : Journal :=
  if d.charged then
    { records := s.journal.records ++
        [{ data := { seq := s.journal.counter + 1, card := d.card, row := d.row, units := d.units,
                     balance := balance, stamp := s.clock.map fun m => { day := m.day, minute := m.minute } },
           bad := false }],
      counter := s.journal.counter + 1, nextSlot := (s.journal.nextSlot + 1) % 1024 }
  else s.journal

@[simp] theorem State.attended_journalled (s : State) (addr : Nat) (d : Deposit) (balance : Int) :
    (s.attended addr).journalled d balance = s.journalled d balance := by
  simp [State.journalled]

theorem CardRow.charge_eq {c : CardRow} {units : Nat} (h : units ≤ c.reserved) :
    c.charge units =
      { c with balance := max (-255) (c.balance - (units : Int)), reserved := c.reserved - units,
               periodDeposits := min (c.periodDeposits + 1) 65535,
               clamped := c.clamped || (c.balance - (units : Int) < -255) } := by
  unfold CardRow.charge
  dsimp only
  rw [floorBalance_eq_max, lowerReserved, if_pos h]
  rfl

/-- The commit of a deposit on rows that read good (R75). -/
theorem State.commit_of_holds {s : State} {d : Deposit} (h : s.Holds d)
    (hgood : (s.containerRow d.row).bad = false) (hcap : 0 < (s.container d.row).cfg.capacity) :
    s.commit d = State.worked
      ({ s with
         deposits := s.deposits.eraseP (fun x => x.row = d.row)
         journal := s.journalled d ((s.card d.cardRow).charge d.units).balance }.writeCard d.cardRow
           ((s.card d.cardRow).charge d.units))
      d.row (s.container d.row) { (s.container d.row).incremented with hasPending := false }
      (s.container d.row).incrementNotices := by
  obtain ⟨-, hcard, -⟩ := h
  unfold State.commit
  dsimp only
  rw [State.repairCard_of_good hcard]
  have hcharged : (if d.charged then (s.writeCard d.cardRow ((s.card d.cardRow).charge d.units)).appendRecord d
      ((s.card d.cardRow).charge d.units).balance else s.writeCard d.cardRow ((s.card d.cardRow).charge d.units)) =
      { s with journal := s.journalled d ((s.card d.cardRow).charge d.units).balance }.writeCard d.cardRow
        ((s.card d.cardRow).charge d.units) := by
    unfold State.journalled
    split_ifs <;> rfl
  rw [hcharged]
  generalize (s.card d.cardRow).charge d.units = c
  generalize s.journalled d c.balance = j
  have hread (u : State) (hu : u.containers = s.containers) : u.readContainer d.row = u :=
    State.readContainer_of_good (by rwa [State.containerRow, hu])
  have hcontainer (u : State) (hu : u.containers = s.containers) : u.container d.row = s.container d.row := by
    rw [State.container, State.containerRow, hu]
    rfl
  rw [hread, State.fillWork_eq, hcontainer, incrementWork_eq hcap]
  · rfl
  · rfl
  · rfl

/-- Settles O52: the commit, and the increment without a deposit, each on the state in which the reply has been
taken. -/
theorem depositedConfirmationCommits : Obligations.DepositedConfirmationCommits := by
  unfold Obligations.DepositedConfirmationCommits
  intro s addr slot hserving row k i e raised fill counted after notes moved increments h confirmed h4 hcount
    hloaded hgood hcap
  have hslot : (s.attended addr).hasSlot addr slot = true := by
    rw [State.attended_hasSlot, State.hasSlot_iff]
    exact ⟨h4, hcount⟩
  have hconfirm : (s.attended addr).confirm addr slot 0x01 = _ := State.confirm_of_loaded hslot
    (by rw [State.attended_container]; exact hloaded) 0x01
  have hgood' : ((s.attended addr).containerRow row).bad = false := by rw [State.attended_containerRow, hgood]
  have hk : (s.attended addr).container row = k := State.attended_container ..
  have hincrements (u : State) (c : Container) (he : c.estimate = after.estimate) (hf : c.fill = after.fill) :
      u.worked row k c notes = increments u c := by
    rw [State.worked_eq, he, hf]
  refine ⟨fun d hrow hd => ?_, fun hfree => ?_⟩
  · have hd' : (s.attended addr).Holds d := State.attended_holds hd addr
    have hat : (s.attended addr).depositAt (rowOf addr slot.toNat) = some d := by
      have := hd'.1
      rwa [hrow] at this
    refine (hserving.exec_deposited slot).trans (congrArg (fun u : State => Host.Outcome.next (u.endEvent.turnDue _)) ?_)
    rw [hconfirm, parseOutcome_deposited, hat]
    dsimp only
    rw [State.commit_of_holds hd' (by rw [hrow, hgood']) (by rw [hrow, hk]; exact hcap), hrow, hk,
      CardRow.charge_eq hd'.2.2, State.attended_card, State.attended_deposits,
      State.attended_journalled, State.journalled, hrow]
    have hafter : k.incremented = after := rfl
    have hnotes : k.incrementNotices = notes := rfl
    have hattended : s.attended addr = h := rfl
    refine Eq.trans ?_ (hincrements _ _ rfl rfl)
    rw [hafter, hnotes, hattended]
  · refine (hserving.exec_deposited slot).trans (congrArg (fun u : State => Host.Outcome.next (u.endEvent.turnDue _)) ?_)
    have hat : (s.attended addr).depositAt (rowOf addr slot.toNat) = none := by
      rw [State.attended_depositAt]
      exact hfree
    rw [hconfirm, parseOutcome_deposited, hat]
    dsimp only
    have hwork : incrementWork k = (after, notes) := incrementWork_self hcap
    rw [State.unmatched, State.readContainer_of_good hgood', State.fillWork_eq, hk, hwork,
      hincrements _ _ rfl rfl]
    rfl

end Sys2Proof.Machine
end

section
/-! PROOF. A SAMPLE at a container not IN SERVICE writes the entry back as it stands (R19, R20), which re-orders a table
that is not in canonical form. -/

namespace Sys2Proof.Machine

/-- A sample at a container not IN SERVICE is no work (R20). -/
theorem sampleWork_of_not_inService {c : Container} (h : c.service ≠ .inService) (d q : Nat) :
    sampleWork d q c = (c, []) := if_neg (by simp [h])

theorem State.sample_of_not_inService {s : State} {addr row : Nat} {slot : Octet}
    (hslot : s.hasSlot addr slot = true) (hrow : rowOf addr slot.toNat = row)
    (hgood : (s.containerRow row).bad = false) (hloaded : (s.container row).loaded = true)
    (hservice : (s.container row).service ≠ .inService) (d q : Nat) :
    s.sample addr slot d q = s.writeContainer row (s.container row) := by
  unfold State.sample
  dsimp only
  rw [if_pos hslot, hrow, State.readContainer_of_good hgood, if_pos hloaded, State.fillWork_eq,
    sampleWork_of_not_inService hservice]
  exact if_pos (by simp)

/-- A sample at a container not IN SERVICE writes its entry back (R19, R20). -/
theorem State.Serving.exec_sample_of_not_inService {s : State} {addr row : Nat} (h : s.Serving addr) {slot : Octet}
    (hslot : s.hasSlot addr slot = true) (hrow : rowOf addr slot.toNat = row)
    (hgood : (s.containerRow row).bad = false) (hloaded : (s.container row).loaded = true)
    (hservice : (s.container row).service ≠ .inService) (dh dl q : Octet) :
    exec (.segmentFrameReceived (segOf addr) (stationFrame addr 0x04 [slot, dh, dl, q])) s =
      .next ((s.heard addr).writeContainer row (s.container row)) := by
  refine h.exec_frame_of_comm (f := fun t => t.writeContainer row (s.container row)) (by simp) rfl ?_
    (State.editSeg_writeContainer ..).symm rfl
  have hsample := State.sample_of_not_inService (s := s.attended addr) (by rw [State.attended_hasSlot, hslot]) hrow
    (by rw [State.attended_containerRow, hgood]) (by rw [State.attended_container, hloaded])
    (by rwa [State.attended_container]) (u16 dh dl) q.toNat
  rw [State.attended_container] at hsample
  exact hsample

/-- A container LIFTING. -/
def liftingRow : Row Container := Row.good { Container.unloaded with loaded := true, service := .lifting }

/-- The open window of a POLL to station 1. -/
def awaitingOne : Window where
  addr := 1
  timeout := 25
  heldOpen := false
  checkError := false
  framingError := false

/-- Station 1 IN SERVICE, its reply awaited, and the rows of its containers listed out of order. -/
def disordered : State :=
  { State.reset with
    stations := [(1, Row.good { Station.cold with loaded := true, count := 2, state := .inService })]
    containers := [(1, liftingRow), (0, liftingRow)]
    segA := { Segment.cold with window := some awaitingOne } }

theorem disordered_serving : disordered.Serving 1 :=
  ⟨le_rfl, by decide, rfl, ⟨rfl, rfl, rfl, rfl, _, rfl, rfl⟩, rfl, rfl⟩

/-- Refutes O53: the sample of a container LIFTING is to leave the state, but writing its entry back puts its row at
the front of a table whose keys do not rise. -/
theorem not_samplesMoveEstimate : ¬ Obligations.SamplesMoveEstimate := by
  unfold Obligations.SamplesMoveEstimate
  intro h
  have hheard : exec (.segmentFrameReceived .a (stationFrame 1 0x04 [0, 0, 0, 0])) disordered =
      .next (disordered.heard 1) :=
    ((h disordered 1 0 0 0 0 disordered_serving).2 (by decide) (by decide) rfl).2.1 rfl (by decide)
  have hwritten : exec (.segmentFrameReceived .a (stationFrame 1 0x04 [0, 0, 0, 0])) disordered =
      .next ((disordered.heard 1).writeContainer 0 liftingRow.data) :=
    disordered_serving.exec_sample_of_not_inService (slot := 0) (by decide) rfl rfl rfl (by decide) 0 0 0
  have hcontainers : ((disordered.heard 1).writeContainer 0 liftingRow.data).containers =
      (disordered.heard 1).containers :=
    congrArg State.containers (Host.Outcome.next.inj (hwritten.symm.trans hheard))
  have hmoved : Table.set (Row.good Container.unloaded) [(1, liftingRow), (0, liftingRow)] 0 liftingRow =
      [(1, liftingRow), (0, liftingRow)] := hcontainers
  exact absurd hmoved (by decide)

end Sys2Proof.Machine
end

section
/-! PROOF. Lift reports (R115 to R121): the reads ahead of them beside the reply, and what a start and an end make of
the state. -/

namespace Sys2Proof.Machine

/-! ### The stations and segments beside the rest of the state -/

/-- The state with the Station Entries and the segments of another. -/
def State.withBus (s r : State) : State := { s with stations := r.stations, segA := r.segA, segB := r.segB }

/-- The taking of a reply is a matter of the stations and segments, and sees nothing else. -/
theorem State.attended_eq_withBus {s t : State} (hstations : t.stations = s.stations) (hA : t.segA = s.segA)
    (hB : t.segB = s.segB) (addr : Nat) : t.attended addr = t.withBus (s.attended addr) := by
  unfold State.attended State.shutWindow State.clearMisses State.withBus
  cases segOf addr <;>
    simp only [State.editSeg, State.editStation, State.station, State.stationRow, State.putStation, hstations, hA, hB]

theorem State.repairCard_withBus (s r : State) (row : Nat) :
    (s.withBus r).repairCard row = (s.repairCard row).withBus r := by
  cases hbad : (s.cardRow row).bad with
  | true =>
    have hbad' : ((s.withBus r).cardRow row).bad = true := hbad
    rw [State.repairCard, State.repairCard, if_pos hbad, if_pos hbad']
    rfl
  | false => rw [State.repairCard_of_good hbad, State.repairCard_of_good (s := s.withBus r) hbad]

theorem State.release_withBus (s r : State) (d : Deposit) : (s.withBus r).release d = (s.release d).withBus r := by
  unfold State.release
  rw [State.repairCard_withBus]
  rfl

theorem State.releaseAt_withBus (s r : State) (row : Nat) :
    (s.withBus r).releaseAt row = (s.releaseAt row).withBus r := by
  have hat : (s.withBus r).depositAt row = s.depositAt row := rfl
  unfold State.releaseAt
  rw [hat]
  cases s.depositAt row with
  | none => rfl
  | some d => exact State.release_withBus ..

theorem State.leavePlanned_withBus (s r : State) (row slot : Nat) (st : StopStatus) (mass : Option Nat) :
    (s.withBus r).leavePlanned row slot st mass = (s.leavePlanned row slot st mass).withBus r := by
  have htold : (s.withBus r).toldStopEnd row slot st mass = (s.toldStopEnd row slot st mass).withBus r := by
    unfold State.toldStopEnd
    by_cases hc : (s.ticket slot).completesAt row st mass
    · rw [if_pos hc, if_pos (c := ((s.withBus r).ticket slot).completesAt row st mass) hc]
      rfl
    · rw [if_neg hc, if_neg (c := ((s.withBus r).ticket slot).completesAt row st mass) hc]
  rw [State.leavePlanned_eq, State.leavePlanned_eq, htold]
  rfl

theorem State.discharge_withBus (s r : State) (row : Nat) (x : Row Container) :
    (s.withBus r).discharge row x = (s.discharge row x).withBus r := by
  have hslot : (s.withBus r).assignedSlot row = s.assignedSlot row := rfl
  unfold State.discharge
  rw [hslot]
  cases s.assignedSlot row with
  | none => rfl
  | some n => exact congrArg (fun t : State => (t.putContainer row x).leaveList row) (State.leavePlanned_withBus ..)

/-- A checked read of a Container Entry is no matter of the stations and segments (R15). -/
theorem State.readContainer_withBus (s r : State) (row : Nat) :
    (s.withBus r).readContainer row = (s.readContainer row).withBus r := by
  cases hbad : (s.containerRow row).bad with
  | false => rw [State.readContainer_of_good hbad, State.readContainer_of_good (s := s.withBus r) hbad]
  | true =>
    have hfault : (s.withBus r).tableFault .container row [] = (s.tableFault .container row []).withBus r := rfl
    rw [State.readContainer_eq_discharge hbad, State.readContainer_eq_discharge (s := s.withBus r) hbad, hfault,
      State.releaseAt_withBus, State.discharge_withBus]
    rfl

theorem State.readContainer_bus (s : State) (row : Nat) : s.readContainer row = (s.readContainer row).withBus s :=
  State.readContainer_withBus s s row

/-- The read of a Container Entry and the taking of a reply, in either order. -/
theorem State.readContainer_attended (s : State) (row addr : Nat) :
    (s.readContainer row).attended addr = (s.attended addr).readContainer row := by
  have hbus := s.readContainer_bus row
  rw [State.attended_eq_withBus (s := s) (congrArg State.stations hbus :) (congrArg State.segA hbus :)
    (congrArg State.segB hbus :), ← State.readContainer_withBus,
    ← State.attended_eq_withBus (s := s) rfl rfl rfl]

theorem State.Serving.readContainer {s : State} {addr : Nat} (h : s.Serving addr) (row : Nat) :
    (s.readContainer row).Serving addr := by
  have hbus := s.readContainer_bus row
  have hseg : (s.readContainer row).seg (segOf addr) = s.seg (segOf addr) := by
    rw [hbus]
    cases segOf addr <;> rfl
  have hrow : (s.readContainer row).stationRow addr = s.stationRow addr :=
    (congrArg (fun t : State => t.stationRow addr) hbus :)
  obtain ⟨h1, h64, hs, haw, hgood, hstate⟩ := h
  refine ⟨h1, h64, (s.readContainer_passDue row).trans hs, ?_, ?_, ?_⟩
  · rw [State.Awaits, hseg]
    exact haw
  · rw [hrow, hgood]
  · rw [State.station, hrow]
    exact hstate

/-! ### Reports at a slot without a container -/

/-- An action on a reply that leaves no pass due, and that does not see whether a send turn is due (R135, R146). -/
theorem State.Serving.exec_frame_of_settled {s : State} {addr : Nat} (h : s.Serving addr) {kind : Octet}
    {payload : List Octet} (hp : payload.length ≤ 24) (ha : announcement kind payload = none)
    {f : State → State} (hf : (s.attended addr).routeReply addr kind payload = f (s.attended addr))
    (hcomm : (f (s.attended addr)).turnDue (segOf addr) = f ((s.attended addr).turnDue (segOf addr)))
    (hset : (f (s.attended addr)).Settled) :
    exec (.segmentFrameReceived (segOf addr) (stationFrame addr kind payload)) s = .next (f (s.heard addr)) := by
  rw [h.exec_frame hp ha, hf, State.endEvent_of_settled hset, hcomm, State.heard_eq]

theorem State.liftReport_of_no_row {s : State} {addr : Nat} {slot : Octet} (h : 4 ≤ slot.toNat)
    (f : State → Nat → State) : s.liftReport addr slot f = s.countDiscarded addr := if_neg (by omega)

/-- A report at a slot with a row goes on once the row's entry reads good (R115). -/
theorem State.liftReport_of_good {s : State} {addr row : Nat} {slot : Octet} (h : slot.toNat < 4)
    (hrow : rowOf addr slot.toNat = row) (hgood : (s.containerRow row).bad = false) (f : State → Nat → State) :
    s.liftReport addr slot f = if s.hasSlot addr slot then f s row else s.countDiscarded addr := by
  rw [State.liftReport, if_pos h, hrow, State.readContainer_of_good hgood]

/-- A report at a slot with a row is as it is once the row's entry has been read (R115). -/
theorem State.liftReport_readContainer {s : State} {addr row : Nat} {slot : Octet} (h : slot.toNat < 4)
    (hrow : rowOf addr slot.toNat = row) (f : State → Nat → State) :
    s.liftReport addr slot f = (s.readContainer row).liftReport addr slot f := by
  rw [State.liftReport_of_good h hrow (s.readContainer_good row), State.liftReport, if_pos h, hrow]

/-- A report on an entry in whose state it has no place is discarded (R115). -/
theorem State.liftStartAt_of_out {s : State} {row : Nat}
    (h : (s.container row).loaded = false ∨ (s.container row).service = .outOfService) (addr : Nat) :
    s.liftStartAt addr row = s.countDiscarded addr := by
  unfold State.liftStartAt
  dsimp only
  cases hl : (s.container row).loaded with
  | false => rfl
  | true => rw [h.resolve_left (by simp [hl])]; rfl

theorem State.liftEndAt_of_out {s : State} {row : Nat}
    (h : (s.container row).loaded = false ∨ (s.container row).service = .outOfService) (addr mass : Nat) :
    s.liftEndAt addr row mass = s.countDiscarded addr := by
  unfold State.liftEndAt
  dsimp only
  cases hl : (s.container row).loaded with
  | false => rfl
  | true => rw [h.resolve_left (by simp [hl])]; rfl

end Sys2Proof.Machine
end

section
/-! PROOF. The start and the end of a lift on an entry that reads good (R116 to R121). -/

namespace Sys2Proof.Machine

/-! ### Actions that are no matter of the stations and segments -/

/-- An action that leaves the stations and segments, and does not see them, is done before or after a send turn falls
due. -/
theorem State.turnDue_of_withBus {f : State → State} {s : State} (h : ∀ r, f (s.withBus r) = (f s).withBus r) (g : Seg) :
    (f s).turnDue g = f (s.turnDue g) := by
  have hturn {t : State} (hstations : t.stations = s.stations) (hA : t.segA = s.segA) (hB : t.segB = s.segB) :
      t.turnDue g = t.withBus (s.turnDue g) := by
    unfold State.turnDue State.withBus
    cases g <;> simp only [State.editSeg, hstations, hA, hB]
  have hkeep : f s = (f s).withBus s := h s
  calc (f s).turnDue g = (f s).withBus (s.turnDue g) :=
        hturn (congrArg State.stations hkeep :) (congrArg State.segA hkeep :) (congrArg State.segB hkeep :)
    _ = f (s.withBus (s.turnDue g)) := (h _).symm
    _ = f (s.turnDue g) := congrArg f (hturn rfl rfl rfl).symm

theorem State.heard_withBus (s : State) (addr : Nat) : s.heard addr = s.withBus (s.heard addr) := by
  unfold State.heard
  cases segOf addr <;> rfl

/-- An action of that kind on a reply, which leaves no pass due (R135, R146). -/
theorem State.Serving.exec_frame_of_withBus {s : State} {addr : Nat} (h : s.Serving addr) {kind : Octet}
    {payload : List Octet} (hp : payload.length ≤ 24) (ha : announcement kind payload = none)
    {f : State → State} (hf : (s.attended addr).routeReply addr kind payload = f (s.attended addr))
    (hbus : ∀ r, f (s.withBus r) = (f s).withBus r) (hset : (f s).Settled) :
    exec (.segmentFrameReceived (segOf addr) (stationFrame addr kind payload)) s = .next (f (s.heard addr)) := by
  have hattended : s.attended addr = s.withBus (s.attended addr) := State.attended_eq_withBus rfl rfl rfl addr
  have hdone : f (s.attended addr) = (f s).withBus (s.attended addr) := (congrArg f hattended).trans (hbus _)
  refine h.exec_frame_of_settled hp ha hf (State.turnDue_of_withBus (fun r => ?_) _) ?_
  · have hover : (s.attended addr).withBus r = s.withBus r := (congrArg (State.withBus · r) hattended :)
    rw [hover, hbus, hdone]
    rfl
  · rw [hdone]
    exact hset

/-! ### The start of a lift -/

/-- The lift timer runs from its first stage (R113, R116). -/
def Container.lifted (k : Container) (expiry : Word32) : Container :=
  { k with service := .lifting, liftStage := .first, liftTimer := some expiry }

theorem State.releaseAt_fill (s : State) (row : Nat) : ((s.releaseAt row).container row).fill = (s.container row).fill := by
  rw [State.container, State.releaseAt_containerRow, if_pos rfl]

/-- A start takes the container off the list (R94, R116). -/
theorem State.beginLift_eq (s : State) (row : Nat) :
    s.beginLift row = ((s.releaseAt row).startLiftTimer row .lifting .first).leaveList row := by
  have hrow (u : State) : (u.startLiftTimer row .lifting .first).container row =
      (u.container row).lifted (u.after (u.params.liftLimit * 60)) :=
    congrArg Row.data ((State.containerRow_editContainer ..).trans (if_pos rfl))
  refine State.tell_of_ineligible (fun h => ?_) ?_
  · rw [hrow] at h
    rw [← State.releaseAt_fill]
    exact h
  · rw [hrow]
    simp [Container.eligible, Container.lifted]

theorem State.beginLift_withBus (s r : State) (row : Nat) :
    (s.withBus r).beginLift row = (s.beginLift row).withBus r := by
  rw [State.beginLift_eq, State.beginLift_eq, State.releaseAt_withBus]
  rfl

theorem State.beginLift_containerRow {s : State} {row : Nat} (hgood : (s.containerRow row).bad = false) (q : Nat) :
    (s.beginLift row).containerRow q =
      if q = row then
        { data := { s.container row with
            service := .lifting, liftStage := .first,
            liftTimer := some (s.seconds + BitVec.ofNat 32 (s.params.liftLimit * 60)),
            hasPending := (s.container row).hasPending && (s.depositAt row).isNone }
          bad := false }
      else s.containerRow q := by
  have hframe := s.releaseAt_restored row
  have hseconds : (s.releaseAt row).seconds = s.seconds := (congrArg State.seconds hframe :)
  have hparams : (s.releaseAt row).params = s.params := (congrArg State.params hframe :)
  rw [State.beginLift_eq, State.leaveList_containerRow, State.startLiftTimer, State.containerRow_editContainer,
    State.container, State.releaseAt_containerRow, State.releaseAt_containerRow, if_pos rfl, State.after, hseconds,
    hparams, hgood]
  by_cases hq : q = row
  · rw [if_pos hq, if_pos hq]
  · rw [if_neg hq, if_neg hq, if_neg hq]

theorem State.beginLift_restored (s : State) (row : Nat) :
    { s.beginLift row with containers := s.containers } =
      { s.releaseAt row with
        containers := s.containers
        dispatch := { s.dispatch with list := s.dispatch.list.filter (· ≠ row) } } := by
  have hdispatch : (s.releaseAt row).dispatch = s.dispatch := (congrArg State.dispatch (s.releaseAt_restored row) :)
  rw [State.beginLift_eq, ← hdispatch]
  rfl

/-! ### The end of a lift -/

/-- The thresholds under which the residue gives NORMAL, from every fill state (R5, R30, R36). -/
structure ContainerConfig.Empties (cfg : ContainerConfig) : Prop where
  residue : cfg.residue ≤ 10000
  warn : cfg.residue + cfg.hysteresis < cfg.warn
  full : cfg.warn < cfg.full

theorem evaluateFill_residue {cfg : ContainerConfig} (h : cfg.Empties) (f : FillState) :
    evaluateFill cfg f cfg.residue = .normal := by
  obtain ⟨-, hwarn, hfull⟩ := h
  cases f <;> simp only [evaluateFill] <;> split_ifs <;> first | rfl | omega

/-- The container as a LIFT END leaves it, but for its stop (R118). -/
def Container.emptied (k : Container) : Container :=
  { k with liftTimer := none, liftStage := .none, service := .inService, deposits := 0,
           estimate := some k.cfg.residue, suspect := none, fill := .normal }

/-- The notice of the residue (R31, R36). -/
def Container.emptyNotices (k : Container) : List Raised := fillNotice k.fill .normal k.cfg.residue

theorem residueWork_ended {k : Container} (h : k.cfg.Empties) :
    residueWork { k with liftTimer := none, liftStage := .none, service := .inService, deposits := 0 } =
      (k.emptied, k.emptyNotices) := by
  unfold residueWork settle ContainerConfig.afterLift
  dsimp only
  rw [if_pos h.residue, evaluateFill_residue h]
  rfl

/-- The state once a lift's residue stands (R118, R36). -/
def State.residueTold (s : State) (row : Nat) : State :=
  ((s.editContainer row fun c => { c with
      liftTimer := none, liftStage := .none, service := .inService, deposits := 0 }).writeContainer row
    (s.container row).emptied).raiseAll row (s.container row).emptyNotices

theorem State.raiseAll_containerRow (s : State) (row : Nat) (rs : List Raised) (q : Nat) :
    (s.raiseAll row rs).containerRow q = s.containerRow q := by
  unfold State.raiseAll
  induction rs generalizing s with
  | nil => rfl
  | cons x xs ih => exact (ih _).trans (State.raise_containerRow ..)

theorem State.residueTold_containerRow (s : State) (row q : Nat) :
    (s.residueTold row).containerRow q =
      if q = row then { data := (s.container row).emptied, bad := false } else s.containerRow q := by
  rw [State.residueTold, State.raiseAll_containerRow, State.containerRow_writeContainer]
  by_cases hq : q = row
  · rw [if_pos hq, if_pos hq]
    rfl
  · rw [if_neg hq, if_neg hq, State.containerRow_editContainer, if_neg hq]

theorem State.residueTold_container (s : State) (row : Nat) :
    (s.residueTold row).container row = (s.container row).emptied := by
  rw [State.container, State.residueTold_containerRow, if_pos rfl]

theorem State.liftOutcome_containerRow {s : State} {row : Nat} (hgood : (s.containerRow row).bad = false)
    (mass deposits q : Nat) :
    (s.liftOutcome row mass deposits).containerRow q =
      if q = row then
        { data := if (s.container row).assignment.isSome then { s.container row with assignment := none }
            else { s.container row with flags := (s.container row).flags ||| 32 }
          bad := false }
      else s.containerRow q := by
  unfold State.liftOutcome
  cases (s.container row).assignment with
  | none =>
    dsimp only
    rw [State.raise_containerRow, State.containerRow_editContainer, hgood]
    rfl
  | some n =>
    dsimp only
    rw [State.leavePlanned_containerRow, hgood]
    rfl

/-- An end takes the container off the list (R94, R118). -/
theorem State.endLift_eq {s : State} {row : Nat} (h : (s.container row).cfg.Empties) (mass : Nat) :
    s.endLift row mass =
      ((s.residueTold row).liftOutcome row mass (s.container row).deposits).leaveList row := by
  have hwork : (s.editContainer row fun c => { c with
      liftTimer := none, liftStage := .none, service := .inService, deposits := 0 }).applyWork row residueWork =
      s.residueTold row := by
    have hrow : (s.editContainer row fun c => { c with
        liftTimer := none, liftStage := .none, service := .inService, deposits := 0 }).container row =
        { s.container row with liftTimer := none, liftStage := .none, service := .inService, deposits := 0 } :=
      congrArg Row.data ((State.containerRow_editContainer ..).trans (if_pos rfl))
    rw [State.applyWork, hrow, residueWork_ended h]
    rfl
  have hfill : (((s.residueTold row).liftOutcome row mass (s.container row).deposits).container row).fill = .normal := by
    rw [State.container, State.liftOutcome_containerRow (by rw [State.residueTold_containerRow, if_pos rfl]),
      if_pos rfl, State.residueTold_container]
    split_ifs <;> rfl
  unfold State.endLift
  dsimp only
  rw [hwork]
  refine State.tell_of_ineligible (fun hfull => ?_) ?_
  · rw [hfill] at hfull
    exact FillState.noConfusion hfull
  · simp [Container.eligible, hfill]

theorem State.liftOutcome_withBus (s r : State) (row mass deposits : Nat) :
    (s.withBus r).liftOutcome row mass deposits = (s.liftOutcome row mass deposits).withBus r := by
  have hrow : (s.withBus r).container row = s.container row := rfl
  unfold State.liftOutcome
  rw [hrow]
  cases (s.container row).assignment with
  | none => rfl
  | some n => exact State.leavePlanned_withBus ..

theorem State.raiseAll_withBus (s r : State) (row : Nat) (rs : List Raised) :
    (s.withBus r).raiseAll row rs = (s.raiseAll row rs).withBus r := by
  unfold State.raiseAll
  induction rs generalizing s with
  | nil => rfl
  | cons x xs ih => exact ih (s.raise x.kind row x.payload)

theorem State.endLift_withBus {s : State} {row : Nat} (h : (s.container row).cfg.Empties) (r : State) (mass : Nat) :
    (s.withBus r).endLift row mass = (s.endLift row mass).withBus r := by
  have htold : (s.withBus r).residueTold row = (s.residueTold row).withBus r := by
    rw [State.residueTold, State.residueTold, ← State.raiseAll_withBus]
    rfl
  have hrow : (s.withBus r).container row = s.container row := rfl
  rw [State.endLift_eq h, State.endLift_eq (s := s.withBus r) h, htold, hrow, State.liftOutcome_withBus]
  rfl

/-- The state a lift's end leaves, but for its stop and the row's entry (R118). -/
def State.liftFilled (s : State) (row : Nat) : State :=
  if (s.container row).fill = .normal then s.leaveList row
  else (s.leaveList row).raise .fillNormal row (be16 (s.container row).cfg.residue ++ [(s.container row).fill.code])

theorem State.residueTold_restored (s : State) (row : Nat) :
    { (s.residueTold row).leaveList row with containers := s.containers } = s.liftFilled row := by
  unfold State.residueTold State.liftFilled Container.emptyNotices fillNotice
  by_cases hfill : (s.container row).fill = .normal
  · rw [if_pos hfill, if_pos hfill]
    rfl
  · rw [if_neg hfill, if_neg hfill]
    rfl

end Sys2Proof.Machine
end

section
/-! PROOF. Lift reports, case by case (R115 to R121). -/

namespace Sys2Proof.Machine

/-- The end of a stop beside the container's leaving of the list. -/
theorem State.leavePlanned_unlisted (s : State) (row n : Nat) (st : StopStatus) (mass : Option Nat)
    (rows : Table (Row Container)) :
    { (s.leavePlanned row n st mass).leaveList row with containers := rows, tickets := s.tickets } =
      { s.leaveList row with containers := rows }.toldStopEnd row n st mass := by
  have hticket : { s.leaveList row with containers := rows }.ticket n = s.ticket n := rfl
  rw [State.leavePlanned_eq, State.toldStopEnd, State.toldStopEnd, hticket]
  generalize (s.ticket n).stopEnded row st mass = w
  dsimp only
  generalize be16 (s.ticket n).number ++ _ = payload
  by_cases hc : (s.ticket n).completesAt row st mass
  · rw [if_pos hc, if_pos hc]
    rfl
  · rw [if_neg hc, if_neg hc]
    rfl

section LiftEnd

variable {s : State} {row : Nat} (h : (s.container row).cfg.Empties) (mass : Nat)

include h

theorem State.endLift_containerRow (q : Nat) :
    (s.endLift row mass).containerRow q =
      if q = row then
        { data := if (s.container row).assignment.isSome then { (s.container row).emptied with assignment := none }
            else { (s.container row).emptied with flags := (s.container row).flags ||| 32 }
          bad := false }
      else s.containerRow q := by
  have hrow : ((s.residueTold row).containerRow row).bad = false := by
    rw [State.residueTold_containerRow, if_pos rfl]
  rw [State.endLift_eq h, State.leaveList_containerRow, State.liftOutcome_containerRow hrow, State.residueTold_container]
  by_cases hq : q = row
  · rw [if_pos hq, if_pos hq]
    rfl
  · rw [if_neg hq, if_neg hq, State.residueTold_containerRow, if_neg hq]

/-- The end of an unassigned container's lift is unplanned (R120). -/
theorem State.endLift_unplanned (ha : (s.container row).assignment = none) :
    { s.endLift row mass with containers := s.containers } =
      (s.liftFilled row).raise .unplannedLift row (be16 mass ++ be16 (s.container row).deposits) := by
  have hrow : ((s.residueTold row).container row).assignment = none := by
    rw [State.residueTold_container]
    exact ha
  rw [State.endLift_eq h, State.liftOutcome, hrow, ← State.residueTold_restored]
  rfl

/-- The stop of an assigned container is DONE (R105, R119). -/
theorem State.endLift_planned {n : Nat} (ha : (s.container row).assignment = some n) :
    s.endLift row mass = ((s.residueTold row).leavePlanned row n .done (stopMass mass)).leaveList row := by
  have hrow : ((s.residueTold row).container row).assignment = some n := by
    rw [State.residueTold_container]
    exact ha
  rw [State.endLift_eq h, State.liftOutcome, hrow]

omit h in
theorem State.residueTold_ticket (n : Nat) : (s.residueTold row).ticket n = s.ticket n := by
  have hticket : ((s.liftFilled row)).ticket n = s.ticket n := by
    unfold State.liftFilled
    split_ifs <;> rfl
  rw [← State.residueTold_restored] at hticket
  exact hticket

theorem State.endLift_ticket {n : Nat} (ha : (s.container row).assignment = some n) (m : Nat) :
    (s.endLift row mass).ticket m =
      if m = n then (s.ticket n).stopEnded row .done (stopMass mass) else s.ticket m := by
  have hticket : (s.endLift row mass).ticket m =
      ((s.residueTold row).leavePlanned row n .done (stopMass mass)).ticket m :=
    (congrArg (fun t : State => t.ticket m) (State.endLift_planned h mass ha) :)
  rw [hticket, State.leavePlanned_ticket, State.residueTold_ticket, State.residueTold_ticket]

theorem State.endLift_restored {n : Nat} (ha : (s.container row).assignment = some n) :
    { s.endLift row mass with containers := s.containers, tickets := s.tickets } =
      (s.liftFilled row).toldStopEnd row n .done (stopMass mass) := by
  have hframe := s.residueTold_restored row
  have htickets : (s.residueTold row).tickets = s.tickets := by
    have hfilled : (s.liftFilled row).tickets = s.tickets := by
      unfold State.liftFilled
      split_ifs <;> rfl
    rw [← hframe] at hfilled
    exact hfilled
  rw [State.endLift_planned h mass ha, ← hframe, ← htickets]
  exact State.leavePlanned_unlisted ..

omit h in
/-- An end on an entry in the lift's states is the end of its lift, the deposit held at a container IN SERVICE being
released first (R118, R121). -/
theorem State.liftEndAt_of_loaded {d : Option Deposit} (hloaded : (s.container row).loaded = true)
    (hservice : (s.container row).service ≠ .outOfService)
    (hd : match d with
      | none => (s.container row).service = .inService → s.depositAt row = none
      | some d => (s.container row).service = .inService ∧ d.row = row ∧ s.Holds d) (addr : Nat) :
    s.liftEndAt addr row mass = (match d with
      | none => s
      | some d => s.returned d).endLift row mass := by
  unfold State.liftEndAt
  dsimp only
  rw [if_neg (by simp [hloaded])]
  cases hs : (s.container row).service with
  | inService =>
    dsimp only
    cases d with
    | none => rw [State.releaseAt_of_none (hd hs)]
    | some d =>
      obtain ⟨-, hrow, hholds⟩ := hd
      rw [← hrow, State.releaseAt_of_holds hholds.1 hholds]
  | outOfService => exact absurd hs hservice
  | lifting =>
    cases d with
    | none => rfl
    | some d => exact absurd (hs.symm.trans hd.1) ServiceState.noConfusion
  | stalled =>
    cases d with
    | none => rfl
    | some d => exact absurd (hs.symm.trans hd.1) ServiceState.noConfusion

end LiftEnd

theorem State.liftFilled_eq (s : State) (row : Nat) (rows : Table (Row Container)) :
    { s.liftFilled row with containers := rows } =
      let unlisted : State :=
        { s with
          containers := rows
          dispatch := { s.dispatch with list := s.dispatch.list.filter (· ≠ row) } }
      if (s.container row).fill = .normal then unlisted
      else unlisted.raise .fillNormal row
        (be16 (s.container row).cfg.residue ++ [(s.container row).fill.code]) := by
  unfold State.liftFilled
  dsimp only
  by_cases hfill : (s.container row).fill = .normal
  · rw [if_pos hfill, if_pos hfill]
    rfl
  · rw [if_neg hfill, if_neg hfill]
    rfl

theorem State.rows_of_eq {t u : State} {rows : Table (Row Container)} {k : Table Ticket}
    (h : { t with containers := rows, tickets := k } = u) (rows' : Table (Row Container)) :
    { t with containers := rows', tickets := k } = { u with containers := rows' } :=
  (congrArg (fun v : State => { v with containers := rows' }) h :)

theorem State.rows_of_raise {t u : State} {rows : Table (Row Container)} {k : NoticeKind} {a : Nat} {p : List Octet}
    (h : { t with containers := rows } = u.raise k a p) (rows' : Table (Row Container)) :
    { t with containers := rows' } = { u with containers := rows' }.raise k a p :=
  (congrArg (fun v : State => { v with containers := rows' }) h :)

theorem State.toldStopEnd_rows (s : State) (row n : Nat) (st : StopStatus) (mass : Option Nat)
    (rows : Table (Row Container)) :
    { s.toldStopEnd row n st mass with containers := rows } =
      { s with containers := rows }.toldStopEnd row n st mass := by
  have hticket : { s with containers := rows }.ticket n = s.ticket n := rfl
  rw [State.toldStopEnd, State.toldStopEnd, hticket]
  dsimp only
  generalize be16 (s.ticket n).number ++ _ = payload
  by_cases hc : (s.ticket n).completesAt row st mass
  · rw [if_pos hc, if_pos hc]
    rfl
  · rw [if_neg hc, if_neg hc]

/-- The end of a lift on a state that differs from another in the row's reference to a deposit, and in what a release
touches (R118 to R121). -/
theorem State.lift_ended {s u : State} {row : Nat} {mh ml : Octet} {k : Container} {hp : Bool}
    (hu : u.container row = { k with hasPending := hp })
    (hrows : ∀ r, r ≠ row → u.containerRow r = s.containerRow r) (hdispatch : u.dispatch = s.dispatch)
    (htickets : u.tickets = s.tickets) (h : k.cfg.Empties) :
    let unlisted : State :=
      { u with
        containers := s.containers
        dispatch := { s.dispatch with list := s.dispatch.list.filter (· ≠ row) } }
    let filled : State :=
      if k.fill = .normal then unlisted
      else unlisted.raise .fillNormal row (be16 k.cfg.residue ++ [k.fill.code])
    let emptied : Container := { k.emptied with hasPending := hp }
    let t := u.endLift row (u16 mh ml)
    (∀ r, r ≠ row → t.containerRow r = s.containerRow r) ∧
      (k.assignment = none →
        t.containerRow row = { data := { emptied with flags := k.flags ||| 32 }, bad := false } ∧
        { t with containers := s.containers } =
          filled.raise .unplannedLift row ([mh, ml] ++ be16 k.deposits)) ∧
      ∀ n, k.assignment = some n →
        let w := s.ticket n
        let stops := endStop row .done (if u16 mh ml = 65535 then none else some (u16 mh ml)) w.stops
        let done := w.state = .handed ∧ ∀ p ∈ stops, p.status ≠ .planned
        t.containerRow row = { data := { emptied with assignment := none }, bad := false } ∧
        (∀ m, m ≠ n → t.ticket m = s.ticket m) ∧
        (done → t.ticket n = { w with stops := stops, state := .complete } ∧
          { t with containers := s.containers, tickets := s.tickets } =
            filled.raise .ticketComplete n (be16 w.number ++
              [octet (stops.countP fun p => p.status = .done), octet (stops.countP fun p => p.status = .skipped)])) ∧
        (¬ done → t.ticket n = { w with stops := stops } ∧
          { t with containers := s.containers, tickets := s.tickets } = filled) := by
  intro unlisted filled emptied t
  have hempties : (u.container row).cfg.Empties := by
    rw [hu]
    exact h
  have hrow (q : Nat) := State.endLift_containerRow hempties (u16 mh ml) q
  have hfilled : { u.liftFilled row with containers := s.containers } = filled := by
    rw [State.liftFilled_eq, hu, hdispatch]
  have hticket (m : Nat) : u.ticket m = s.ticket m := by rw [State.ticket, htickets, State.ticket]
  rw [hu] at hrow
  refine ⟨fun r hr => ?_, fun ha => ⟨?_, ?_⟩, fun n ha => ?_⟩
  · rw [hrow r, if_neg hr, hrows r hr]
  · rw [hrow row, if_pos rfl]
    exact congrArg Row.good (if_neg (by simp [ha]))
  · have hunplanned := State.endLift_unplanned hempties (u16 mh ml) (by rw [hu]; exact ha)
    rw [hu, be16_u16] at hunplanned
    rw [← hfilled]
    exact State.rows_of_raise hunplanned _
  · have ha' : (u.container row).assignment = some n := by
      rw [hu]
      exact ha
    have hended := State.endLift_restored hempties (u16 mh ml) ha'
    have htold : { t with containers := s.containers, tickets := s.tickets } =
        filled.toldStopEnd row n .done (stopMass (u16 mh ml)) := by
      rw [htickets] at hended
      rw [← hfilled, ← State.toldStopEnd_rows]
      exact State.rows_of_eq hended _
    have hcell : filled.ticket n = s.ticket n := by
      rw [← hfilled, ← hticket n]
      unfold State.liftFilled
      split_ifs <;> rfl
    rw [State.toldStopEnd, hcell] at htold
    have hstop (m : Nat) := State.endLift_ticket hempties (u16 mh ml) ha' m
    simp only [hticket] at hstop
    intro w stops done
    refine ⟨?_, fun m hm => (hstop m).trans (if_neg hm), fun hdone => ⟨?_, htold.trans (if_pos hdone)⟩,
      fun hdone => ⟨?_, htold.trans (if_neg hdone)⟩⟩
    · rw [hrow row, if_pos rfl]
      exact congrArg Row.good (if_pos (by simp [ha]))
    · refine (hstop n).trans ((if_pos rfl).trans ?_)
      exact congrArg (fun st => { w with stops := stops, state := st }) (if_pos hdone)
    · refine (hstop n).trans ((if_pos rfl).trans ?_)
      exact congrArg (fun st => { w with stops := stops, state := st }) (if_neg hdone)

end Sys2Proof.Machine
end

section
/-! PROOF. The lift reports of a station IN SERVICE (R115 to R121). -/

namespace Sys2Proof.Machine

theorem State.heard_containerRow (s : State) (addr r : Nat) : (s.heard addr).containerRow r = s.containerRow r :=
  (congrArg (fun t : State => t.containerRow r) (s.heard_withBus addr) :)

theorem State.heard_containers (s : State) (addr : Nat) : (s.heard addr).containers = s.containers :=
  (congrArg State.containers (s.heard_withBus addr) :)

theorem State.heard_depositAt (s : State) (addr row : Nat) : (s.heard addr).depositAt row = s.depositAt row :=
  (congrArg (fun t : State => t.depositAt row) (s.heard_withBus addr) :)

theorem State.heard_holds {s : State} {d : Deposit} (h : s.Holds d) (addr : Nat) : (s.heard addr).Holds d := by
  rw [State.heard_withBus]
  exact h

/-- A report whose action begins with a checked read of a row is as it is after that read (R115, R15). -/
theorem State.Serving.exec_after_read {s : State} {addr row : Nat} (h : s.Serving addr) {kind : Octet}
    {payload : List Octet} (hp : payload.length ≤ 24) (ha : announcement kind payload = none)
    (hroute : ∀ t : State, t.routeReply addr kind payload = (t.readContainer row).routeReply addr kind payload) :
    exec (.segmentFrameReceived (segOf addr) (stationFrame addr kind payload)) s =
      exec (.segmentFrameReceived (segOf addr) (stationFrame addr kind payload)) (s.readContainer row) := by
  rw [h.exec_frame hp ha, (h.readContainer row).exec_frame hp ha, State.readContainer_attended, ← hroute]

theorem State.liftStartAt_of_loaded {s : State} {row : Nat} (h : (s.container row).loaded = true) (addr : Nat) :
    s.liftStartAt addr row = match (s.container row).service with
      | .inService => s.beginLift row
      | .lifting => s
      | .stalled => s.startLiftTimer row .lifting .first
      | .outOfService => s.countDiscarded addr := by
  unfold State.liftStartAt
  exact if_neg (by simp [h])

/-- The start of a lift beside the stations and segments (R116). -/
theorem State.lift_begun {s : State} {row : Nat} (hgood : (s.containerRow row).bad = false) (b : State) :
    (∀ r, ((s.withBus b).beginLift row).containerRow r =
      if r = row then
        { data := { s.container row with
            service := .lifting, liftStage := .first,
            liftTimer := some (s.seconds + BitVec.ofNat 32 (s.params.liftLimit * 60)),
            hasPending := (s.container row).hasPending && (s.depositAt row).isNone }
          bad := false }
      else s.containerRow r) ∧
    { (s.withBus b).beginLift row with containers := s.containers } =
      { (s.withBus b).releaseAt row with
        containers := s.containers
        dispatch := { s.dispatch with list := s.dispatch.list.filter (· ≠ row) } } :=
  ⟨State.beginLift_containerRow (s := s.withBus b) hgood, (s.withBus b).beginLift_restored row⟩

theorem State.beginLift_settled {s : State} (hs : s.Settled) (row : Nat) : (s.beginLift row).Settled := by
  have hframe := s.beginLift_restored row
  exact (congrArg (fun t : State => t.dispatch.passDue) hframe :).trans hs

theorem State.dispatch_of_rows {t u : State} {rows : Table (Row Container)} (h : { t with containers := rows } = u) :
    t.dispatch.passDue = u.dispatch.passDue := (congrArg (fun v : State => v.dispatch.passDue) h :)

theorem State.dispatch_of_tickets {t u : State} {rows : Table (Row Container)} {k : Table Ticket}
    (h : { t with containers := rows, tickets := k } = u) : t.dispatch.passDue = u.dispatch.passDue :=
  (congrArg (fun v : State => v.dispatch.passDue) h :)

theorem State.dispatch_of_notices {t u : State} {n : NoticeUnit} (h : { t with notices := n } = u) :
    t.dispatch.passDue = u.dispatch.passDue := (congrArg (fun v : State => v.dispatch.passDue) h :)

theorem State.endLift_settled {s : State} (hs : s.Settled) {row : Nat} (h : (s.container row).cfg.Empties)
    (mass : Nat) : (s.endLift row mass).Settled := by
  have hdispatch : (s.endLift row mass).dispatch.passDue = s.dispatch.passDue := by
    have hfilled : (s.liftFilled row).dispatch.passDue = s.dispatch.passDue := by
      unfold State.liftFilled
      split_ifs <;> rfl
    cases ha : (s.container row).assignment with
    | none => exact (State.dispatch_of_rows (State.endLift_unplanned h mass ha)).trans hfilled
    | some n =>
      have htold := State.dispatch_of_notices ((s.liftFilled row).toldStopEnd_restored row n .done (stopMass mass))
      rw [State.dispatch_of_tickets (State.endLift_restored h mass ha), htold, hfilled]
  exact hdispatch.trans hs

/-- Settles O54: each report by the slot, the entry and its service state. -/
theorem liftReportsTaken : Obligations.LiftReportsTaken := by
  unfold Obligations.LiftReportsTaken
  intro s addr slot mh ml hserving row k starts ends h discards lifting
  have hstart {t : State} : t.routeReply addr 0x05 [slot] = t.liftStart addr slot := rfl
  have hend {t : State} : t.routeReply addr 0x06 [slot, mh, ml] = t.liftEnd addr slot (u16 mh ml) := rfl
  have hdiscarded (hs : (s.attended addr).liftStart addr slot = (s.attended addr).countDiscarded addr)
      (he : (s.attended addr).liftEnd addr slot (u16 mh ml) = (s.attended addr).countDiscarded addr) :
      starts = .next discards ∧ ends = .next discards :=
    ⟨hserving.exec_discarded (by simp) rfl hs, hserving.exec_discarded (by simp) rfl he⟩
  refine ⟨fun h4 => ?noRow, fun h4 hcount => ⟨fun hgood => ?noSlot, fun hbad => ?faulty⟩,
    fun h4 hcount hgood => ?slotted⟩
  case noRow => exact hdiscarded (State.liftReport_of_no_row h4 _) (State.liftReport_of_no_row h4 _)
  case noSlot =>
    have hgood' : ((s.attended addr).containerRow row).bad = false := by rw [State.attended_containerRow, hgood]
    have hnone : ¬ (s.attended addr).hasSlot addr slot = true := by
      rw [State.attended_hasSlot, State.hasSlot_eq_false (.inr hcount)]
      exact Bool.false_ne_true
    exact hdiscarded ((State.liftReport_of_good h4 rfl hgood' _).trans (if_neg hnone))
      ((State.liftReport_of_good h4 rfl hgood' _).trans (if_neg hnone))
  case faulty =>
    exact ⟨hserving.exec_after_read (by simp) rfl fun t =>
        State.liftReport_readContainer (s := t) h4 rfl fun s row => s.liftStartAt addr row,
      hserving.exec_after_read (by simp) rfl fun t =>
        State.liftReport_readContainer (s := t) h4 rfl fun s row => s.liftEndAt addr row (u16 mh ml)⟩
  case slotted =>
    have hgood' : ((s.attended addr).containerRow row).bad = false := by rw [State.attended_containerRow, hgood]
    have hslot : (s.attended addr).hasSlot addr slot = true := by
      rw [State.attended_hasSlot, State.hasSlot_iff]
      exact ⟨h4, hcount⟩
    have hstartAt : (s.attended addr).liftStart addr slot = (s.attended addr).liftStartAt addr row :=
      (State.liftReport_of_good h4 rfl hgood' _).trans (if_pos hslot)
    have hendAt : (s.attended addr).liftEnd addr slot (u16 mh ml) = (s.attended addr).liftEndAt addr row (u16 mh ml) :=
      (State.liftReport_of_good h4 rfl hgood' _).trans (if_pos hslot)
    have hk : (s.attended addr).container row = k := State.attended_container ..
    have hstarted (hloaded : k.loaded = true) : (s.attended addr).liftStartAt addr row = _ :=
      State.liftStartAt_of_loaded (by rw [hk]; exact hloaded) addr
    simp only [hk] at hstarted
    refine ⟨fun hout => ?out, fun hloaded hservice => ?lifting, fun hloaded hservice => ?stalled,
      fun hloaded hservice hfree => ?started, fun d hloaded hservice hrow hd => ?released,
      fun d hloaded hservice hd hlist hresidue hwarn hfull => ?ended⟩
    case out =>
      have hout' : ((s.attended addr).container row).loaded = false ∨
          ((s.attended addr).container row).service = .outOfService := by
        rw [hk]
        exact hout
      exact hdiscarded (hstartAt.trans (State.liftStartAt_of_out hout' addr))
        (hendAt.trans (State.liftEndAt_of_out hout' addr _))
    case lifting =>
      refine hserving.exec_frame_of_comm (f := id) (by simp) rfl ((hstart.trans hstartAt).trans ?_) rfl rfl
      rw [hstarted hloaded, hservice]
      rfl
    case stalled =>
      refine hserving.exec_frame_of_withBus (f := fun t => t.writeContainer row lifting) (by simp) rfl
        ((hstart.trans hstartAt).trans ?_) (fun _ => rfl) hserving.2.2.1
      rw [hstarted hloaded, hservice]
      dsimp only
      rw [State.startLiftTimer, State.editContainer, hk, hgood', State.after, State.attended_seconds,
        State.attended_params]
      rfl
    case started =>
      have hbegun := State.lift_begun hgood (s.heard addr)
      rw [← s.heard_withBus addr] at hbegun
      obtain ⟨hrows, hframe⟩ := hbegun
      refine ⟨_, hserving.exec_frame_of_withBus (f := fun t => t.beginLift row) (by simp) rfl
        ((hstart.trans hstartAt).trans ?_) (fun r => s.beginLift_withBus r row)
        (State.beginLift_settled hserving.2.2.1 row), fun r => ?_, ?_⟩
      · rw [hstarted hloaded, hservice]
      · rw [hrows r, hfree, Option.isNone_none, Bool.and_true]
      · rw [State.releaseAt_of_none ((s.heard_depositAt addr row).trans hfree)] at hframe
        refine hframe.trans ?_
        rw [← s.heard_containers addr]
    case released =>
      have hbegun := State.lift_begun hgood (s.heard addr)
      rw [← s.heard_withBus addr] at hbegun
      obtain ⟨hrows, hframe⟩ := hbegun
      have hheld : s.depositAt row = some d := hrow ▸ hd.1
      refine ⟨_, hserving.exec_frame_of_withBus (f := fun t => t.beginLift row) (by simp) rfl
        ((hstart.trans hstartAt).trans ?_) (fun r => s.beginLift_withBus r row)
        (State.beginLift_settled hserving.2.2.1 row), fun r => ?_, ?_⟩
      · rw [hstarted hloaded, hservice]
      · rw [hrows r, hheld, Option.isNone_some, Bool.and_false]
      · rw [State.releaseAt_of_holds ((s.heard_depositAt addr row).trans hheld) (State.heard_holds hd addr)] at hframe
        exact hframe
    case ended =>
      have hempties : k.cfg.Empties := ⟨hresidue, hwarn, hfull⟩
      have hk' : (s.heard addr).container row = k := congrArg Row.data (s.heard_containerRow addr row)
      have hdispatch : (s.heard addr).dispatch = s.dispatch := (congrArg State.dispatch (s.heard_withBus addr) :)
      have htickets : (s.heard addr).tickets = s.tickets := (congrArg State.tickets (s.heard_withBus addr) :)
      cases d with
      | none =>
        refine ⟨_, hserving.exec_frame_of_withBus (f := fun t => t.endLift row (u16 mh ml)) (by simp) rfl
          ((hend.trans hendAt).trans ?_) (fun r => State.endLift_withBus hempties r _)
          (State.endLift_settled hserving.2.2.1 hempties _),
          State.lift_ended (k := k) (hp := k.hasPending && true) ?_ (fun r _ => s.heard_containerRow addr r) hdispatch
            htickets hempties⟩
        · exact State.liftEndAt_of_loaded (d := none) _ (by rw [hk]; exact hloaded) (by rw [hk]; exact hservice)
            (fun hs => by
              rw [State.attended_depositAt]
              exact hd (hk ▸ hs)) addr
        · rw [hk', Bool.and_true]
      | some d =>
        obtain ⟨hin, hrow, hholds⟩ := hd
        have hreturned (t : State) (q : Nat) : (t.returned d).containerRow q =
            if q = row then { data := { t.container row with hasPending := false }, bad := (t.containerRow row).bad }
            else t.containerRow q :=
          hrow ▸ State.containerRow_editContainer ..
        have hempties' : ((s.returned d).container row).cfg.Empties := by
          rw [State.container, hreturned, if_pos rfl]
          exact hempties
        have hset : ((s.returned d).endLift row (u16 mh ml)).Settled :=
          State.endLift_settled (s := s.returned d) hserving.2.2.1 hempties' _
        have hbus (r : State) : ((s.withBus r).returned d).endLift row (u16 mh ml) =
            ((s.returned d).endLift row (u16 mh ml)).withBus r :=
          State.endLift_withBus (s := s.returned d) hempties' r _
        refine ⟨_, hserving.exec_frame_of_withBus (f := fun t => (t.returned d).endLift row (u16 mh ml)) (by simp) rfl
          ((hend.trans hendAt).trans ?_) hbus hset,
          State.lift_ended (k := k) (hp := k.hasPending && false) ?_ (fun r hr => ?_) hdispatch htickets hempties⟩
        · exact State.liftEndAt_of_loaded (d := some d) _ (by rw [hk]; exact hloaded) (by rw [hk]; exact hservice)
            ⟨by rw [hk]; exact hin, hrow, State.attended_holds hholds addr⟩ addr
        · rw [State.container, hreturned, if_pos rfl, hk', Bool.and_false]
        · rw [hreturned, if_neg hr, State.heard_containerRow]

end Sys2Proof.Machine
end

section
/-! PROOF. What a run of releases makes of the deposits, the Card Rows and the containers, where the deposit law holds
(R57, R81, R48). -/

namespace Sys2Proof.Machine

/-- The one entry of a list with a key leaves it as all entries with that key do. -/
theorem eraseP_eq_filter {l : List Deposit} (h : (l.map (·.row)).Nodup) (row : Nat) :
    (l.eraseP fun d => d.row = row) = l.filter fun d => d.row ≠ row := by
  induction l with
  | nil => rfl
  | cons x l ih =>
    obtain ⟨hx, hl⟩ := List.nodup_cons.1 h
    by_cases hrow : x.row = row
    · have hrest : ∀ d ∈ l, d.row ≠ row := fun d hd hdrow => hx (List.mem_map.2 ⟨d, hd, hdrow.trans hrow.symm⟩)
      rw [List.eraseP_cons_of_pos (by simpa using hrow), List.filter_cons_of_neg (by simpa using hrow)]
      exact (List.filter_eq_self.2 fun d hd => by simpa using hrest d hd).symm
    · rw [List.eraseP_cons_of_neg (by simpa using hrow), List.filter_cons_of_pos (by simpa using hrow), ih hl]

/-- A Card Row as a read that needs it finds or rebuilds it, but for its reserved units (R57). -/
def State.rebuiltCard (s : State) (row : Nat) : CardRow :=
  let c := s.card row
  if (s.cardRow row).bad then
    { c with state := .blocked, balance := max (-255) c.balance, clamped := c.clamped || c.balance < -255 }
  else c

/-- The state after deposits have been released from another, whatever the notices (R57, R81, R48). -/
structure State.Released (s : State) (ds : List Deposit) (t : State) : Prop where
  deposits : t.deposits = s.deposits.filter fun d => d.row ∉ ds.map (·.row)
  apart : t.depositsApart
  held : ∀ row, (t.cardRow row).bad = false → (t.card row).reserved = unitsNaming t.deposits row
  cardRow : ∀ row, t.cardRow row = if ds.any fun d => d.cardRow = row then
      { data := { s.rebuiltCard row with reserved := unitsNaming t.deposits row }, bad := false }
    else s.cardRow row
  containerRow : ∀ row, t.containerRow row =
    { data := { s.container row with
        hasPending := (s.container row).hasPending && !ds.any fun d => d.row = row }
      bad := (s.containerRow row).bad }
  restored : { t with deposits := s.deposits, cards := s.cards, containers := s.containers, notices := s.notices,
                      capture := s.capture } = s

theorem State.Released.nil {s : State} (h : s.depositLaw) : s.Released [] s where
  deposits := (List.filter_eq_self.2 (by simp)).symm
  apart := h.2.1
  held := h.2.2.2
  cardRow _ := rfl
  containerRow row := by simp [State.container]
  restored := rfl

/-- The Card Row that a release writes (R57, R81). -/
theorem State.release_cardRow (s : State) (d : Deposit) (row : Nat) :
    (s.release d).cardRow row = if row = d.cardRow then
      { data := { (s.repairCard d.cardRow).card d.cardRow with
          reserved := lowerReserved ((s.repairCard d.cardRow).card d.cardRow).reserved d.units }
        bad := false }
      else s.cardRow row := by
  have hrow : (s.release d).cardRow row = ((s.repairCard d.cardRow).writeCard d.cardRow
      { (s.repairCard d.cardRow).card d.cardRow with
        reserved := lowerReserved ((s.repairCard d.cardRow).card d.cardRow).reserved d.units }).cardRow row := rfl
  rw [hrow, State.cardRow_writeCard]
  by_cases h : row = d.cardRow
  · rw [if_pos h, if_pos h]
    rfl
  · rw [if_neg h, if_neg h]
    unfold State.repairCard
    dsimp only
    split_ifs
    · rw [State.cardRow_writeCard, if_neg h]
      rfl
    · rfl

/-- The row a release reads, rebuilt where it is faulty (R57). -/
theorem State.repairCard_card {s : State} {row : Nat}
    (h : (s.cardRow row).bad = false → (s.card row).reserved = unitsNaming s.deposits row) :
    (s.repairCard row).card row = { s.rebuiltCard row with reserved := unitsNaming s.deposits row } := by
  unfold State.rebuiltCard
  cases hbad : (s.cardRow row).bad with
  | false =>
    rw [State.repairCard_of_good hbad, ← h hbad]
    rfl
  | true =>
    rw [State.repairCard, if_pos hbad, State.card, State.cardRow_writeCard, if_pos rfl, floorBalance_eq_max]
    rfl

theorem State.release_containerRow (s : State) (d : Deposit) (row : Nat) :
    (s.release d).containerRow row =
      { data := { s.container row with hasPending := (s.container row).hasPending && !(d.row = row : Bool) }
        bad := (s.containerRow row).bad } := by
  have hrow : (s.release d).containerRow row =
      ((s.removeDeposit d.row).editContainer d.row fun x => { x with hasPending := false }).containerRow row :=
    (congrArg (fun t : State => t.containerRow row) (s.release_restored d) :)
  rw [hrow, State.containerRow_editContainer]
  by_cases h : row = d.row
  · rw [if_pos h, h]
    simp only [decide_true, Bool.not_true, Bool.and_false]
    rfl
  · rw [if_neg h]
    simp only [show ¬ d.row = row from fun he => h he.symm, decide_false, Bool.not_false, Bool.and_true]
    rfl

/-- The units that name a row, without those of a deposit that leaves the list (R46). -/
theorem State.release_units {s : State} {d : Deposit} (hd : d ∈ s.deposits) (h : s.depositsApart) (row : Nat) :
    unitsNaming s.deposits row = (if d.cardRow = row then d.units else 0) + unitsNaming (s.release d).deposits row := by
  rw [State.release_deposits]
  exact (unitsNaming_perm (deposits_perm hd h) row).trans (unitsNaming_cons ..)

section Released

variable {s t : State} {ds : List Deposit} (h : s.Released ds t)

include h

theorem State.Released.rebuiltCard (row n : Nat) :
    ({ t.rebuiltCard row with reserved := n } : CardRow) = { s.rebuiltCard row with reserved := n } := by
  have hrow := h.cardRow row
  unfold State.rebuiltCard State.card
  rw [hrow]
  by_cases hany : (ds.any fun d => d.cardRow = row) = true
  · rw [if_pos hany]
    rfl
  · rw [if_neg hany]

/-- One more deposit is released. -/
theorem State.Released.release {d : Deposit} (hd : d ∈ t.deposits) : s.Released (ds ++ [d]) (t.release d) := by
  have hunits := State.release_units hd h.apart
  have hother {row : Nat} (hrow : row ≠ d.cardRow) :
      unitsNaming (t.release d).deposits row = unitsNaming t.deposits row := by
    rw [hunits row, if_neg fun he => hrow he.symm, Nat.zero_add]
  have hcard : (t.release d).cardRow d.cardRow =
      { data := { s.rebuiltCard d.cardRow with reserved := unitsNaming (t.release d).deposits d.cardRow }
        bad := false } := by
    have hlower : lowerReserved (unitsNaming t.deposits d.cardRow) d.units =
        unitsNaming (t.release d).deposits d.cardRow := by
      rw [hunits d.cardRow, if_pos rfl, lowerReserved, if_pos (Nat.le_add_right ..), Nat.add_sub_cancel_left]
    rw [State.release_cardRow, if_pos rfl, State.repairCard_card (h.held _), hlower, ← h.rebuiltCard]
  refine ⟨?deposits, ?apart, fun row hgood => ?held, fun row => ?cardRow, fun row => ?containerRow, ?restored⟩
  case deposits =>
    rw [State.release_deposits, eraseP_eq_filter h.apart, h.deposits, List.filter_filter]
    refine List.filter_congr fun x _ => ?_
    rw [Bool.eq_iff_iff, Bool.and_eq_true, decide_eq_true_iff, decide_eq_true_iff, decide_eq_true_iff, List.map_append,
      List.mem_append, List.map_singleton, List.mem_singleton, not_or, and_comm]
  case apart =>
    rw [State.depositsApart, State.release_deposits]
    exact h.apart.sublist (List.eraseP_sublist.map _)
  case held =>
    by_cases hrow : row = d.cardRow
    · rw [hrow, State.card, hcard]
    · rw [State.release_cardRow, if_neg hrow] at hgood
      rw [State.card, State.release_cardRow, if_neg hrow, hother hrow]
      exact h.held row hgood
  case cardRow =>
    by_cases hrow : row = d.cardRow
    · rw [hrow, hcard, if_pos (by simp)]
    · have hany : ((ds ++ [d]).any fun x => x.cardRow = row) = ds.any fun x => x.cardRow = row := by
        simp [show ¬ d.cardRow = row from fun he => hrow he.symm]
      rw [State.release_cardRow, if_neg hrow, h.cardRow, hany, hother hrow]
  case containerRow =>
    rw [State.release_containerRow, State.container, h.containerRow]
    simp [Bool.and_assoc]
  case restored =>
    refine (congrArg (fun u : State => { u with
      deposits := s.deposits, cards := s.cards, containers := s.containers, notices := s.notices,
      capture := s.capture }) (t.release_restored d) :).trans ?_
    exact h.restored

end Released

/-- The deposits of a list that has none of them twice are released one after another (R81). -/
theorem State.Released.releases {s : State} (es : List Deposit) {t : State} {ds : List Deposit} (h : s.Released ds t)
    (hes : es.Sublist t.deposits) : s.Released (ds ++ es) (es.foldl State.release t) := by
  induction es generalizing ds t with
  | nil => simpa using h
  | cons d es ih =>
    have hrest : es.Sublist (t.release d).deposits := State.sublist_release hes
    have hnext := ih (h.release (hes.subset List.mem_cons_self)) hrest
    rwa [List.append_assoc] at hnext

end Sys2Proof.Machine
end

section
/-! PROOF. The deposits that expire in a second, with their notices (R79, R57). -/

namespace Sys2Proof.Machine

/-! ### What a report depends on -/

/-- Two states that report alike: what a notice or a captured fault is made from agrees. -/
structure State.ReportsAlike (s t : State) : Prop where
  notices : t.notices = s.notices
  capture : t.capture = s.capture
  seconds : t.seconds = s.seconds
  params : t.params = s.params

section ReportsAlike

variable {s t : State} (h : s.ReportsAlike t)

include h

theorem State.ReportsAlike.raise (k : NoticeKind) (a : Nat) (p : List Octet) :
    (s.raise k a p).ReportsAlike (t.raise k a p) :=
  ⟨State.raise_notices_congr h.notices h.seconds h.params k a p, h.capture, h.seconds, h.params⟩

theorem State.ReportsAlike.captureFault (x : FaultTable) (row : Nat) :
    (s.captureFault x row).ReportsAlike (t.captureFault x row) := by
  obtain ⟨hnotices, hcapture, hseconds, hparams⟩ := h
  refine ⟨hnotices, ?_, hseconds, hparams⟩
  unfold State.captureFault
  rw [hcapture, hseconds]

/-- A step that leaves the notices, the capture, the seconds and the parameters. -/
theorem State.ReportsAlike.trans {u : State} (k : t.ReportsAlike u) : s.ReportsAlike u :=
  ⟨k.notices.trans h.notices, k.capture.trans h.capture, k.seconds.trans h.seconds, k.params.trans h.params⟩

end ReportsAlike

/-- A release reports the fault of the Card Row it reads, if any (R57, R81). -/
theorem State.release_reports (s : State) (d : Deposit) :
    (if (s.cardRow d.cardRow).bad then (s.captureFault .card d.cardRow).raise .tableFault d.cardRow [4]
      else s).ReportsAlike (s.release d) := by
  cases hbad : (s.cardRow d.cardRow).bad with
  | false =>
    rw [if_neg Bool.false_ne_true, State.release, State.repairCard_of_good hbad]
    exact ⟨rfl, rfl, rfl, rfl⟩
  | true =>
    rw [if_pos rfl, State.release, State.repairCard, if_pos hbad]
    exact ⟨rfl, rfl, rfl, rfl⟩

/-! ### The expiries of a second -/

theorem State.Released.raise {s t : State} {ds : List Deposit} (h : s.Released ds t) (k : NoticeKind) (a : Nat)
    (p : List Octet) : s.Released ds (t.raise k a p) :=
  ⟨h.deposits, h.apart, h.held, h.cardRow, h.containerRow, h.restored⟩

/-- The reports of one expiry: the fault of its Card Row where no deposit before it in the list read that row, and
its own notice (R57, R79). -/
def State.expiryTold (s : State) (due : List Deposit) (u : State) (p : Deposit × Nat) : State :=
  (if (s.cardRow p.1.cardRow).bad && !(due.take p.2).any fun x => x.cardRow = p.1.cardRow then
      (u.captureFault .card p.1.cardRow).raise .tableFault p.1.cardRow [4]
    else u).raise .pendingExpired p.1.row (cardOctets p.1.card ++ [octet p.1.units])

theorem State.Released.cardRow_bad {s t : State} {ds : List Deposit} (h : s.Released ds t) (row : Nat) :
    (t.cardRow row).bad = ((s.cardRow row).bad && !ds.any fun x => x.cardRow = row) := by
  rw [h.cardRow]
  cases ds.any fun x => x.cardRow = row with
  | false => rw [if_neg Bool.false_ne_true, Bool.not_false, Bool.and_true]
  | true => rw [if_pos rfl, Bool.not_true, Bool.and_false]

/-- The deposits at the front of those that are due expire one after another (R79). -/
theorem State.expire_prefix {s : State} (hlaw : s.depositLaw) {due : List Deposit} (hdue : due.Sublist s.deposits)
    (ds : List Deposit) :
    ds <+: due → s.Released ds (ds.foldl State.expire s) ∧
      (ds.zipIdx.foldl (s.expiryTold due) s).ReportsAlike (ds.foldl State.expire s) := by
  induction ds using List.reverseRecOn with
  | nil => exact fun _ => ⟨.nil hlaw, rfl, rfl, rfl, rfl⟩
  | append_singleton ds d ih =>
    rintro ⟨rest, hsplit⟩
    have hprefix : ds ++ d :: rest = due := by rw [← hsplit, List.append_assoc, List.singleton_append]
    obtain ⟨hreleased, halike⟩ := ih ⟨_, hprefix⟩
    have htake : due.take ds.length = ds := by rw [← hprefix, List.take_left]
    rw [List.zipIdx_append, List.foldl_append, List.foldl_append]
    simp only [List.zipIdx_cons, List.zipIdx_nil, List.foldl_cons, List.foldl_nil, Nat.zero_add]
    generalize ds.foldl State.expire s = t at hreleased halike
    generalize ds.zipIdx.foldl (s.expiryTold due) s = u at halike
    have hheld : d ∈ t.deposits := by
      have hnodup : (due.map (·.row)).Nodup := hlaw.2.1.sublist (hdue.map _)
      rw [← hprefix, List.map_append, List.map_cons] at hnodup
      have hfresh : d.row ∉ ds.map (·.row) := fun hmem =>
        (List.nodup_append.1 hnodup).2.2 _ hmem _ List.mem_cons_self rfl
      rw [hreleased.deposits]
      exact List.mem_filter.2 ⟨hdue.subset (hprefix ▸ List.mem_append_right _ List.mem_cons_self), by simpa using hfresh⟩
    refine ⟨(hreleased.release hheld).raise .., ?_⟩
    unfold State.expiryTold State.expire
    dsimp only
    rw [htake, ← hreleased.cardRow_bad]
    refine State.ReportsAlike.raise (State.ReportsAlike.trans ?_ (t.release_reports d)) ..
    cases (t.cardRow d.cardRow).bad with
    | false => exact halike
    | true => exact (halike.captureFault ..).raise ..

/-- Settles O42: the releases of the deposits that are due, and their reports beside them. -/
theorem pendingExpiryReleases : Obligations.PendingExpiryReleases := by
  unfold Obligations.PendingExpiryReleases
  intro s hs hlaw due left rebuilt reports told
  obtain ⟨hreleased, halike⟩ := State.expire_prefix hlaw (due := due) List.filter_sublist due (List.prefix_refl due)
  have hleft : (due.foldl State.expire s).deposits = left := by
    rw [hreleased.deposits]
    refine List.filter_congr fun d hd => ?_
    have hmem : d.row ∈ due.map (·.row) ↔ (s.seconds - d.expiry).toNat < 2147483648 := by
      refine ⟨fun h => ?_, fun h => List.mem_map.2 ⟨d, List.mem_filter.2 ⟨hd, decide_eq_true h⟩, rfl⟩⟩
      obtain ⟨x, hx, hrow⟩ := List.mem_map.1 h
      obtain ⟨hxs, hxdue⟩ := List.mem_filter.1 hx
      rw [← List.inj_on_of_nodup_map hlaw.2.1 hxs hd hrow]
      exact of_decide_eq_true hxdue
    rw [decide_eq_decide, hmem, Nat.not_lt]
  have hset : (due.foldl State.expire s).Settled :=
    (congrArg (fun t : State => t.dispatch.passDue) hreleased.restored :).trans hs
  have hcards := hreleased.cardRow
  rw [hleft] at hcards
  exact ⟨_, congrArg Host.Outcome.next (State.endEvent_of_settled hset), hleft, hcards, hreleased.containerRow,
    halike.notices, halike.capture, hreleased.restored⟩

end Sys2Proof.Machine
end

section
/-! PROOF. What a reply makes of the polled station's entry (R146, R149, R150). -/

namespace Sys2Proof.Machine

/-! ### Edits of one station's entry beside the rest -/

/-- A state whose entry for a station is another's but for its content, and which is else as given. -/
structure State.Moved (s : State) (addr : Nat) (e : Station) (v u : State) : Prop where
  stationRow : ∀ a, u.stationRow a = if a = addr then { data := e, bad := false } else s.stationRow a
  restored : { u with stations := s.stations } = v

section Moved

variable {s : State} {addr : Nat} {e : Station} {v u : State}

theorem State.Moved.of_good (hgood : (s.stationRow addr).bad = false) (g : Seg) (f : Segment → Segment) :
    s.Moved addr (s.station addr) (s.editSeg g f) (s.editSeg g f) := by
  refine ⟨fun a => ?_, by cases g <;> rfl⟩
  rw [State.editSeg_stationRow]
  by_cases ha : a = addr
  · rw [if_pos ha, ha, ← hgood]
    rfl
  · rw [if_neg ha]

variable (h : s.Moved addr e v u)

include h

theorem State.Moved.station : u.station addr = e := by rw [State.station, h.stationRow, if_pos rfl]

theorem State.Moved.editStation (f : Station → Station) : s.Moved addr (f e) v (u.editStation addr f) := by
  refine ⟨fun a => ?_, h.restored⟩
  rw [State.stationRow_editStation, h.station, h.stationRow, h.stationRow]
  by_cases ha : a = addr
  · rw [if_pos ha, if_pos ha, if_pos rfl]
  · rw [if_neg ha, if_neg ha, if_neg ha]

theorem State.Moved.editSeg (g : Seg) (f : Segment → Segment) : s.Moved addr e (v.editSeg g f) (u.editSeg g f) := by
  refine ⟨fun a => ?_, ?_⟩
  · rw [State.editSeg_stationRow]
    exact h.stationRow a
  · rw [State.stations_editSeg, h.restored]

theorem State.Moved.raise (k : NoticeKind) (a : Nat) (p : List Octet) :
    s.Moved addr e (v.raise k a p) (u.raise k a p) :=
  ⟨h.stationRow, (congrArg (State.raise · k a p) h.restored :)⟩

theorem State.Moved.settled (hv : v.Settled) : u.Settled :=
  (congrArg (fun t : State => t.dispatch.passDue) h.restored :).trans hv

/-! ### What a reply does to an entry -/

/-- The entry with an announcement recorded (R149). -/
def Station.announced (e : Station) (a : Announcement) : Station :=
  { e with lastAnnounce := some a, errors := if a.count.toNat = e.count then e.errors else e.errors ||| 8 }

/-- The entry with a reply discarded (R146). -/
def Station.discards (e : Station) : Station := { e with discarded := min (e.discarded + 1) 65535 }

omit h in
theorem Station.record_eq (e : Station) (a : Announcement) :
    (if a.count.toNat = e.count then { e with lastAnnounce := some a }
      else ({ e with lastAnnounce := some a } : Station).flag .mismatch) = e.announced a := by
  unfold Station.announced
  split_ifs <;> rfl

theorem State.Moved.recordAnnounce (a : Announcement) : s.Moved addr (e.announced a) v (u.recordAnnounce addr a) := by
  rw [← Station.record_eq]
  exact h.editStation fun e =>
    if a.count.toNat = e.count then { e with lastAnnounce := some a }
    else ({ e with lastAnnounce := some a } : Station).flag .mismatch

theorem State.Moved.countDiscarded : s.Moved addr e.discards v (u.countDiscarded addr) := h.editStation _

/-- A segment with a station on its configure list (R148). -/
def Segment.joined (addr : Nat) (x : Segment) : Segment :=
  { x with cfgList := if addr ∈ x.cfgList then x.cfgList else x.cfgList ++ [addr] }

theorem State.Moved.joinConfigure :
    s.Moved addr { e with awaiting := true } (v.editSeg (segOf addr) (Segment.joined addr)) (u.joinConfigure addr) :=
  (h.editSeg (segOf addr) (Segment.joined addr)).editStation fun e => { e with awaiting := true }

theorem State.Moved.startConfiguring :
    s.Moved addr { e with state := .configuring, attempts := 0, awaiting := true }
      (v.editSeg (segOf addr) (Segment.joined addr)) (u.startConfiguring addr) :=
  (h.editStation fun e => { e with state := .configuring, attempts := 0 }).joinConfigure

theorem State.Moved.clearMisses : s.Moved addr { e with misses := 0 } v (u.clearMisses addr) :=
  h.editStation fun e => { e with misses := 0 }

/-- A failed attempt that is not the last goes to the configure list once more (R149). -/
theorem State.Moved.failedAttempt_of_lt (a : Announcement) (hattempts : e.attempts < 3) :
    s.Moved addr { e.announced a with attempts := e.attempts + 1, awaiting := true }
      (v.editSeg (segOf addr) (Segment.joined addr)) (u.failedAttempt addr a) := by
  have hrecorded := h.recordAnnounce a
  unfold State.failedAttempt
  dsimp only
  rw [hrecorded.station, if_pos (show (e.announced a).attempts + 1 < 4 from Nat.succ_lt_succ hattempts)]
  exact (hrecorded.editStation fun x => { x with attempts := (e.announced a).attempts + 1 }).joinConfigure

/-- The fourth failed attempt makes the station SILENT (R149). -/
theorem State.Moved.failedAttempt_of_le (a : Announcement) (hattempts : 3 ≤ e.attempts) :
    s.Moved addr { e.announced a with
        attempts := e.attempts + 1, state := .silent, errors := (e.announced a).errors ||| 16 }
      (v.raise .configFail addr [a.model, a.count]) (u.failedAttempt addr a) := by
  have hrecorded := h.recordAnnounce a
  unfold State.failedAttempt
  dsimp only
  rw [hrecorded.station, if_neg (show ¬ (e.announced a).attempts + 1 < 4 from Nat.not_lt.2 (Nat.succ_le_succ hattempts))]
  exact ((hrecorded.editStation fun x => { x with attempts := (e.announced a).attempts + 1 }).editStation
    fun x => { x.flag .configFail with state := .silent }).raise ..

end Moved

/-! ### Which replies are what -/

theorem announcement_of_length {kind : Octet} {payload : List Octet} (h : kind ≠ 0x01 ∨ payload.length ≠ 2) :
    announcement kind payload = none := by
  unfold announcement
  by_cases hk : kind = 0x01
  · rw [if_pos hk]
    split
    · exact absurd rfl (h.resolve_left fun hne => hne hk)
    · rfl
  · exact if_neg hk

/-- The lengths of the kinds that have one (R146). -/
theorem kindLength_eq (kind : Octet) : kindLength kind =
    ([(0, 0), (1, 2), (2, 4), (3, 2), (4, 4), (5, 1), (6, 3)].find? fun p : Nat × Nat => p.1 = kind.toNat).map
      (·.2) := by
  revert kind
  decide

/-- A reply of a kind with a length of its own is malformed at any other length (R146). -/
theorem malformed_iff {kind : Octet} {payload : List Octet} :
    malformed kind payload = true ↔ kind.toNat ≤ 6 ∧
      (kind.toNat, payload.length) ∉ [(0, 0), (1, 2), (2, 4), (3, 2), (4, 4), (5, 1), (6, 3)] := by
  unfold malformed
  rw [kindLength_eq]
  generalize kind.toNat = n
  by_cases hle : n ≤ 6
  · interval_cases n <;> simp
  · have hnone : ([(0, 0), (1, 2), (2, 4), (3, 2), (4, 4), (5, 1), (6, 3)].find? fun p : Nat × Nat => p.1 = n) =
        none := by
      rw [List.find?_eq_none]
      simp
      omega
    rw [hnone]
    simp [hle]

end Sys2Proof.Machine
end

section
/-! PROOF. Replies by the state of the polled station (R146, R149, R150). -/

namespace Sys2Proof.Machine

/-! ### A reply taken and acted on -/

theorem State.shutWindow_settled {s : State} (hs : s.Settled) (g : Seg) : (s.shutWindow g).Settled := by
  cases g <;> exact hs

theorem State.editSeg_settled {s : State} (hs : s.Settled) (g : Seg) (f : Segment → Segment) :
    (s.editSeg g f).Settled := by cases g <;> exact hs

/-- A reply whose action leaves no pass due, by what it makes of the station and of the rest (R131, R135, R146). -/
theorem State.Awaits.exec_moved {s : State} {addr : Nat} (h : s.Awaits (segOf addr) addr) (h64 : addr ≤ 64)
    (hgood : (s.stationRow addr).bad = false) {kind : Octet} {payload : List Octet} (hp : payload.length ≤ 24)
    {e : Station} {v : State} (hv : v.Settled)
    (hm : s.Moved addr e v ((s.shutWindow (segOf addr)).takeReply addr kind payload)) :
    ∃ t, exec (.segmentFrameReceived (segOf addr) (stationFrame addr kind payload)) s = .next t ∧
      (∀ a, t.stationRow a = if a = addr then { data := e, bad := false } else s.stationRow a) ∧
      { t with stations := s.stations } = v.turnDue (segOf addr) := by
  have hread : (s.shutWindow (segOf addr)).readStation addr = s.shutWindow (segOf addr) :=
    State.readStation_of_good ((congrArg Row.bad (State.shutWindow_stationRow ..)).trans hgood)
  obtain ⟨hrow, hrestored⟩ := hm.editSeg (segOf addr) fun x => { x with turnDue := true }
  refine ⟨_, (h.exec_frame (by omega) kind hp).trans (congrArg Host.Outcome.next ?_), hrow, hrestored⟩
  unfold State.closeReply State.stationReply
  rw [hread, State.endEvent_of_settled (hm.settled hv)]
  rfl

section TakeReply

variable {s : State} {addr : Nat}

theorem State.takeReply_of_waiting (h : (s.station addr).state = .unconfigured ∨ (s.station addr).state = .silent)
    (kind : Octet) (payload : List Octet) :
    s.takeReply addr kind payload =
      ((s.clearMisses addr).noteReply addr (announcement kind payload)).startConfiguring addr := by
  unfold State.takeReply
  rcases h with h | h <;> rw [h]

theorem State.clearMisses_awaiting (s : State) (addr : Nat) :
    ((s.clearMisses addr).station addr).awaiting = (s.station addr).awaiting := by
  have hrow : (s.clearMisses addr).stationRow addr = _ := State.stationRow_editStation ..
  rw [State.station, hrow, if_pos rfl]

theorem State.takeReply_of_awaiting (h : (s.station addr).state = .configuring)
    (ha : (s.station addr).awaiting = true) (kind : Octet) (payload : List Octet) :
    s.takeReply addr kind payload = (s.clearMisses addr).noteReply addr (announcement kind payload) := by
  unfold State.takeReply
  rw [h]
  exact if_pos ((s.clearMisses_awaiting addr).trans ha)

theorem State.takeReply_of_configured (h : (s.station addr).state = .configuring)
    (ha : (s.station addr).awaiting = false) (kind : Octet) (payload : List Octet) :
    s.takeReply addr kind payload = match announcement kind payload with
      | some a => (s.clearMisses addr).failedAttempt addr a
      | none => (s.clearMisses addr).enterService addr kind payload := by
  unfold State.takeReply
  rw [h]
  exact if_neg (by rw [s.clearMisses_awaiting addr, ha]; exact Bool.false_ne_true)

theorem State.takeReply_of_inService (h : (s.station addr).state = .inService) (kind : Octet)
    (payload : List Octet) :
    s.takeReply addr kind payload = match announcement kind payload with
      | some a => (s.clearMisses addr).stationRestart addr a
      | none => (s.clearMisses addr).routeReply addr kind payload := by
  unfold State.takeReply
  rw [h] <;>
  rfl

theorem State.takeReply_of_absent (h : (s.station addr).state = .absent ∨ (s.station addr).state = .cutOff)
    (kind : Octet) (payload : List Octet) : s.takeReply addr kind payload = s.strayReply addr kind payload := by
  unfold State.takeReply
  rcases h with h | h <;> rw [h]

end TakeReply

/-! ### The first reply of a station in service -/

theorem State.putStation_putStation {s : State} {addr : Nat} {r r' : Row Station} (h : r ≠ Row.good Station.cold)
    (h' : r' ≠ Row.good Station.cold) : (s.putStation addr r).putStation addr r' = s.putStation addr r' := by
  simp only [State.putStation, Table.set, if_neg h, if_neg h', Table.insert_insert]

/-- The station's entry once it has entered IN SERVICE (R146). -/
def Station.entered (e : Station) : Station := { e with misses := 0, state := .inService, attempts := 0 }

/-- The state with the station IN SERVICE, its notice raised, before the reply that does it is acted on (R146). -/
def State.entered (s : State) (addr : Nat) : State :=
  (s.putStation addr (Row.good (s.station addr).entered)).raise .stationInService addr []

theorem Station.entered_ne_cold (e : Station) : Row.good e.entered ≠ Row.good Station.cold :=
  fun h => StationState.noConfusion (congrArg (fun r : Row Station => r.data.state) h :)

theorem State.entered_attended {s : State} {addr : Nat} (hgood : (s.stationRow addr).bad = false)
    (hstate : (s.station addr).state ≠ .absent) :
    (((s.shutWindow (segOf addr)).clearMisses addr).editStation addr fun e =>
      { e with state := .inService, attempts := 0 }).raise .stationInService addr [] =
      (s.entered addr).attended addr := by
  have hclosed : (s.entered addr).shutWindow (segOf addr) = ((s.shutWindow (segOf addr)).putStation addr
      (Row.good (s.station addr).entered)).raise .stationInService addr [] := by
    unfold State.entered State.shutWindow
    cases segOf addr <;> rfl
  have hgood' : ((s.shutWindow (segOf addr)).stationRow addr).bad = false :=
    (congrArg Row.bad (State.shutWindow_stationRow ..)).trans hgood
  have hstation : (s.shutWindow (segOf addr)).station addr = s.station addr := State.shutWindow_station ..
  unfold State.attended
  rw [hclosed]
  generalize s.shutWindow (segOf addr) = u at hgood' hstation
  have htwice : (u.clearMisses addr).editStation addr (fun e => { e with state := .inService, attempts := 0 }) =
      u.putStation addr (Row.good (s.station addr).entered) := by
    refine (State.editStation_editStation (by rw [hstation]; exact hstate)
      (f' := fun e => { e with state := .inService, attempts := 0 }) StationState.noConfusion).trans ?_
    rw [State.editStation, hgood', hstation]
    rfl
  have hrow : (u.putStation addr (Row.good (s.station addr).entered)).stationRow addr =
      Row.good (s.station addr).entered := (State.stationRow_putStation ..).trans (if_pos rfl)
  have honce : (u.putStation addr (Row.good (s.station addr).entered)).clearMisses addr =
      u.putStation addr (Row.good (s.station addr).entered) := by
    generalize hu : u.putStation addr (Row.good (s.station addr).entered) = w at hrow
    rw [State.clearMisses, State.editStation, State.station, hrow, ← hu]
    exact State.putStation_putStation (Station.entered_ne_cold _) (Station.entered_ne_cold _)
  exact congrArg (State.raise · .stationInService addr []) (htwice.trans honce.symm)

/-- A station that has entered IN SERVICE has its reply awaited still. -/
theorem State.entered_serving {s : State} {addr : Nat} (h1 : 1 ≤ addr) (h64 : addr ≤ 64) (hs : s.Settled)
    (haw : s.Awaits (segOf addr) addr) : (s.entered addr).Serving addr := by
  have hseg : (s.entered addr).seg (segOf addr) = s.seg (segOf addr) := by cases segOf addr <;> rfl
  have hrow : (s.entered addr).stationRow addr = Row.good (s.station addr).entered :=
    (State.stationRow_putStation ..).trans (if_pos rfl)
  refine ⟨h1, h64, hs, ?_, ?_, ?_⟩
  · rw [State.Awaits, hseg]
    exact haw
  · rw [hrow]
    rfl
  · rw [State.station, hrow]
    rfl

/-- The first reply that is no ANNOUNCE, once the CONFIGURE is sent, is acted on as one of a station IN SERVICE
(R146). -/
theorem State.Awaits.exec_entering {s : State} {addr : Nat} (haw : s.Awaits (segOf addr) addr) (h1 : 1 ≤ addr)
    (h64 : addr ≤ 64) (hs : s.Settled) (hgood : (s.stationRow addr).bad = false)
    (hstate : (s.station addr).state = .configuring) (ha : (s.station addr).awaiting = false) {kind : Octet}
    {payload : List Octet} (hp : payload.length ≤ 24) (hk : announcement kind payload = none) :
    exec (.segmentFrameReceived (segOf addr) (stationFrame addr kind payload)) s =
      exec (.segmentFrameReceived (segOf addr) (stationFrame addr kind payload)) (s.entered addr) := by
  have hread : (s.shutWindow (segOf addr)).readStation addr = s.shutWindow (segOf addr) :=
    State.readStation_of_good ((congrArg Row.bad (State.shutWindow_stationRow ..)).trans hgood)
  have htaken : (s.shutWindow (segOf addr)).takeReply addr kind payload =
      ((s.entered addr).attended addr).routeReply addr kind payload := by
    rw [State.takeReply_of_configured (by rw [State.shutWindow_station, hstate])
      (by rw [State.shutWindow_station, ha]), hk, ← State.entered_attended hgood (by rw [hstate]; decide)]
    rfl
  rw [haw.exec_frame (by omega) kind hp, (State.entered_serving h1 h64 hs haw).exec_frame hp hk, ← htaken]
  unfold State.closeReply State.stationReply
  rw [hread]

end Sys2Proof.Machine
end

section
/-! PROOF. The restart of a station IN SERVICE with its deposits, and the replies of every state together (R146, R149,
R150). -/

namespace Sys2Proof.Machine

/-! ### The deposits of a station released -/

/-- Deposits whose Card Rows read good are released without a notice (R81). -/
theorem State.releases_quiet {s : State} {ds : List Deposit} (h : ∀ d ∈ ds, (s.cardRow d.cardRow).bad = false) :
    (ds.foldl State.release s).notices = s.notices ∧ (ds.foldl State.release s).capture = s.capture := by
  induction ds generalizing s with
  | nil => exact ⟨rfl, rfl⟩
  | cons d ds ih =>
    have halike := s.release_reports d
    rw [h d List.mem_cons_self, if_neg Bool.false_ne_true] at halike
    have hrest : ∀ x ∈ ds, ((s.release d).cardRow x.cardRow).bad = false := fun x hx => by
      rw [State.release_cardRow]
      split_ifs
      · rfl
      · exact h x (List.mem_cons_of_mem _ hx)
    obtain ⟨hnotices, hcapture⟩ := ih hrest
    exact ⟨hnotices.trans halike.notices, hcapture.trans halike.capture⟩

theorem State.releaseStation_of_none {s : State} {addr : Nat} (h : ∀ d ∈ s.deposits, rowStation d.row ≠ addr) :
    s.releaseStation addr = s := by
  rw [State.releaseStation, List.filter_eq_nil_iff.2 fun d hd => by simpa using h d hd]
  rfl

/-- The deposits of a station are released one after another (R81). -/
theorem State.releaseStation_released {s : State} (h : s.depositLaw) (addr : Nat) :
    s.Released (s.deposits.filter fun d => d.row / 4 + 1 = addr) (s.releaseStation addr) :=
  (State.Released.nil h).releases _ List.filter_sublist

/-- Those left are the deposits of the other stations, the list holding no row twice (R73). -/
theorem State.Released.deposits_filter {s t : State} {P : Deposit → Bool} (hapart : s.depositsApart)
    (h : s.Released (s.deposits.filter P) t) : t.deposits = s.deposits.filter fun d => !P d := by
  rw [h.deposits]
  refine List.filter_congr fun d hd => ?_
  have hmem : d.row ∈ (s.deposits.filter P).map (·.row) ↔ P d = true := by
    refine ⟨fun hrow => ?_, fun hP => List.mem_map.2 ⟨d, List.mem_filter.2 ⟨hd, hP⟩, rfl⟩⟩
    obtain ⟨x, hx, hxrow⟩ := List.mem_map.1 hrow
    obtain ⟨hxs, hxP⟩ := List.mem_filter.1 hx
    rwa [← List.inj_on_of_nodup_map hapart hxs hd hxrow]
  rw [Bool.eq_iff_iff, decide_eq_true_iff, hmem, Bool.not_eq_true', Bool.not_eq_true]

/-! ### The restart -/

/-- The state without what a release touches. -/
theorem State.editSeg_unreleased (s r : State) (g : Seg) (f : Segment → Segment) :
    { s.editSeg g f with
      deposits := r.deposits, cards := r.cards, containers := r.containers, notices := r.notices
      capture := r.capture } =
    { s with
      deposits := r.deposits, cards := r.cards, containers := r.containers, notices := r.notices
      capture := r.capture }.editSeg g f := by cases g <;> rfl

/-- The station's entry with the rest of the state as releases leave it. -/
theorem State.Moved.of_released {s w r : State} {addr : Nat} {e : Station} {v : State} {ds : List Deposit}
    (hm : s.Moved addr e v w) (h : w.Released ds r) : s.Moved addr e { r with stations := s.stations } r := by
  refine ⟨fun a => ?_, rfl⟩
  have hrow : r.stationRow a = w.stationRow a := (congrArg (fun t : State => t.stationRow a) h.restored :)
  rw [hrow, hm.stationRow]

/-- A state whose stations alone differ has the same accounts. -/
theorem State.depositLaw_of_stations {s t : State} (hs : s.depositLaw) {rows : Table (Row Station)}
    (h : { t with stations := rows } = s) : t.depositLaw := by
  subst h
  exact hs

theorem State.shutWindow_depositLaw {s : State} (hs : s.depositLaw) (g : Seg) : (s.shutWindow g).depositLaw := by
  cases g <;> exact hs

theorem State.Moved.shutWindow {s : State} {addr : Nat} (hgood : (s.stationRow addr).bad = false) (g : Seg) :
    s.Moved addr (s.station addr) (s.shutWindow g) (s.shutWindow g) := .of_good hgood g _

/-- The state in which the deposits of a station that restarts are released (R150). -/
def State.restarting (s : State) (addr : Nat) (a : Announcement) : State :=
  ((s.shutWindow (segOf addr)).clearMisses addr).recordAnnounce addr a

/-- The entry of a station that has restarted (R150). -/
def Station.restarted (e : Station) (a : Announcement) : Station :=
  { ({ e with misses := 0 } : Station).announced a with state := .configuring, attempts := 0, awaiting := true }

section Restart

variable {s : State} {addr : Nat} (hgood : (s.stationRow addr).bad = false)

include hgood

theorem State.Moved.restarting (a : Announcement) :
    s.Moved addr (({ s.station addr with misses := 0 } : Station).announced a) (s.shutWindow (segOf addr))
      (s.restarting addr a) :=
  ((State.Moved.shutWindow hgood (segOf addr)).clearMisses).recordAnnounce a

omit hgood in
theorem State.takeReply_restart (hstate : (s.station addr).state = .inService) (m n : Octet) :
    (s.shutWindow (segOf addr)).takeReply addr 0x01 [m, n] =
      ((s.restarting addr { model := m, count := n }).releaseStation addr).startConfiguring addr := by
  rw [State.takeReply_of_inService (by rw [State.shutWindow_station, hstate])]
  rfl

theorem State.restarting_depositLaw (hlaw : s.depositLaw) (a : Announcement) : (s.restarting addr a).depositLaw :=
  State.depositLaw_of_stations (State.shutWindow_depositLaw hlaw _) (State.Moved.restarting hgood a).restored

theorem State.restarting_deposits (a : Announcement) : (s.restarting addr a).deposits = s.deposits :=
  (congrArg State.deposits (State.Moved.restarting hgood a).restored :).trans (State.editSeg_deposits ..)

end Restart

/-- What the stations and a segment do not hold. -/
theorem State.parts_of_bus {t r : State} {rows : Table (Row Station)} {g : Seg} {f f' : Segment → Segment}
    (h : { t with stations := rows } = ({ r with stations := rows }.editSeg g f).editSeg g f') :
    t.deposits = r.deposits ∧ t.cards = r.cards ∧ t.containers = r.containers ∧ t.notices = r.notices ∧
      t.capture = r.capture := by
  cases g <;> exact ⟨(congrArg State.deposits h :), (congrArg State.cards h :), (congrArg State.containers h :),
    (congrArg State.notices h :), (congrArg State.capture h :)⟩

/-- The rest of the state once releases are set aside (R81). -/
theorem State.unreleased_of_bus {s w t r : State} {ds : List Deposit} {g : Seg} {f f' k : Segment → Segment}
    (hw : { w with stations := s.stations } = s.editSeg g k) (hr : w.Released ds r)
    (h : { t with stations := s.stations } = ({ r with stations := s.stations }.editSeg g f).editSeg g f') :
    { t with stations := s.stations, deposits := s.deposits, cards := s.cards, containers := s.containers,
             notices := s.notices, capture := s.capture } = ((s.editSeg g k).editSeg g f).editSeg g f' := by
  have hset : { r with
      stations := s.stations, deposits := s.deposits, cards := s.cards, containers := s.containers
      notices := s.notices, capture := s.capture } = s.editSeg g k := by
    have hrestored := congrArg (fun u : State => { u with
      stations := s.stations, deposits := s.deposits, cards := s.cards, containers := s.containers
      notices := s.notices, capture := s.capture }) hr.restored
    have hkept := congrArg (fun u : State => { u with
      deposits := s.deposits, cards := s.cards, containers := s.containers
      notices := s.notices, capture := s.capture }) hw
    refine (hrestored : _).trans (hkept.trans ?_)
    cases g <;> rfl
  have hdone := congrArg (fun u : State => { u with
    deposits := s.deposits, cards := s.cards, containers := s.containers, notices := s.notices
    capture := s.capture }) h
  refine (hdone : _).trans ?_
  rw [State.editSeg_unreleased, State.editSeg_unreleased]
  exact congrArg (fun u : State => (u.editSeg g f).editSeg g f') hset

theorem State.shutWindow_joined (s : State) (g : Seg) (addr : Nat) :
    ((s.shutWindow g).editSeg g (Segment.joined addr)).turnDue g =
      (s.editSeg g Segment.closed).editSeg g (Segment.joined addr) := by cases g <;> rfl

theorem State.shutWindow_stray (s : State) (g : Seg) :
    ((s.shutWindow g).countStray g).turnDue g = (s.editSeg g Segment.closed).countStray g := by cases g <;> rfl

/-- Settles O49: each reply by the entry it makes and the rest of the state, and the restart by its releases. -/
theorem repliesMoveStations : Obligations.RepliesMoveStations := by
  unfold Obligations.RepliesMoveStations
  intro s addr h1 h64 hs haw hgood g e announced discarded shut joined wrong stray held left rebuilt hears
  have hm : s.Moved addr (s.station addr) (s.shutWindow g) (s.shutWindow g) := .shutWindow hgood g
  have hc : s.Moved addr e (s.shutWindow g) ((s.shutWindow g).clearMisses addr) := hm.clearMisses
  have hv : (s.shutWindow g).Settled := State.shutWindow_settled hs g
  have hstation : (s.shutWindow g).station addr = s.station addr := State.shutWindow_station ..
  have hshut : (s.shutWindow g).turnDue g = shut := State.shutWindow_turnDue s g
  have hjoined : ((s.shutWindow g).editSeg g (Segment.joined addr)).turnDue g = joined :=
    State.shutWindow_joined ..
  have hstray : ((s.shutWindow g).editSeg g fun x => { x with stray := satInc16 x.stray }).turnDue g = stray :=
    State.shutWindow_stray ..
  have hnone {kind : Octet} {payload : List Octet} (h : kind ≠ 0x01 ∨ payload.length ≠ 2) :
      announcement kind payload = none := announcement_of_length h
  have hhears {kind : Octet} {payload : List Octet} {after : Station} {u v base : State}
      (hp : payload.length ≤ 24) (htaken : (s.shutWindow g).takeReply addr kind payload = u)
      (hmoved : s.Moved addr after v u) (hsettled : v.Settled) (hbase : v.turnDue g = base) :
      hears kind payload after base := by
    subst htaken hbase
    exact haw.exec_moved h64 hgood hp hsettled hmoved
  have hwrong {kind : Octet} {payload : List Octet} (h : wrong kind payload) :
      malformed kind payload = true ∧ payload.length ≤ 24 := ⟨malformed_iff.2 ⟨h.1, h.2.2⟩, h.2.1⟩
  refine ⟨fun hstate => ⟨fun kind payload hk hp => ?waitingDiscarded, fun m n => ?waitingAnnounced⟩,
    fun hstate hawaiting => ⟨fun kind payload hk hp => ?awaitingDiscarded, fun m n => ?awaitingAnnounced⟩,
    fun hstate hawaiting => ⟨?nothing, fun kind payload hk hp => ?entering, fun m n hlt => ?failed, fun m n hle => ?silent⟩,
    fun hstate hnodeposit m n => ?restarted, fun hstate hlaw m n => ?released, fun hstate kind payload hbad => ?malformed,
    fun hstate => ⟨fun kind payload hp hok => ?stray, fun kind payload hbad => ?strayMalformed⟩⟩
  case waitingDiscarded =>
    refine hhears hp ((State.takeReply_of_waiting (by rw [hstation]; exact hstate) ..).trans ?_)
      hc.countDiscarded.startConfiguring (State.editSeg_settled hv ..) hjoined
    rw [hnone hk]
    rfl
  case waitingAnnounced =>
    exact hhears (by simp) (State.takeReply_of_waiting (by rw [hstation]; exact hstate) ..)
      (hc.recordAnnounce { model := m, count := n }).startConfiguring (State.editSeg_settled hv ..) hjoined
  case awaitingDiscarded =>
    refine hhears hp ((State.takeReply_of_awaiting (by rw [hstation]; exact hstate)
      (by rw [hstation]; exact hawaiting) ..).trans ?_) hc.countDiscarded hv hshut
    rw [hnone hk]
    rfl
  case awaitingAnnounced =>
    exact hhears (by simp) (State.takeReply_of_awaiting (by rw [hstation]; exact hstate)
      (by rw [hstation]; exact hawaiting) ..) (hc.recordAnnounce { model := m, count := n }) hv hshut
  case nothing =>
    exact hhears (by simp) (State.takeReply_of_configured (by rw [hstation]; exact hstate)
      (by rw [hstation]; exact hawaiting) ..)
      ((hc.editStation fun e => { e with state := .inService, attempts := 0 }).raise .stationInService addr []) hv
      ((State.editSeg_raise ..).symm.trans (congrArg (State.raise · .stationInService addr []) hshut))
  case entering =>
    exact haw.exec_entering h1 h64 hs hgood hstate hawaiting hp (hnone hk)
  case failed =>
    exact hhears (by simp) (State.takeReply_of_configured (by rw [hstation]; exact hstate)
      (by rw [hstation]; exact hawaiting) ..) (hc.failedAttempt_of_lt { model := m, count := n } hlt)
      (State.editSeg_settled hv ..) hjoined
  case silent =>
    exact hhears (by simp) (State.takeReply_of_configured (by rw [hstation]; exact hstate)
      (by rw [hstation]; exact hawaiting) ..) (hc.failedAttempt_of_le { model := m, count := n } hle) hv
      ((State.editSeg_raise ..).symm.trans (congrArg (State.raise · .configFail addr [m, n]) hshut))
  case restarted =>
    have hkept : (s.restarting addr { model := m, count := n }).releaseStation addr =
        s.restarting addr { model := m, count := n } :=
      State.releaseStation_of_none (by rw [State.restarting_deposits hgood]; exact hnodeposit)
    refine hhears (by simp) ((State.takeReply_restart hstate m n).trans (congrArg (State.startConfiguring · addr) hkept))
      (State.Moved.restarting hgood _).startConfiguring (State.editSeg_settled hv ..) hjoined
  case released =>
    generalize ha : ({ model := m, count := n } : Announcement) = a
    have hlaw' := State.restarting_depositLaw hgood hlaw a
    have hw := (State.Moved.restarting hgood a).restored
    have hcards (row : Nat) : (s.restarting addr a).cardRow row = s.cardRow row :=
      (congrArg (fun t : State => t.cardRow row) hw :).trans (State.editSeg_cardRow ..)
    have hcontainers (row : Nat) : (s.restarting addr a).containerRow row = s.containerRow row :=
      (congrArg (fun t : State => t.containerRow row) hw :).trans (State.editSeg_containerRow ..)
    have hreleased := State.releaseStation_released hlaw' addr
    have hleft := State.Released.deposits_filter hlaw'.2.1 hreleased
    rw [State.restarting_deposits hgood] at hreleased hleft
    have hquiet := State.releases_quiet (s := s.restarting addr a) (ds := held)
    have hfold : held.foldl State.release (s.restarting addr a) = (s.restarting addr a).releaseStation addr := by
      rw [State.releaseStation, State.restarting_deposits hgood]
      rfl
    rw [hfold] at hquiet
    have htaken := State.takeReply_restart hstate m n
    rw [ha] at htaken
    generalize (s.restarting addr a).releaseStation addr = r at hreleased hleft hquiet htaken
    have hleft' : r.deposits = left := by rw [hleft]; simp only [left, decide_not]
    have hmoved := ((State.Moved.restarting hgood a).of_released hreleased).startConfiguring
    have hsettled : ({ r with stations := s.stations } : State).Settled :=
      ((congrArg (fun t : State => t.dispatch.passDue) hreleased.restored :).trans
        (congrArg (fun t : State => t.dispatch.passDue) hw :)).trans hv
    rw [← htaken] at hmoved
    obtain ⟨t, hexec, hrow, hrest⟩ := haw.exec_moved h64 hgood (by simp) (State.editSeg_settled hsettled ..) hmoved
    obtain ⟨hdeposits, hcardTable, hcontainerTable, hnotices, hcapture⟩ := State.parts_of_bus hrest
    refine ⟨t, hexec, ?_, hdeposits.trans hleft', fun row => ?_, fun row => ?_, fun hall => ?_,
      (State.unreleased_of_bus hw hreleased hrest).trans ?_⟩
    · rw [← ha] at hrow
      exact hrow
    · have hcard := hreleased.cardRow row
      rw [hleft', State.rebuiltCard, State.card, hcards] at hcard
      rw [State.cardRow, hcardTable]
      exact hcard
    · have hcontainer := hreleased.containerRow row
      rw [State.container, hcontainers] at hcontainer
      rw [State.containerRow, hcontainerTable]
      exact hcontainer
    · obtain ⟨hquietNotices, hquietCapture⟩ := hquiet fun d hd => by rw [hcards]; exact hall d hd
      exact ⟨(hnotices.trans hquietNotices).trans
          ((congrArg State.notices hw :).trans (State.editSeg_notices ..)),
        (hcapture.trans hquietCapture).trans ((congrArg State.capture hw :).trans (State.editSeg_capture ..))⟩
    · exact hjoined
  case malformed =>
    obtain ⟨hmalformed, hp⟩ := hwrong hbad
    have hk : kind ≠ 0x01 ∨ payload.length ≠ 2 := by
      by_contra h
      obtain ⟨rfl, hlength⟩ := not_or.1 h |>.imp not_not.1 not_not.1
      exact hbad.2.2 (by simp [hlength])
    refine hhears hp ((State.takeReply_of_inService (by rw [hstation]; exact hstate) ..).trans ?_) hc.countDiscarded hv hshut
    rw [hnone hk]
    exact if_pos hmalformed
  case stray =>
    refine hhears hp ((State.takeReply_of_absent (by rw [hstation]; exact hstate) ..).trans ?_)
      (hm.editSeg g fun x => { x with stray := satInc16 x.stray }) (State.editSeg_settled hv ..) hstray
    exact if_neg fun hmalformed => hok ⟨(malformed_iff.1 hmalformed).1, hp, (malformed_iff.1 hmalformed).2⟩
  case strayMalformed =>
    obtain ⟨hmalformed, hp⟩ := hwrong hbad
    refine hhears hp ((State.takeReply_of_absent (by rw [hstation]; exact hstate) ..).trans ?_)
      (hm.editSeg g fun x => { x with stray := satInc16 x.stray }).countDiscarded (State.editSeg_settled hv ..) hstray
    exact if_pos hmalformed

end Sys2Proof.Machine
end

section
/-! PROOF. The unload of a station's containers, one after another: its rows, its list, and its deposits (R10, R81). -/

namespace Sys2Proof.Machine

/-! ### The releases of an unload -/

/-- The deposits released at a row's turn stand in the list in their order, and are of its station (R81; log entry
28). -/
theorem State.releaseUpTo_releases (s : State) (row : Nat) :
    ∃ es : List Deposit, es.Sublist s.deposits ∧ (∀ d ∈ es, rowStation d.row = rowStation row) ∧
      (∀ d, s.depositAt row = some d → d ∈ es) ∧ s.releaseUpTo row = es.foldl State.release s := by
  cases hd : s.depositAt row with
  | none => exact ⟨[], List.nil_sublist _, nofun, nofun, State.releaseUpTo_none hd⟩
  | some d =>
    obtain ⟨hrow, front, behind, hlist, hfront⟩ := List.find?_eq_some_iff_append.1 hd
    have htake : s.deposits.takeWhile (fun x => x.row ≠ row) = front := by
      rw [hlist, List.takeWhile_append_of_pos (by simpa using hfront),
        List.takeWhile_cons_of_neg (by simpa using hrow), List.append_nil]
    refine ⟨front.filter (fun x => rowStation x.row = rowStation row) ++ [d], ?_, fun x hx => ?_, fun x hx => ?_, ?_⟩
    · rw [hlist]
      exact List.filter_sublist.append (List.singleton_sublist.2 List.mem_cons_self)
    · rcases List.mem_append.1 hx with hx | hx
      · exact of_decide_eq_true (List.mem_filter.1 hx).2
      · rw [List.mem_singleton.1 hx, State.depositAt_row hd]
    · obtain rfl := Option.some.inj hx
      exact List.mem_append_right _ (List.mem_singleton.2 rfl)
    · rw [State.releaseUpTo, hd, htake, List.foldl_append]
      rfl

/-- A release reads the deposits and the cards alone to write them (R81). -/
theorem State.release_accounts {s t : State} (hdeposits : t.deposits = s.deposits) (hcards : t.cards = s.cards)
    (d : Deposit) :
    (t.release d).deposits = (s.release d).deposits ∧ (t.release d).cards = (s.release d).cards := by
  have hrow (row : Nat) : t.cardRow row = s.cardRow row := by rw [State.cardRow, hcards, State.cardRow]
  have hwrite (u w : State) (c : CardRow) (hu : u.cards = w.cards) :
      (u.writeCard d.cardRow c).cards = (w.writeCard d.cardRow c).cards :=
    congrArg (fun x => Table.set (Row.good CardRow.cold) x d.cardRow (Row.good c)) hu
  have hrepair : (t.repairCard d.cardRow).cards = (s.repairCard d.cardRow).cards := by
    unfold State.repairCard
    rw [hrow, State.card, hrow]
    split_ifs
    · rw [hdeposits]
      exact hwrite (t.tableFault ..) (s.tableFault ..) _ hcards
    · exact hcards
  have hcard : (t.repairCard d.cardRow).card d.cardRow = (s.repairCard d.cardRow).card d.cardRow := by
    rw [State.card, State.cardRow, hrepair, State.card, State.cardRow]
  have hwritten (u : State) : (u.release d).cards = ((u.repairCard d.cardRow).writeCard d.cardRow
      { (u.repairCard d.cardRow).card d.cardRow with
        reserved := lowerReserved ((u.repairCard d.cardRow).card d.cardRow).reserved d.units }).cards := rfl
  refine ⟨by rw [State.release_deposits, State.release_deposits, hdeposits], ?_⟩
  rw [hwritten, hwritten, hcard]
  exact hwrite _ _ _ hrepair

/-- What a discharge leaves alone (R15, R105). -/
theorem State.discharge_restored (s : State) (row : Nat) (r : Row Container) :
    { s.discharge row r with containers := s.containers, tickets := s.tickets, dispatch := s.dispatch,
                             notices := s.notices } = s :=
  (congrArg (fun t : State => { t with dispatch := s.dispatch }) (s.skipStop_restored row (s.assignedSlot row)) :)

/-! ### The state within an unload -/

/-- A state within the unload of a station: the rows that are out are cleared and gone from the list, and some
deposits of the station are released (R10, R81). -/
structure State.Unloading (s : State) (a : Nat) (out : Nat → Bool) (ds : List Deposit) (t : State) : Prop where
  containerRow : ∀ row, t.containerRow row = if out row then Row.good Container.unloaded else
    { data := { s.container row with
        hasPending := (s.container row).hasPending && !ds.any fun d => d.row = row }
      bad := (s.containerRow row).bad }
  dispatch : t.dispatch = { s.dispatch with list := s.dispatch.list.filter fun row => !out row }
  released : ∀ d ∈ ds, d ∈ s.deposits ∧ rowStation d.row = a
  deposits : t.deposits.Sublist s.deposits
  accounts : s.depositLaw → ∃ v, s.Released ds v ∧ v.deposits = t.deposits ∧ v.cards = t.cards
  good : ∀ row, (s.cardRow row).bad = false → (t.cardRow row).bad = false
  capture : (∀ d ∈ s.deposits, rowStation d.row = a → (s.cardRow d.cardRow).bad = false) → t.capture = s.capture
  restored : { t with containers := s.containers, deposits := s.deposits, cards := s.cards, tickets := s.tickets,
                      dispatch := s.dispatch, notices := s.notices, capture := s.capture } = s

theorem State.Unloading.nil (s : State) (a : Nat) : s.Unloading a (fun _ => false) [] s where
  containerRow row := by simp [State.container]
  dispatch := by simp
  released := nofun
  deposits := List.Sublist.refl _
  accounts h := ⟨s, .nil h, rfl, rfl⟩
  good _ h := h
  capture _ := rfl
  restored := rfl

section Unloading

variable {s t : State} {a : Nat} {out : Nat → Bool} {ds : List Deposit} (h : s.Unloading a out ds t)

include h

theorem State.Unloading.release {d : Deposit} (hd : d ∈ t.deposits) (hstation : rowStation d.row = a) :
    s.Unloading a out (ds ++ [d]) (t.release d) where
  containerRow row := by
    rw [State.release_containerRow, State.container, h.containerRow]
    cases out row with
    | true => rfl
    | false => simp [Bool.and_assoc]
  dispatch := (congrArg State.dispatch (t.release_restored d) :).trans h.dispatch
  released x hx := by
    rcases List.mem_append.1 hx with hx | hx
    · exact h.released x hx
    · rw [List.mem_singleton.1 hx]
      exact ⟨h.deposits.subset hd, hstation⟩
  deposits := by
    rw [State.release_deposits]
    exact List.eraseP_sublist.trans h.deposits
  accounts hlaw := by
    obtain ⟨v, hv, hdeposits, hcards⟩ := h.accounts hlaw
    exact ⟨v.release d, hv.release (hdeposits ▸ hd), State.release_accounts hdeposits hcards d⟩
  good row hrow := by
    rw [State.release_cardRow]
    split_ifs
    · rfl
    · exact h.good row hrow
  capture hquiet := by
    have hcard := h.good _ (hquiet d (h.deposits.subset hd) hstation)
    have halike := t.release_reports d
    rw [hcard, if_neg Bool.false_ne_true] at halike
    exact halike.capture.trans (h.capture hquiet)
  restored := (congrArg (fun u : State => { u with
    containers := s.containers, deposits := s.deposits, cards := s.cards, tickets := s.tickets
    dispatch := s.dispatch, notices := s.notices, capture := s.capture }) (t.release_restored d) :).trans h.restored

theorem State.Unloading.releases (es : List Deposit) (hes : es.Sublist t.deposits)
    (hstation : ∀ d ∈ es, rowStation d.row = a) : s.Unloading a out (ds ++ es) (es.foldl State.release t) := by
  induction es generalizing ds t with
  | nil => simpa using h
  | cons d es ih =>
    have hnext := ih (h.release (hes.subset List.mem_cons_self) (hstation d List.mem_cons_self))
      (State.sublist_release hes) fun x hx => hstation x (List.mem_cons_of_mem _ hx)
    rwa [List.append_assoc] at hnext

/-- A row is cleared, and leaves the list (R10). -/
theorem State.Unloading.discharge (row : Nat) : s.Unloading a (fun r => out r || r = row) ds
    (t.discharge row (Row.good Container.unloaded)) where
  containerRow r := by
    rw [State.discharge_containerRow, h.containerRow]
    by_cases hr : r = row
    · simp [hr]
    · simp [hr]
  dispatch := by
    rw [State.discharge_dispatch, h.dispatch]
    simp only [List.filter_filter, Bool.not_or, ne_eq, decide_not, Bool.and_comm]
  released := h.released
  deposits := by
    rw [(congrArg State.deposits (t.discharge_restored row (Row.good Container.unloaded)) :)]
    exact h.deposits
  accounts hlaw := by
    obtain ⟨v, hv, hdeposits, hcards⟩ := h.accounts hlaw
    have hrestored := t.discharge_restored row (Row.good Container.unloaded)
    exact ⟨v, hv, hdeposits.trans (congrArg State.deposits hrestored :).symm,
      hcards.trans (congrArg State.cards hrestored :).symm⟩
  good r hr := by
    rw [State.cardRow, (congrArg State.cards (t.discharge_restored row (Row.good Container.unloaded)) :)]
    exact h.good r hr
  capture hquiet :=
    (congrArg State.capture (t.discharge_restored row (Row.good Container.unloaded)) :).trans (h.capture hquiet)
  restored := (congrArg (fun u : State => { u with
    containers := s.containers, deposits := s.deposits, cards := s.cards, tickets := s.tickets
    dispatch := s.dispatch, notices := s.notices, capture := s.capture })
    (t.discharge_restored row (Row.good Container.unloaded)) :).trans h.restored

/-- No deposit is left of a row whose deposit has been released (R73). -/
theorem State.Unloading.emptied (hlaw : s.depositLaw) {row : Nat} (hrow : row ∈ ds.map (·.row)) :
    ∀ d ∈ t.deposits, d.row ≠ row := by
  obtain ⟨v, hv, hdeposits, -⟩ := h.accounts hlaw
  intro d hd hdrow
  rw [← hdeposits, hv.deposits] at hd
  refine absurd (List.mem_filter.1 hd).2 ?_
  simpa [hdrow] using hrow

/-- With every deposit of the station released, those of the others are left (R81). -/
theorem State.Unloading.deposits_left (hlaw : s.depositLaw) (hall : ∀ d ∈ t.deposits, rowStation d.row ≠ a) :
    t.deposits = s.deposits.filter fun d => rowStation d.row ≠ a := by
  obtain ⟨v, hv, hdeposits, -⟩ := h.accounts hlaw
  rw [← hdeposits, hv.deposits]
  refine List.filter_congr fun d hd => decide_eq_decide.2 ⟨fun hnot => ?_, fun hother hmem => ?_⟩
  · refine hall d ?_
    rw [← hdeposits, hv.deposits]
    exact List.mem_filter.2 ⟨hd, decide_eq_true hnot⟩
  · obtain ⟨x, hx, hrow⟩ := List.mem_map.1 hmem
    exact hother (hrow ▸ (h.released x hx).2)

/-- The deposits of the station, once they have all been released, are those released (R81). -/
theorem State.Unloading.any_released (hlaw : s.depositLaw) (hall : ∀ d ∈ t.deposits, rowStation d.row ≠ a)
    (p : Deposit → Bool) : (s.deposits.filter fun d => rowStation d.row = a).any p = ds.any p := by
  obtain ⟨v, hv, hdeposits, -⟩ := h.accounts hlaw
  refine Bool.eq_iff_iff.2 ?_
  rw [List.any_eq_true, List.any_eq_true]
  constructor
  · rintro ⟨d, hd, hp⟩
    obtain ⟨hds, hstation⟩ := List.mem_filter.1 hd
    by_contra hnone
    refine hall d ?_ (of_decide_eq_true hstation)
    rw [← hdeposits, hv.deposits]
    refine List.mem_filter.2 ⟨hds, decide_eq_true fun hmem => ?_⟩
    obtain ⟨x, hx, hrow⟩ := List.mem_map.1 hmem
    obtain rfl := List.inj_on_of_nodup_map hlaw.2.1 (h.released x hx).1 hds hrow
    exact hnone ⟨x, hx, hp⟩
  · rintro ⟨d, hd, hp⟩
    obtain ⟨hds, hstation⟩ := h.released d hd
    exact ⟨d, List.mem_filter.2 ⟨hds, decide_eq_true hstation⟩, hp⟩

end Unloading

end Sys2Proof.Machine
end

section
/-! PROOF. The tickets of a station's containers that are unloaded (R105): their stops, and their completion. -/

namespace Sys2Proof.Machine

/-! ### A ticket some of whose rows are unloaded -/

/-- A stop, SKIPPED if it is PLANNED at a row that is out (R105). -/
def Stop.emptied (out : Nat → Bool) (p : Stop) : Stop :=
  if out p.row && p.status = .planned then { p with status := .skipped, mass := none } else p

/-- A HANDED ticket is left without a PLANNED stop by the rows that are out (R105). -/
abbrev Ticket.runsOut (k : Ticket) (out : Nat → Bool) : Prop :=
  k.state = .handed ∧ (∃ p ∈ k.stops, out p.row = true ∧ p.status = .planned) ∧
    ∀ p ∈ k.stops.map (Stop.emptied out), p.status ≠ .planned

/-- A ticket whose stops at the rows that are out are SKIPPED (R105). -/
def Ticket.emptied (k : Ticket) (out : Nat → Bool) : Ticket :=
  { k with stops := k.stops.map (Stop.emptied out), state := if k.runsOut out then .complete else k.state }

theorem Stop.emptied_row (out : Nat → Bool) (p : Stop) : (p.emptied out).row = p.row := by
  unfold Stop.emptied
  split_ifs <;> rfl

theorem Stop.emptied_planned {out : Nat → Bool} {p : Stop} :
    (p.emptied out).status = .planned ↔ p.status = .planned ∧ out p.row = false := by
  unfold Stop.emptied
  cases hout : out p.row with
  | false => simp
  | true =>
    by_cases hp : p.status = .planned
    · simp [hp]
    · simp [hp]

theorem Stop.emptied_of_kept {out : Nat → Bool} {p : Stop} (h : out p.row = false) : p.emptied out = p := by
  simp [Stop.emptied, h]

theorem Stop.emptied_none (p : Stop) : p.emptied (fun _ => false) = p := Stop.emptied_of_kept rfl

theorem Ticket.emptied_none (k : Ticket) : k.emptied (fun _ => false) = k := by
  have hstops : k.stops.map (Stop.emptied fun _ => false) = k.stops := by
    rw [show Stop.emptied (fun _ => false) = id from funext Stop.emptied_none, List.map_id]
  have hnot : ¬ k.runsOut (fun _ => false) := by
    rintro ⟨-, ⟨p, -, hp, -⟩, -⟩
    exact Bool.false_ne_true hp
  rw [Ticket.emptied, if_neg hnot, hstops]

theorem Ticket.mem_emptied_planned {k : Ticket} {out : Nat → Bool} :
    (∀ p ∈ k.stops.map (Stop.emptied out), p.status ≠ .planned) ↔
      ∀ p ∈ k.stops, p.status = .planned → out p.row = true := by
  rw [List.forall_mem_map]
  refine forall₂_congr fun p _ => ?_
  rw [ne_eq, Stop.emptied_planned, not_and, Bool.not_eq_false]

/-- The stops are emptied alike by rows that agree where a stop is PLANNED. -/
theorem Ticket.emptied_congr {k : Ticket} {out out' : Nat → Bool}
    (h : ∀ p ∈ k.stops, p.status = .planned → out' p.row = out p.row) : k.emptied out' = k.emptied out := by
  have hstops : k.stops.map (Stop.emptied out') = k.stops.map (Stop.emptied out) := by
    refine List.map_congr_left fun p hp => ?_
    by_cases hplanned : p.status = .planned
    · rw [Stop.emptied, Stop.emptied, h p hp hplanned]
    · simp [Stop.emptied, hplanned]
  have hruns : k.runsOut out' ↔ k.runsOut out := by
    refine and_congr_right fun _ => and_congr (exists_congr fun p => and_congr_right fun hp => ?_) ?_
    · refine and_congr_left fun hplanned => ?_
      rw [h p hp hplanned]
    · rw [hstops]
  simp only [Ticket.emptied, hstops, hruns]

/-- A live ticket with a stop left PLANNED is as live as it was. -/
theorem Ticket.planned_emptied {k : Ticket} (hlive : k.state = .opened ∨ k.state = .handed) {out : Nat → Bool}
    {row : Nat} (hout : out row = false) :
    (k.emptied out).planned row ≠ 0 ↔ ∃ p ∈ k.stops, p.row = row ∧ p.status = .planned := by
  rw [← Ticket.plans_iff, Ticket.plans]
  constructor
  · rintro ⟨-, q, hq, hrow, hplanned⟩
    obtain ⟨p, hp, rfl⟩ := List.mem_map.1 hq
    exact ⟨p, hp, (p.emptied_row out) ▸ hrow, (Stop.emptied_planned.1 hplanned).1⟩
  · rintro ⟨p, hp, rfl, hplanned⟩
    have hnot : ¬ k.runsOut out := fun hruns => by
      have := Ticket.mem_emptied_planned.1 hruns.2.2 p hp hplanned
      rw [hout] at this
      exact Bool.false_ne_true this
    refine ⟨?_, p, List.mem_map.2 ⟨p, hp, Stop.emptied_of_kept hout⟩, rfl, hplanned⟩
    rw [Ticket.emptied, if_neg hnot]
    exact hlive

/-- A row that no ticket plans is out at no cost. -/
theorem Ticket.emptied_of_unplanned {k : Ticket} (hlive : k.state = .opened ∨ k.state = .handed) {out : Nat → Bool}
    {row : Nat} (hout : out row = false) (h : (k.emptied out).planned row = 0) :
    k.emptied (fun r => out r || r = row) = k.emptied out := by
  refine Ticket.emptied_congr fun p hp hplanned => ?_
  have hrow : p.row ≠ row := fun hrow => (Ticket.planned_emptied hlive hout).2 ⟨p, hp, hrow, hplanned⟩ h
  rw [decide_eq_false hrow, Bool.or_false]

/-- The end of the one PLANNED stop of a row. -/
theorem endStop_eq_map {row : Nat} {l : List Stop} (h : l.countP (fun p => p.row = row && p.isPlanned) ≤ 1)
    (st : StopStatus) (mass : Option Nat) :
    endStop row st mass l =
      l.map fun p => if p.row = row && p.isPlanned then { p with status := st, mass := mass } else p := by
  induction l with
  | nil => rfl
  | cons p l ih =>
    unfold endStop
    by_cases hp : (p.row = row && p.isPlanned) = true
    · have hrest : ∀ q ∈ l, ¬ (q.row = row && q.isPlanned) = true := by
        rw [List.countP_cons, if_pos hp] at h
        exact List.countP_eq_zero.1 (Nat.le_zero.1 (Nat.le_of_succ_le_succ h))
      rw [if_pos hp, List.map_cons, if_pos hp]
      exact congrArg _ ((List.map_congr_left fun q hq => if_neg (hrest q hq)).trans (List.map_id l)).symm
    · rw [List.countP_cons, if_neg hp] at h
      rw [if_neg hp, List.map_cons, if_neg hp, ih h]

theorem Ticket.emptied_live {k : Ticket} {out : Nat → Bool} {row : Nat} (hplanned : (k.emptied out).planned row = 1) :
    (k.emptied out).state = k.state ∧ (k.emptied out).stops.countP (fun p => p.row = row && p.isPlanned) ≤ 1 := by
  unfold Ticket.planned at hplanned
  split_ifs at hplanned with hstill
  · refine ⟨?_, hplanned.le⟩
    by_cases hruns : k.runsOut out
    · have hstate : (k.emptied out).state = .complete := if_pos hruns
      rw [hstate] at hstill
      exact absurd hstill (by simp)
    · exact if_neg hruns

section OneMore

variable {k : Ticket} (hlive : k.state = .opened ∨ k.state = .handed) {out : Nat → Bool} {row : Nat}
  (hout : out row = false) (hplanned : (k.emptied out).planned row = 1)

include hlive hout hplanned

omit hlive in
/-- With one more row out, its one PLANNED stop is SKIPPED (R105). -/
theorem Ticket.emptied_endStop : endStop row .skipped none (k.emptied out).stops =
    k.stops.map (Stop.emptied fun r => out r || r = row) := by
  rw [endStop_eq_map (Ticket.emptied_live hplanned).2]
  refine (List.map_map ..).trans (List.map_congr_left fun p _ => ?_)
  by_cases hrow : p.row = row
  · simp [Stop.emptied, Stop.isPlanned, hrow, hout]
  · have hrow' : (p.emptied out).row ≠ row := (p.emptied_row out).symm ▸ hrow
    refine (if_neg (by simp [hrow'])).trans ?_
    simp [Stop.emptied, hrow]

omit hlive in
/-- The row's stop is the ticket's last PLANNED one (R105). -/
theorem Ticket.emptied_completesAt : (k.emptied out).completesAt row .skipped none ↔
    k.state = .handed ∧ ∀ p ∈ k.stops, p.status = .planned → (out p.row || p.row = row) = true := by
  unfold Ticket.completesAt
  rw [Ticket.emptied_endStop hout hplanned, (Ticket.emptied_live hplanned).1,
    Ticket.mem_emptied_planned]

/-- The ticket once the row's stop is SKIPPED (R105). -/
theorem Ticket.emptied_stopEnded : (k.emptied out).stopEnded row .skipped none =
    k.emptied (fun r => out r || r = row) := by
  obtain ⟨p, hp, hrow, hstop⟩ := (Ticket.planned_emptied hlive hout).1 (hplanned ▸ Nat.one_ne_zero)
  have hstops := Ticket.emptied_endStop hout hplanned
  have hcompletes : (k.emptied out).completesAt row .skipped none ↔ k.runsOut (fun r => out r || r = row) := by
    rw [Ticket.emptied_completesAt hout hplanned, Ticket.runsOut, Ticket.mem_emptied_planned]
    refine and_congr_right fun _ => (and_iff_right ⟨p, hp, ?_, hstop⟩).symm
    simp [hrow]
  have hstate := (Ticket.emptied_live hplanned).1
  unfold Ticket.stopEnded
  by_cases hruns : k.runsOut (fun r => out r || r = row)
  · rw [if_pos (hcompletes.2 hruns), hstops, Ticket.emptied, Ticket.emptied, if_pos hruns]
  · rw [if_neg (mt hcompletes.1 hruns), hstops, hstate, Ticket.emptied, Ticket.emptied, if_neg hruns]

end OneMore

/-! ### The Dispatch Unit within an unload -/

/-- A release leaves the Dispatch Unit's laws (R81). -/
theorem State.Dispatched.release {s : State} (hs : s.Dispatched .within) (d : Deposit) :
    (s.release d).Dispatched .within := by
  have hbefore : ∀ u : State, u.containers = s.containers → u.tickets = s.tickets → u.dispatch = s.dispatch →
      u.Dispatched .within := fun u hcontainers htickets hdispatch =>
    hs.congr (fun x => by rw [State.containerRow, hcontainers, State.containerRow]) (by rw [hdispatch])
      (fun n _ x => by rw [State.ticket, htickets, State.ticket]) fun _ => id
  let c := s.repairCard d.cardRow
  have hrestored := s.repairCard_restored d.cardRow
  refine State.Dispatched.put (hbefore ((c.writeCard d.cardRow _).removeDeposit d.row) ?_ ?_ ?_) (fun hgood => ?_)
    fun _ hcold => ?_
  · exact (congrArg State.containers hrestored :)
  · exact (congrArg State.tickets hrestored :)
  · exact (congrArg State.dispatch hrestored :)
  · exact ⟨hgood, ⟨id, Or.inl ⟨rfl, Or.inl rfl⟩⟩, fun _ => rfl⟩
  · rw [State.container, hcold]
    rfl

theorem State.Dispatched.releases (es : List Deposit) {s : State} (hs : s.Dispatched .within) :
    (es.foldl State.release s).Dispatched .within := by
  induction es generalizing s with
  | nil => exact hs
  | cons d es ih => exact ih (hs.release d)

theorem State.releases_sublist (es : List Deposit) (s : State) :
    (es.foldl State.release s).deposits.Sublist s.deposits := by
  induction es generalizing s with
  | nil => exact List.Sublist.refl _
  | cons d es ih =>
    refine (ih (s.release d)).trans ?_
    rw [State.release_deposits]
    exact List.eraseP_sublist

theorem State.releases_ticket (es : List Deposit) (s : State) (n : Nat) :
    (es.foldl State.release s).ticket n = s.ticket n := by
  induction es generalizing s with
  | nil => rfl
  | cons d es ih => exact (ih (s.release d)).trans (congrArg (fun t : State => t.ticket n) (s.release_restored d) :)

end Sys2Proof.Machine
end

section
/-! PROOF. A station's containers unloaded in row order (R10, R81, R105): the rows come to, their tickets and
notices. -/

namespace Sys2Proof.Machine

/-! ### The rows an unload has come to -/

/-- The unload of a station clears this row (R10; log entry 13). -/
def State.gone (s : State) (a row : Nat) : Bool :=
  row / 4 + 1 = a && ((s.container row).loaded || (s.containerRow row).bad)

/-- The unload has cleared this row when it has come to so many of the station's slots (R10). -/
def State.cleared (s : State) (a slots row : Nat) : Bool := s.gone a row && row % 4 < slots

theorem State.cleared_zero (s : State) (a : Nat) : s.cleared a 0 = fun _ => false := by
  funext row
  simp [State.cleared]

theorem State.cleared_four (s : State) (a : Nat) : s.cleared a 4 = s.gone a := by
  funext row
  have hlt : row % 4 < 4 := Nat.mod_lt row (by decide)
  rw [State.cleared, decide_eq_true hlt, Bool.and_true]

theorem eq_rowOf_iff {a slot : Nat} (ha : 1 ≤ a) (hslot : slot < 4) (row : Nat) :
    row = rowOf a slot ↔ row / 4 + 1 = a ∧ row % 4 = slot := by
  unfold rowOf
  omega

theorem State.cleared_succ {s : State} {a slot : Nat} (ha : 1 ≤ a) (hslot : slot < 4)
    (hgone : s.gone a (rowOf a slot) = true) :
    s.cleared a (slot + 1) = fun row => s.cleared a slot row || row = rowOf a slot := by
  funext row
  by_cases hrow : row = rowOf a slot
  · have hmod := ((eq_rowOf_iff ha hslot row).1 hrow).2
    rw [State.cleared, decide_eq_true hrow, Bool.or_true, hrow, hgone, ← hrow,
      decide_eq_true (by omega : row % 4 < slot + 1), Bool.and_true]
  · rw [decide_eq_false hrow, Bool.or_false, State.cleared, State.cleared]
    cases hg : s.gone a row with
    | false => rfl
    | true =>
      have hstation : row / 4 + 1 = a := by
        simp only [State.gone, Bool.and_eq_true, decide_eq_true_eq] at hg
        exact hg.1
      have hne : row % 4 ≠ slot := fun hmod => hrow ((eq_rowOf_iff ha hslot row).2 ⟨hstation, hmod⟩)
      exact congrArg _ (decide_eq_decide.2 (by omega))

theorem State.cleared_succ_of_kept {s : State} {a slot : Nat} (ha : 1 ≤ a) (hslot : slot < 4)
    (hgone : s.gone a (rowOf a slot) = false) : s.cleared a (slot + 1) = s.cleared a slot := by
  funext row
  rw [State.cleared, State.cleared]
  cases hg : s.gone a row with
  | false => rfl
  | true =>
    have hstation : row / 4 + 1 = a := by
      simp only [State.gone, Bool.and_eq_true, decide_eq_true_eq] at hg
      exact hg.1
    have hne : row % 4 ≠ slot := fun hmod => by
      rw [(eq_rowOf_iff ha hslot row).2 ⟨hstation, hmod⟩, hgone] at hg
      exact Bool.false_ne_true hg
    exact congrArg _ (decide_eq_decide.2 (by omega))

theorem State.cleared_self {s : State} {a slot : Nat} (ha : 1 ≤ a) (hslot : slot < 4) :
    s.cleared a slot (rowOf a slot) = false := by
  have hmod := ((eq_rowOf_iff ha hslot _).1 rfl).2
  rw [State.cleared, hmod, decide_eq_false (Nat.lt_irrefl slot), Bool.and_false]

/-- The rows cleared are those of the station no later than the slot's. -/
theorem State.cleared_succ_iff {s : State} {a slot : Nat} (ha : 1 ≤ a) (row : Nat) :
    s.cleared a (slot + 1) row = (s.gone a row && row ≤ rowOf a slot) := by
  rw [State.cleared]
  cases hg : s.gone a row with
  | false => rfl
  | true =>
    have hstation : row / 4 + 1 = a := by
      simp only [State.gone, Bool.and_eq_true, decide_eq_true_eq] at hg
      exact hg.1
    refine congrArg _ (decide_eq_decide.2 ?_)
    unfold rowOf
    omega

/-! ### The notices of an unload -/

/-- The row's is the last PLANNED stop of a HANDED ticket when the rows up to it are out (R105). -/
def Ticket.lastOut (k : Ticket) (gone : Nat → Bool) (row : Nat) : Bool :=
  k.state = .handed && gone row && (k.stops.any fun p => p.row = row && p.status = .planned) &&
    k.stops.all fun p => p.status != .planned || (gone p.row && p.row ≤ row)

/-- TICKET COMPLETE, where the row's stop is the last of the slot's ticket (R105). -/
def State.toldLast (s : State) (a : Nat) (u : State) (row n : Nat) : State :=
  if (s.ticket n).lastOut (s.gone a) row then
    u.raise .ticketComplete n (be16 (s.ticket n).number ++
      [octet (((s.ticket n).emptied (s.gone a)).stops.countP fun p => p.status = .done),
        octet (((s.ticket n).emptied (s.gone a)).stops.countP fun p => p.status = .skipped)])
  else u

/-- The notices of the unload of some of a station's slots, in row order (R105). -/
def State.toldUnload (s : State) (a slots : Nat) : State :=
  (List.range slots).foldl (fun u slot =>
    (List.range 16).foldl (fun u n => s.toldLast a u (rowOf a slot) n) u) s

theorem State.toldUnload_succ (s : State) (a slot : Nat) : s.toldUnload a (slot + 1) =
    (List.range 16).foldl (fun u n => s.toldLast a u (rowOf a slot) n) (s.toldUnload a slot) := by
  rw [State.toldUnload, List.range_succ (n := slot), List.foldl_append]
  rfl

theorem Ticket.lastOut_iff {k : Ticket} {gone : Nat → Bool} {row : Nat} : k.lastOut gone row = true ↔
    k.state = .handed ∧ gone row = true ∧ (∃ p ∈ k.stops, p.row = row ∧ p.status = .planned) ∧
      ∀ p ∈ k.stops, p.status = .planned → (gone p.row && p.row ≤ row) = true := by
  simp [Ticket.lastOut, and_assoc, imp_iff_not_or]

theorem foldl_unchanged {α β : Type} {f : β → α → β} {l : List α} {x : β} (h : ∀ a ∈ l, f x a = x) : l.foldl f x = x := by
  induction l with
  | nil => rfl
  | cons a l ih =>
    rw [List.foldl_cons, h a List.mem_cons_self]
    exact ih fun b hb => h b (List.mem_cons_of_mem _ hb)

/-- A fold in which one element alone does anything. -/
theorem foldl_only {α β : Type} {f : β → α → β} {l : List α} (hl : l.Nodup) {a : α} (ha : a ∈ l)
    (h : ∀ x, ∀ b ∈ l, b ≠ a → f x b = x) (x : β) : l.foldl f x = f x a := by
  obtain ⟨front, behind, rfl⟩ := List.append_of_mem ha
  obtain ⟨-, hbehind, hdisjoint⟩ := List.nodup_append.1 hl
  rw [List.foldl_append, List.foldl_cons, foldl_unchanged fun b hb => h x b (List.mem_append_left _ hb) fun hba =>
    hdisjoint b hb a List.mem_cons_self hba]
  exact foldl_unchanged fun b hb => h _ b (List.mem_append_right _ (List.mem_cons_of_mem _ hb)) fun hba =>
    (List.nodup_cons.1 hbehind).1 (hba ▸ hb)

/-- The slot taken for a row's is the one that plans it (R96). -/
theorem State.RowDispatched.planned_iff {s : State} {row : Nat} {opened : Prop} (h : s.RowDispatched opened row)
    {n : Nat} : n < 16 ∧ (s.ticket n).planned row ≠ 0 ↔ s.assignedSlot row = some n := by
  obtain ⟨hsome, hnone⟩ := h.assignedSlot
  refine ⟨fun ⟨hn, hplanned⟩ => ?_, hsome n⟩
  cases hslot : s.assignedSlot row with
  | none => exact absurd (hnone hslot n hn) hplanned
  | some m =>
    obtain ⟨hm, hm'⟩ := hsome m hslot
    rw [h.oneSlot m n hm hn hm' hplanned]

/-! ### The Dispatch Unit within an unload -/

/-- The Dispatch Unit when the unload of a station has come to some of its slots (R105). -/
structure State.RingUnloading (s : State) (a slots : Nat) (t : State) : Prop where
  dispatched : t.Dispatched .within
  ticket : ∀ n, t.ticket n =
    if n < 16 ∧ ((s.ticket n).state = .opened ∨ (s.ticket n).state = .handed) then
      (s.ticket n).emptied (s.cleared a slots)
    else s.ticket n
  reports : (∀ d ∈ s.deposits, rowStation d.row = a → (s.cardRow d.cardRow).bad = false) →
    (s.toldUnload a slots).ReportsAlike t

theorem State.RingUnloading.nil {s : State} (h : s.dispatchLaw) (a : Nat) : s.RingUnloading a 0 s where
  dispatched := (State.dispatchLaw_iff.1 h).congr (fun _ => rfl) rfl (fun _ _ _ => rfl) nofun
  ticket n := by
    rw [State.cleared_zero, Ticket.emptied_none, ite_self]
  reports _ := ⟨rfl, rfl, rfl, rfl⟩

section RingUnloading

variable {s t : State} {a slot : Nat} (h : s.RingUnloading a slot t)

include h

/-- The stop of a row not come to is PLANNED by a ticket as it was before the unload. -/
theorem State.RingUnloading.planned_of_stop (ha : 1 ≤ a) (hslot : slot < 4) {n : Nat} (hn : n < 16)
    (hlive : (s.ticket n).state = .opened ∨ (s.ticket n).state = .handed) :
    t.assignedSlot (rowOf a slot) = some n ↔
      ∃ p ∈ (s.ticket n).stops, p.row = rowOf a slot ∧ p.status = .planned := by
  rw [← (h.dispatched.2 (rowOf a slot)).planned_iff, and_iff_right hn, h.ticket, if_pos ⟨hn, hlive⟩]
  exact Ticket.planned_emptied hlive (State.cleared_self ha hslot)

/-- The row's slot holds a live ticket that plans it once (R96). -/
theorem State.RingUnloading.planned_once {n : Nat} (hassigned : t.assignedSlot (rowOf a slot) = some n) :
    n < 16 ∧ ((s.ticket n).state = .opened ∨ (s.ticket n).state = .handed) ∧
      ((s.ticket n).emptied (s.cleared a slot)).planned (rowOf a slot) = 1 := by
  have hrow := h.dispatched.2 (rowOf a slot)
  obtain ⟨hn, hplanned⟩ := hrow.planned_iff.2 hassigned
  have hone : (t.ticket n).planned (rowOf a slot) = 1 :=
    Nat.le_antisymm (hrow.once n hn) (Nat.one_le_iff_ne_zero.2 hplanned)
  rw [h.ticket] at hone
  split_ifs at hone with hlive
  · exact ⟨hn, hlive.2, hone⟩
  · by_cases hlive' : (s.ticket n).state = .opened ∨ (s.ticket n).state = .handed
    · exact absurd ⟨hn, hlive'⟩ hlive
    · rw [Ticket.planned_of_not_live hlive'] at hone
      exact absurd hone (by decide)

/-- A slot that is not the row's raises nothing at its turn. -/
theorem State.RingUnloading.toldLast_other (ha : 1 ≤ a) (hslot : slot < 4) {n : Nat} (hn : n < 16)
    (hother : t.assignedSlot (rowOf a slot) ≠ some n) (u : State) : s.toldLast a u (rowOf a slot) n = u := by
  refine if_neg fun hlast => hother ?_
  obtain ⟨hhanded, -, hstop, -⟩ := Ticket.lastOut_iff.1 hlast
  exact (h.planned_of_stop ha hslot hn (Or.inr hhanded)).2 hstop

/-- The row's slot raises at its turn what the end of its stop raises (R105). -/
theorem State.RingUnloading.toldLast_own (ha : 1 ≤ a) (hslot : slot < 4) (hgone : s.gone a (rowOf a slot) = true)
    {n : Nat} (hassigned : t.assignedSlot (rowOf a slot) = some n) {u : State} (hu : u.ReportsAlike t) :
    (s.toldLast a u (rowOf a slot) n).ReportsAlike (t.toldStopEnd (rowOf a slot) n .skipped none) := by
  obtain ⟨hn, hlive, hone⟩ := h.planned_once hassigned
  have hticket : t.ticket n = (s.ticket n).emptied (s.cleared a slot) := (h.ticket n).trans (if_pos ⟨hn, hlive⟩)
  have hself := State.cleared_self (s := s) ha hslot
  have hstop := (Ticket.planned_emptied hlive hself).1 (hone ▸ Nat.one_ne_zero)
  have hout (r : Nat) : (s.cleared a slot r || r = rowOf a slot) = (s.gone a r && r ≤ rowOf a slot) := by
    rw [← State.cleared_succ_iff ha, State.cleared_succ ha hslot hgone]
  have hcompletes := Ticket.emptied_completesAt hself hone
  simp only [hout] at hcompletes
  unfold State.toldLast State.toldStopEnd
  dsimp only
  rw [hticket]
  by_cases hlast : (s.ticket n).lastOut (s.gone a) (rowOf a slot) = true
  · obtain ⟨hhanded, -, -, hall⟩ := Ticket.lastOut_iff.1 hlast
    have hstops : endStop (rowOf a slot) .skipped none ((s.ticket n).emptied (s.cleared a slot)).stops =
        ((s.ticket n).emptied (s.gone a)).stops := by
      rw [Ticket.emptied_endStop hself hone]
      refine congrArg Ticket.stops (Ticket.emptied_congr (out := s.gone a) fun p hp hplanned => ?_ :
        (s.ticket n).emptied _ = _)
      have htrue := hall p hp hplanned
      rw [hout, htrue]
      simp only [Bool.and_eq_true] at htrue
      exact htrue.1.symm
    rw [if_pos hlast, if_pos (hcompletes.2 ⟨hhanded, hall⟩), hstops]
    exact hu.raise ..
  · rw [if_neg hlast, if_neg fun hc => hlast (Ticket.lastOut_iff.2 ⟨(hcompletes.1 hc).1, hgone, hstop, (hcompletes.1 hc).2⟩)]
    exact hu

theorem State.RingUnloading.releases (es : List Deposit)
    (hgood : (∀ d ∈ s.deposits, rowStation d.row = a → (s.cardRow d.cardRow).bad = false) →
      ∀ d ∈ es, (t.cardRow d.cardRow).bad = false)
    (hframe : (es.foldl State.release t).seconds = t.seconds ∧ (es.foldl State.release t).params = t.params) :
    s.RingUnloading a slot (es.foldl State.release t) where
  dispatched := h.dispatched.releases es
  ticket n := (State.releases_ticket es t n).trans (h.ticket n)
  reports hquiet := by
    obtain ⟨hnotices, hcapture⟩ := State.releases_quiet (hgood hquiet)
    exact (h.reports hquiet).trans ⟨hnotices, hcapture, hframe.1, hframe.2⟩

/-- The row of the next slot is none that is cleared. -/
theorem State.RingUnloading.kept (ha : 1 ≤ a) (hslot : slot < 4) (hgone : s.gone a (rowOf a slot) = false) :
    s.RingUnloading a (slot + 1) t where
  dispatched := h.dispatched
  ticket n := by
    rw [State.cleared_succ_of_kept ha hslot hgone]
    exact h.ticket n
  reports hquiet := by
    have hnothing (u : State) (n : Nat) : s.toldLast a u (rowOf a slot) n = u := if_neg fun hlast => by
      obtain ⟨-, hout, -⟩ := Ticket.lastOut_iff.1 hlast
      rw [hgone] at hout
      exact Bool.false_ne_true hout
    rw [State.toldUnload_succ, foldl_unchanged fun n _ => hnothing _ n]
    exact h.reports hquiet

/-- The row of the next slot is cleared (R10, R105). -/
theorem State.RingUnloading.discharge (ha : 1 ≤ a) (hslot : slot < 4) (hgone : s.gone a (rowOf a slot) = true) :
    s.RingUnloading a (slot + 1) (t.discharge (rowOf a slot) (Row.good Container.unloaded)) where
  dispatched := h.dispatched.discharge rfl rfl fun _ _ => rfl
  ticket n := by
    have hself := State.cleared_self (s := s) ha hslot
    rw [State.discharge_ticket, State.cleared_succ ha hslot hgone]
    by_cases hassigned : t.assignedSlot (rowOf a slot) = some n
    · obtain ⟨hn, hlive, hone⟩ := h.planned_once hassigned
      rw [if_pos hassigned, if_pos ⟨hn, hlive⟩, h.ticket, if_pos ⟨hn, hlive⟩]
      exact Ticket.emptied_stopEnded hlive hself hone
    · rw [if_neg hassigned, h.ticket]
      by_cases hlive : n < 16 ∧ ((s.ticket n).state = .opened ∨ (s.ticket n).state = .handed)
      · rw [if_pos hlive, if_pos hlive]
        refine (Ticket.emptied_of_unplanned hlive.2 hself ?_).symm
        by_contra hplanned
        refine hassigned ((h.dispatched.2 _).planned_iff.1 ⟨hlive.1, ?_⟩)
        rwa [h.ticket, if_pos hlive]
      · rw [if_neg hlive, if_neg hlive]
  reports hquiet := by
    have halike := h.reports hquiet
    have hframe := t.discharge_restored (rowOf a slot) (Row.good Container.unloaded)
    rw [State.toldUnload_succ]
    cases hassigned : t.assignedSlot (rowOf a slot) with
    | none =>
      rw [foldl_unchanged fun n hn => h.toldLast_other ha hslot (List.mem_range.1 hn) (hassigned ▸ nofun) _]
      refine halike.trans ⟨?_, (congrArg State.capture hframe :), (congrArg State.seconds hframe :),
        (congrArg State.params hframe :)⟩
      exact (congrArg (fun o => (t.skipStop (rowOf a slot) o).notices) hassigned :)
    | some n =>
      rw [foldl_only List.nodup_range (List.mem_range.2 (h.planned_once hassigned).1) fun x m hm hne =>
        h.toldLast_other ha hslot (List.mem_range.1 hm) (fun he => hne (Option.some.inj (he.symm.trans hassigned))) x]
      refine (h.toldLast_own ha hslot hgone hassigned halike).trans ?_
      have htold := t.toldStopEnd_restored (rowOf a slot) n .skipped none
      refine ⟨?_, (congrArg State.capture hframe :).trans (congrArg State.capture htold :).symm,
        (congrArg State.seconds hframe :).trans (congrArg State.seconds htold :).symm,
        (congrArg State.params hframe :).trans (congrArg State.params htold :).symm⟩
      exact (congrArg (fun o => (t.skipStop (rowOf a slot) o).notices) hassigned :).trans (t.leavePlanned_notices ..)

end RingUnloading

end Sys2Proof.Machine
end

section
/-! PROOF. The unload of a station's containers (R10, R81, R105). -/

namespace Sys2Proof.Machine

/-- The unload of a station, when it has come to some of its slots: the rows, the list and the deposits; no deposit is
left at a slot come to; and the Dispatch Unit, where its laws held (R10, R81, R105). -/
def State.UnloadedTo (s : State) (a slots : Nat) (t : State) : Prop :=
  (∃ ds, s.Unloading a (s.cleared a slots) ds t) ∧
    (s.depositLaw → ∀ d ∈ t.deposits, rowStation d.row = a → slots ≤ d.row % 4) ∧
    (s.dispatchLaw → s.RingUnloading a slots t)

theorem State.UnloadedTo.nil (s : State) (a : Nat) : s.UnloadedTo a 0 s := by
  refine ⟨⟨[], ?_⟩, fun _ d _ _ => Nat.zero_le _, fun h => .nil h a⟩
  rw [State.cleared_zero]
  exact .nil s a

/-- A row's forced unload: its releases, and then its discharge, where it is loaded or faulty (R10). -/
theorem State.forceUnload_eq (s : State) (row : Nat) : s.forceUnload row =
    if ((s.releaseUpTo row).container row).loaded || ((s.releaseUpTo row).containerRow row).bad then
      (s.releaseUpTo row).discharge row (Row.good Container.unloaded)
    else s.releaseUpTo row := by
  unfold State.forceUnload
  dsimp only
  rw [State.clearContainer_eq]
  rfl

section UnloadedTo

variable {s t : State} {a slot : Nat} (ha : 1 ≤ a) (hslot : slot < 4)

include ha hslot

/-- The releases at the turn of a slot: no deposit is left there (R81). -/
theorem State.UnloadedTo.releaseUpTo (h : s.UnloadedTo a slot t) :
    s.UnloadedTo a slot (t.releaseUpTo (rowOf a slot)) ∧
      (s.depositLaw → ∀ d ∈ (t.releaseUpTo (rowOf a slot)).deposits, d.row ≠ rowOf a slot) := by
  obtain ⟨⟨ds, hunloading⟩, hempty, hring⟩ := h
  obtain ⟨es, hes, hstation, hown, heq⟩ := t.releaseUpTo_releases (rowOf a slot)
  have hrow : rowStation (rowOf a slot) = a := ((eq_rowOf_iff ha hslot _).1 rfl).1
  rw [hrow] at hstation
  have hnext := hunloading.releases es hes hstation
  have hsub : ∀ d ∈ (es.foldl State.release t).deposits, d ∈ t.deposits :=
    fun d hd => (State.releases_sublist es t).subset hd
  have hframe (u : State) (hu : s.Unloading a (s.cleared a slot) (ds ++ es) u) :
      u.seconds = t.seconds ∧ u.params = t.params :=
    ⟨(congrArg State.seconds hu.restored :).trans (congrArg State.seconds hunloading.restored :).symm,
      (congrArg State.params hu.restored :).trans (congrArg State.params hunloading.restored :).symm⟩
  rw [heq]
  refine ⟨⟨⟨_, hnext⟩, fun hlaw d hd => hempty hlaw d (hsub d hd), fun hlaw => ?_⟩, fun hlaw d hd hdrow => ?_⟩
  · refine (hring hlaw).releases es (fun hquiet d hd => ?_) (hframe _ hnext)
    exact hunloading.good _ (hquiet d (hunloading.deposits.subset (hes.subset hd)) (hstation d hd))
  · cases hat : t.depositAt (rowOf a slot) with
    | none => exact List.find?_eq_none.1 hat d (hsub d hd) (decide_eq_true hdrow)
    | some x =>
      refine hnext.emptied hlaw (List.mem_map.2 ⟨x, List.mem_append_right _ (hown x hat), ?_⟩) d hd hdrow
      exact State.depositAt_row hat

/-- The forced unload of the next slot's row (R10). -/
theorem State.UnloadedTo.forceUnload (h : s.UnloadedTo a slot t) :
    s.UnloadedTo a (slot + 1) (t.forceUnload (rowOf a slot)) := by
  obtain ⟨⟨⟨ds, hunloading⟩, hempty, hring⟩, hnone⟩ := h.releaseUpTo ha hslot
  have hself := State.cleared_self (s := s) ha hslot
  have hrow := hunloading.containerRow (rowOf a slot)
  rw [hself, if_neg Bool.false_ne_true] at hrow
  have hstation : rowOf a slot / 4 + 1 = a := ((eq_rowOf_iff ha hslot _).1 rfl).1
  have hgone : s.gone a (rowOf a slot) = (((t.releaseUpTo (rowOf a slot)).container (rowOf a slot)).loaded ||
      ((t.releaseUpTo (rowOf a slot)).containerRow (rowOf a slot)).bad) := by
    rw [State.gone, decide_eq_true hstation, Bool.true_and, State.container, State.container, hrow]
    rfl
  rw [State.forceUnload_eq, ← hgone]
  generalize t.releaseUpTo (rowOf a slot) = u at *
  have hleft (hlaw : s.depositLaw) (d : Deposit) (hd : d ∈ u.deposits) (hdstation : rowStation d.row = a) :
      slot + 1 ≤ d.row % 4 := by
    have hne : d.row % 4 ≠ slot := fun hmod => hnone hlaw d hd ((eq_rowOf_iff ha hslot _).2 ⟨hdstation, hmod⟩)
    have hle := hempty hlaw d hd hdstation
    omega
  cases hout : s.gone a (rowOf a slot) with
  | false =>
    rw [if_neg Bool.false_ne_true]
    have hsame := State.cleared_succ_of_kept ha hslot hout
    refine ⟨⟨ds, hsame.symm ▸ hunloading⟩, hleft, fun hlaw => ?_⟩
    exact (hring hlaw).kept ha hslot hout
  | true =>
    rw [if_pos rfl]
    refine ⟨⟨ds, ?_⟩, fun hlaw d hd => ?_, fun hlaw => (hring hlaw).discharge ha hslot hout⟩
    · rw [State.cleared_succ ha hslot hout]
      exact hunloading.discharge _
    · rw [(congrArg State.deposits (u.discharge_restored (rowOf a slot) (Row.good Container.unloaded)) :)] at hd
      exact hleft hlaw d hd

end UnloadedTo

/-- All four slots of a station, in row order (R10). -/
theorem State.unloadStation_unloadedTo {s : State} {a : Nat} (ha : 1 ≤ a) : s.UnloadedTo a 4 (s.unloadStation a) :=
  ((((State.UnloadedTo.nil s a).forceUnload ha (by decide)).forceUnload ha (by decide)).forceUnload ha
    (by decide)).forceUnload ha (by decide)

/-- A row that is not out, and whose deposit, if any, is not released, stays (R10). -/
theorem State.Unloading.row_kept {s t : State} {a row : Nat} {out : Nat → Bool} {ds : List Deposit}
    (h : s.Unloading a out ds t) (hout : out row = false) (hnone : ∀ d ∈ ds, d.row ≠ row) :
    t.containerRow row = s.containerRow row := by
  have hany : (ds.any fun d => d.row = row) = false := List.any_eq_false.2 fun d hd => by simpa using hnone d hd
  rw [h.containerRow, hout, if_neg Bool.false_ne_true, hany, Bool.not_false, Bool.and_true]
  rfl

/-- The unload of a station is what R10 makes of its containers (R10, R81, R105). -/
theorem State.unloadStation_unloads {s : State} {a : Nat} (ha : 1 ≤ a) : s.UnloadsStation a (s.unloadStation a) := by
  obtain ⟨⟨ds, hunloading⟩, hempty, hring⟩ := State.unloadStation_unloadedTo (s := s) ha
  rw [State.cleared_four] at hunloading
  generalize s.unloadStation a = t at *
  have hall (hlaw : s.depositLaw) (d : Deposit) (hd : d ∈ t.deposits) : rowStation d.row ≠ a := fun hstation =>
    absurd (hempty hlaw d hd hstation) (Nat.not_le.2 (Nat.mod_lt _ (by decide)))
  have hheld : (∀ d ∈ s.deposits.filter fun d => d.row / 4 + 1 = a, (s.cardRow d.cardRow).bad = false) →
      ∀ d ∈ s.deposits, rowStation d.row = a → (s.cardRow d.cardRow).bad = false :=
    fun hquiet d hd hstation => hquiet d (List.mem_filter.2 ⟨hd, decide_eq_true hstation⟩)
  refine ⟨fun row hgone => ?_, fun row hother => ?_, fun row hgone hnone => ?_, hunloading.dispatch,
    fun hlaw => ⟨hunloading.deposits_left hlaw (hall hlaw), fun row => ?_⟩, fun hlaw => ⟨fun n => ?_, fun hquiet => ?_⟩,
    fun hquiet => hunloading.capture (hheld hquiet), hunloading.restored⟩
  · have hrow := hunloading.containerRow row
    rwa [if_pos (by exact hgone)] at hrow
  · refine hunloading.row_kept ?_ fun d hd hrow => hother (hrow ▸ (hunloading.released d hd).2)
    rw [State.gone, decide_eq_false hother, Bool.false_and]
  · refine hunloading.row_kept hgone fun d hd hrow => ?_
    exact List.find?_eq_none.1 hnone d (hunloading.released d hd).1 (decide_eq_true hrow)
  · obtain ⟨v, hv, hdeposits, hcards⟩ := hunloading.accounts hlaw
    have hcard := hv.cardRow row
    rw [hdeposits, hunloading.deposits_left hlaw (hall hlaw), State.cardRow, hcards,
      ← hunloading.any_released hlaw (hall hlaw)] at hcard
    exact hcard
  · have hticket := (hring hlaw).ticket n
    rw [State.cleared_four] at hticket
    exact hticket
  · exact ((hring hlaw).reports (hheld hquiet)).notices

end Sys2Proof.Machine
end

section
/-! PROOF. LOAD STATION and REMOVE STATION (R142, R143). -/

namespace Sys2Proof.Machine

/-! ### LOAD STATION -/

theorem exec_loadStation_of_carries {s : State} {tag : Octet} {args : List Octet} {r : Answered}
    (h : s.Carries tag (0x01 :: args)) (hr : loadStationRequest args s = r) (hsettled : r.state.Settled) :
    exec .loadStation s = .next (r.state.replied tag 0x01 r.result r.data) :=
  congrArg _ (State.serve_answers_settled (f := loadStationRequest) h rfl hr hsettled)

/-- The ranges of LOAD STATION's octets (R142). -/
abbrev LoadStationFits (addr count ih il dh dl : Octet) : Prop :=
  1 ≤ addr.toNat ∧ addr.toNat ≤ 64 ∧ 1 ≤ count.toNat ∧ count.toNat ≤ 4 ∧
    60 ≤ u16 ih il ∧ u16 ih il ≤ 3600 ∧ 500 ≤ u16 dh dl ∧ u16 dh dl ≤ 5000

theorem loadStationRequest_eq (addr count ih il dh dl : Octet) (s : State) :
    loadStationRequest [addr, count, ih, il, dh, dl] s =
      if LoadStationFits addr count ih il dh dl then
        (s.readStation addr.toNat).loadStation addr.toNat count.toNat (u16 ih il) (u16 dh dl)
      else refused s .range := by
  simp only [loadStationRequest, isStation, Bool.and_eq_true, decide_eq_true_eq, and_assoc]

/-- The entry that LOAD STATION writes (R142). -/
theorem Station.load_eq (e : Station) (P : Prop) [Decidable P] (count interval deadline : Nat) :
    e.load (decide P) count interval deadline =
      { loaded := true, count := count, sampleInterval := interval, deadline := deadline,
        state := if P then .cutOff else .unconfigured, misses := 0, attempts := 0, awaiting := false,
        lastAnnounce := if e.loaded then e.lastAnnounce else none,
        errors := if e.loaded then e.errors else 0,
        lateAnswers := if e.loaded then e.lateAnswers else 0,
        discarded := if e.loaded then e.discarded else 0 } := by
  have hstate : (if decide P = true then StationState.cutOff else .unconfigured) =
      if P then .cutOff else .unconfigured := by simp only [decide_eq_true_eq]
  rw [Station.load, hstate]
  cases e.loaded <;> rfl

/-- A slot at or beyond the count that holds a loaded container (R142). -/
theorem State.loadedBeyond_iff {s : State} {addr count : Nat} (h : 1 ≤ addr) : s.loadedBeyond addr count = true ↔
    ∃ slot, count ≤ slot ∧ slot < 4 ∧ (s.container (rowOf addr slot)).loaded = true := by
  have hslot (slot : Nat) (hlt : slot < 4) : rowSlot (rowOf addr slot) = slot := ((eq_rowOf_iff h hlt _).1 rfl).2
  have hrows : stationRows addr = (List.range 4).map (rowOf addr) := rfl
  rw [State.loadedBeyond, hrows, List.any_map, List.any_eq_true]
  constructor
  · rintro ⟨slot, hmem, hloaded⟩
    have hlt := List.mem_range.1 hmem
    simp only [Function.comp_apply, hslot slot hlt, Bool.and_eq_true, decide_eq_true_eq] at hloaded
    exact ⟨slot, hloaded.2, hlt, hloaded.1⟩
  · rintro ⟨slot, hle, hlt, hloaded⟩
    refine ⟨slot, List.mem_range.2 hlt, ?_⟩
    simp only [Function.comp_apply, hslot slot hlt, hloaded, decide_eq_true hle, Bool.and_self]

/-- A send turn falls due on an idle segment; one that is DOWN is not idle (R135). -/
theorem State.turnDueUnlessDown {s u : State} {g : Seg} (h : (u.seg g).state = (s.seg g).state) :
    (if (s.seg g).state = .down then u else u.turnDueIfIdle g) = u.editSeg g fun x =>
      { x with turnDue := x.turnDue || (x.state = .up && x.window.isNone && x.pollOut.isNone) } := by
  by_cases hdown : (s.seg g).state = .down
  · rw [if_pos hdown]
    have hup : (u.seg g).state ≠ .up := by
      rw [h, hdown]
      decide
    refine (State.editSeg_of_eq ?_).symm
    simp only [hup, decide_false, Bool.false_and, Bool.or_false]
  · rw [if_neg hdown, State.turnDueIfIdle_eq]

/-- The station leaves the configure list, its entry is written, and a send turn falls due on an idle segment (R142,
R156). -/
theorem State.rewriteStation_eq (s : State) (a : Nat) (r : Row Station) :
    (if (s.seg (segOf a)).state = .down then (s.leaveConfigure a).putStation a r
      else ((s.leaveConfigure a).putStation a r).turnDueIfIdle (segOf a)) =
    ((s.leaveConfigure a).editSeg (segOf a) fun x =>
      { x with turnDue := x.turnDue || (x.state = .up && x.window.isNone && x.pollOut.isNone) }).putStation a r := by
  rw [State.editSeg_putStation]
  refine State.turnDueUnlessDown ?_
  rw [State.putStation_seg, State.leaveConfigure, State.seg_editSeg_same]

/-- LOAD STATION on an entry it may write (R142). -/
theorem State.loadStation_of_free {s : State} {a count : Nat}
    (h : ¬ ((s.station a).loaded = true ∧ s.loadedBeyond a count = true)) (interval deadline : Nat) :
    s.loadStation a count interval deadline =
      accepted (((s.leaveConfigure a).editSeg (segOf a) fun x =>
        { x with turnDue := x.turnDue || (x.state = .up && x.window.isNone && x.pollOut.isNone) }).putStation a
          (Row.good ((s.station a).load ((s.seg (segOf a)).state = .down) count interval deadline)))
        [octet a, ((s.station a).load ((s.seg (segOf a)).state = .down) count interval deadline).state.code] := by
  have hnot : ¬ ((s.station a).loaded && s.loadedBeyond a count) = true := by rwa [Bool.and_eq_true]
  have hstation : (s.leaveConfigure a).station a = s.station a := State.editSeg_station ..
  rw [State.loadStation, if_neg hnot, ← State.rewriteStation_eq]
  simp only [hstation]

/-- With the old Station Table put back, an entry written leaves no trace in an answered state. -/
theorem State.putStation_replied_restored (s : State) (g : Seg) (f : Segment → Segment) (a : Nat) (r : Row Station)
    (tag code : Octet) (result : ResultCode) (data : List Octet) :
    { ((s.editSeg g f).putStation a r).replied tag code result data with stations := s.stations } =
      (s.editSeg g f).replied tag code result data := by cases g <;> rfl

/-! ### REMOVE STATION -/

theorem exec_removeStation_of_carries {s : State} {tag : Octet} {args : List Octet} {r : Answered}
    (h : s.Carries tag (0x02 :: args)) (hr : removeStationRequest args s = r) (hsettled : r.state.Settled) :
    exec .removeStation s = .next (r.state.replied tag 0x02 r.result r.data) :=
  congrArg _ (State.serve_answers_settled (f := removeStationRequest) h rfl hr hsettled)

theorem removeStationRequest_of_good {addr : Octet} {s : State} (ha : 1 ≤ addr.toNat ∧ addr.toNat ≤ 64)
    (hgood : (s.stationRow addr.toNat).bad = false) :
    removeStationRequest [addr] s = s.removeStation addr.toNat := by
  simp only [removeStationRequest, isStation_iff.2 ha, if_true, State.readStation_of_good hgood]

/-- The stations after an unload are those before it. -/
theorem State.unloadStation_stations {s : State} {a : Nat} (ha : 1 ≤ a) :
    (s.unloadStation a).stations = s.stations := by
  obtain ⟨⟨ds, h⟩, -, -⟩ := State.unloadStation_unloadedTo (s := s) ha
  exact (congrArg State.stations h.restored :)

theorem State.unloadStation_passDue {s : State} {a : Nat} (ha : 1 ≤ a) :
    (s.unloadStation a).dispatch.passDue = s.dispatch.passDue := by
  obtain ⟨⟨ds, h⟩, -, -⟩ := State.unloadStation_unloadedTo (s := s) ha
  exact (congrArg Dispatch.passDue h.dispatch :)

/-- Settles O39: LOAD STATION writes one entry, and REMOVE STATION is the unload of the station's containers. -/
theorem stationsLoadedAndRemoved : Obligations.StationsLoadedAndRemoved := by
  unfold Obligations.StationsLoadedAndRemoved
  refine ⟨fun s tag addr count ih il dh dl hs h => ?load, fun s tag addr hs h => ?remove⟩
  case load =>
    have hrequest := loadStationRequest_eq addr count ih il dh dl s
    refine ⟨fun hfits => ?_, fun hfits hgood hloaded hbeyond => ?_, fun hfits hgood hfree => ?_⟩
    · rw [if_neg hfits] at hrequest
      exact exec_loadStation_of_carries h hrequest hs
    · rw [if_pos hfits, State.readStation_of_good hgood, State.loadStation, hloaded,
        (State.loadedBeyond_iff hfits.1).2 hbeyond] at hrequest
      exact exec_loadStation_of_carries h hrequest hs
    · have hfree' : ¬ ((s.station addr.toNat).loaded = true ∧ s.loadedBeyond addr.toNat count.toNat = true) :=
        fun hc => hfree ⟨hc.1, (State.loadedBeyond_iff hfits.1).1 hc.2⟩
      rw [if_pos hfits, State.readStation_of_good hgood, State.loadStation_of_free hfree', octet_toNat] at hrequest
      refine ⟨_, exec_loadStation_of_carries h hrequest ?_, fun a => ?_, ?_⟩
      · exact State.editSeg_settled (State.editSeg_settled hs ..) ..
      · rw [State.replied_stationRow]
        refine (State.stationRow_putStation ..).trans ?_
        rw [State.editSeg_stationRow, State.leaveConfigure, State.editSeg_stationRow]
        rw [Station.load_eq]
        rfl
      · rw [State.leaveConfigure, State.editSeg_editSeg, Station.load_eq]
        exact State.putStation_replied_restored ..
  case remove =>
    refine ⟨fun hout => ?_, fun hlo hhi hgood hunloaded => ?_, fun hlo hhi hgood hloaded => ?_⟩
    · refine exec_removeStation_of_carries h (r := refused s .range) ?_ hs
      simp only [removeStationRequest, isStation_eq_false hout, Bool.false_eq_true, if_false]
    · have hrequest := removeStationRequest_of_good ⟨hlo, hhi⟩ hgood
      rw [State.removeStation, hunloaded] at hrequest
      exact exec_removeStation_of_carries h hrequest hs
    · have hrequest := removeStationRequest_of_good ⟨hlo, hhi⟩ hgood
      rw [State.removeStation, hloaded] at hrequest
      refine ⟨s.unloadStation addr.toNat, _, State.unloadStation_unloads hlo,
        exec_removeStation_of_carries h hrequest ?_, fun b => ?_, ?_⟩
      · exact State.editSeg_settled ((State.unloadStation_passDue hlo).trans hs) ..
      · have hrows (b : Nat) : (s.unloadStation addr.toNat).stationRow b = s.stationRow b := by
          rw [State.stationRow, State.unloadStation_stations hlo, State.stationRow]
        rw [State.replied_stationRow]
        refine (State.stationRow_putStation ..).trans ?_
        rw [State.leaveConfigure, State.editSeg_stationRow, hrows]
        rfl
      · rw [State.leaveConfigure, ← State.unloadStation_stations (s := s) hlo]
        exact State.putStation_replied_restored ..

end Sys2Proof.Machine
end

section
/-! PROOF. Checked reads of Station Entries and Container Entries ahead of a request (R156, R15): what a read leaves
alone, and that a second read finds nothing. -/

namespace Sys2Proof.Machine

/-! ### The read of a Station Entry -/

/-- An entry read as loaded, once it has been rebuilt (R156). -/
def Station.rebuilt (e : Station) (seg : SegState) : Station :=
  { e with state := if seg = .down then .cutOff else .unconfigured, misses := 0, attempts := 0, awaiting := false }

/-- A segment on which a send turn falls due where it is idle (R135). -/
def Segment.dueIfIdle (x : Segment) : Segment :=
  { x with turnDue := x.turnDue || (x.state = .up && x.window.isNone && x.pollOut.isNone) }

/-- A Station Entry that is read faulty, where it reads as loaded and where not (R156). -/
theorem State.readStation_of_bad {s : State} {a : Nat} (h : (s.stationRow a).bad = true) : s.readStation a =
    if (s.station a).loaded then
      (((s.tableFault .station a []).leaveConfigure a).editSeg (segOf a) Segment.dueIfIdle).putStation a
        (Row.good ((s.station a).rebuilt (s.seg (segOf a)).state))
    else (((s.tableFault .station a []).leaveConfigure a).putStation a (Row.good Station.cold)).unloadStation a := by
  have hstation : ((s.tableFault .station a []).leaveConfigure a).station a = s.station a := State.editSeg_station ..
  have hstate : (((s.tableFault .station a []).leaveConfigure a).seg (segOf a)).state = (s.seg (segOf a)).state := by
    rw [State.leaveConfigure, State.seg_editSeg_same, State.tableFault_seg]
  have hrewrite := (s.tableFault .station a []).rewriteStation_eq a
    (Row.good ((s.station a).rebuilt (s.seg (segOf a)).state))
  rw [State.tableFault_seg] at hrewrite
  rw [State.readStation, if_pos h]
  simp only [hstation, hstate]
  refine if_congr Iff.rfl ?_ rfl
  exact hrewrite

/-- A fault told, a segment edited and an entry written touch no more than that. -/
theorem State.rewritten_restored (s : State) (k : FaultTable) (row : Nat) (x : List Octet) (g : Seg)
    (f : Segment → Segment) (a : Nat) (r : Row Station) :
    { ((s.tableFault k row x).editSeg g f).putStation a r with
      notices := s.notices, capture := s.capture, stations := s.stations, segA := s.segA, segB := s.segB } = s := by
  cases g <;> rfl

/-- A state beside what a read of a Station Entry can touch (R156). -/
abbrev State.besideStation (s t : State) : State :=
  { t with containers := s.containers, dispatch := s.dispatch, deposits := s.deposits, tickets := s.tickets,
           cards := s.cards, notices := s.notices, capture := s.capture, stations := s.stations, segA := s.segA,
           segB := s.segB }

theorem State.besideStation_of_rewritten {s t : State} (h : { t with
    notices := s.notices, capture := s.capture, stations := s.stations, segA := s.segA, segB := s.segB } = s) :
    s.besideStation t = s :=
  (congrArg (fun u : State => { u with
    containers := s.containers, dispatch := s.dispatch, deposits := s.deposits, tickets := s.tickets
    cards := s.cards }) h :)

theorem State.besideStation_of_yields {s t u : State} (h : t.Yields u) : s.besideStation u = s.besideStation t :=
  (congrArg (fun w : State => s.besideStation w) h.outside :)

/-- What a read of a Station Entry leaves alone (R156). -/
theorem State.readStation_restored (s : State) (a : Nat) : s.besideStation (s.readStation a) = s := by
  cases hbad : (s.stationRow a).bad with
  | false => rw [State.readStation_of_good hbad]
  | true =>
    rw [State.readStation_of_bad hbad]
    split_ifs with hloaded
    · rw [State.leaveConfigure, State.editSeg_editSeg]
      exact State.besideStation_of_rewritten (s.rewritten_restored ..)
    · exact (State.besideStation_of_yields (State.Yields.unloadStation ..)).trans
        (State.besideStation_of_rewritten (s.rewritten_restored ..))

/-- The Station Entries once one is read (R156). -/
theorem State.readStation_stationRow (s : State) (a b : Nat) : (s.readStation a).stationRow b =
    if b = a ∧ (s.stationRow a).bad = true then
      Row.good (if (s.station a).loaded then (s.station a).rebuilt (s.seg (segOf a)).state else Station.cold)
    else s.stationRow b := by
  cases hbad : (s.stationRow a).bad with
  | false => rw [State.readStation_of_good hbad, if_neg (by simp)]
  | true =>
    have hput (f : Segment → Segment) (r : Row Station) :
        (((s.tableFault .station a []).editSeg (segOf a) f).putStation a r).stationRow b =
          if b = a then r else s.stationRow b := by
      rw [State.stationRow_putStation, State.editSeg_stationRow]
      rfl
    rw [State.readStation_of_bad hbad]
    simp only [and_true]
    cases (s.station a).loaded with
    | true =>
      rw [if_pos rfl, if_pos rfl, State.leaveConfigure, State.editSeg_editSeg, hput]
    | false =>
      have hyields := (State.Yields.unloadStation
        (((s.tableFault .station a []).leaveConfigure a).putStation a (Row.good Station.cold)) a).outside
      rw [if_neg Bool.false_ne_true, if_neg Bool.false_ne_true,
        State.stationRow, (congrArg State.stations hyields :)]
      exact hput _ _

/-- An entry that has been read reads good (R156). -/
theorem State.readStation_good (s : State) (a : Nat) : ((s.readStation a).stationRow a).bad = false := by
  rw [State.readStation_stationRow]
  cases hbad : (s.stationRow a).bad with
  | false => simpa using hbad
  | true =>
    rw [if_pos ⟨rfl, rfl⟩]
    rfl

theorem State.readStation_stationRow_of_ne (s : State) {a b : Nat} (h : b ≠ a) :
    (s.readStation a).stationRow b = s.stationRow b := by
  rw [State.readStation_stationRow, if_neg fun hc => h hc.1]

/-- A second read finds nothing. -/
theorem State.readStation_readStation (s : State) (a : Nat) : (s.readStation a).readStation a = s.readStation a :=
  State.readStation_of_good (s.readStation_good a)

theorem State.readStation_mgmt (s : State) (a : Nat) : (s.readStation a).mgmt = s.mgmt :=
  (congrArg State.mgmt (s.readStation_restored a) :)

theorem State.readStation_streamRow (s : State) (a k : Nat) : (s.readStation a).streamRow k = s.streamRow k :=
  (congrArg (fun t : State => t.streamRow k) (s.readStation_restored a) :)

/-- Entries that read good stay so while others are read. -/
theorem State.foldl_readStation_bad {s : State} {addrs : List Nat} {b : Nat}
    (h : (s.stationRow b).bad = false) : ((addrs.foldl State.readStation s).stationRow b).bad = false := by
  induction addrs generalizing s with
  | nil => exact h
  | cons a addrs ih =>
    refine ih ?_
    by_cases hb : b = a
    · rw [hb]
      exact s.readStation_good a
    · rwa [s.readStation_stationRow_of_ne hb]

/-- Entries that have been read read good. -/
theorem State.foldl_readStation_good {s : State} {addrs : List Nat} {b : Nat} (h : b ∈ addrs) :
    ((addrs.foldl State.readStation s).stationRow b).bad = false := by
  induction addrs generalizing s with
  | nil => nomatch h
  | cons a addrs ih =>
    rcases List.mem_cons.1 h with rfl | hb
    · exact State.foldl_readStation_bad (s := s.readStation b) (s.readStation_good b)
    · exact ih hb

theorem State.foldl_readStation_mgmt (addrs : List Nat) (s : State) :
    (addrs.foldl State.readStation s).mgmt = s.mgmt := by
  induction addrs generalizing s with
  | nil => rfl
  | cons a addrs ih => exact (ih _).trans (s.readStation_mgmt a)

/-- A second read of a segment finds nothing. -/
theorem State.readSegment_readSegment (s : State) (g : Seg) : (s.readSegment g).readSegment g = s.readSegment g :=
  State.readSegment_of_good fun _ ha => State.foldl_readStation_good ha

/-! ### The read of a Container Entry -/

/-- A second read finds nothing. -/
theorem State.readContainer_readContainer (s : State) (row : Nat) :
    (s.readContainer row).readContainer row = s.readContainer row :=
  State.readContainer_of_good (s.readContainer_good row)

theorem State.readContainer_mgmt (s : State) (row : Nat) : (s.readContainer row).mgmt = s.mgmt :=
  (congrArg State.mgmt (State.Yields.readContainer s row).outside :)

theorem State.readContainer_stationRow (s : State) (row a : Nat) :
    (s.readContainer row).stationRow a = s.stationRow a :=
  (congrArg (fun t : State => t.stationRow a) (State.Yields.readContainer s row).outside :)

/-! ### Requests that begin with a read -/

/-- Two states that carry a request alike serve it alike where it answers alike. -/
theorem State.serve_congr {s t : State} {tag c : Octet} {args : List Octet} (h : s.Carries tag (c :: args))
    (hmgmt : t.mgmt = s.mgmt) {mine : List Octet → Bool} (hm : mine args = true) {f : List Octet → State → Answered}
    (hf : f args s = f args t) : s.serve c mine f = t.serve c mine f := by
  have ht : t.Carries tag (c :: args) := by rw [State.Carries, hmgmt]; exact h
  rw [State.serve_of_carries f h hm, State.serve_of_carries f ht hm, hf]

end Sys2Proof.Machine
end

section
/-! PROOF. Faulty reads of requests (R15, R16, R57, R86, R89, R156). -/

namespace Sys2Proof.Machine

/-! ### Card Rows -/

/-- A Card Row that is read faulty is rebuilt (R57). -/
theorem State.repairCard_of_bad {s : State} {row : Nat} (h : (s.cardRow row).bad = true) : s.repairCard row =
    ((s.captureFault .card row).raise .tableFault row [4]).writeCard row
      { s.card row with
        state := .blocked, reserved := unitsNaming s.deposits row, balance := max (-255) (s.card row).balance
        clamped := (s.card row).clamped || (s.card row).balance < -255 } := by
  rw [State.repairCard, if_pos h]
  dsimp only
  rw [floorBalance_eq_max]
  rfl

/-- A second read finds nothing. -/
theorem State.repairCard_repairCard (s : State) (row : Nat) : (s.repairCard row).repairCard row = s.repairCard row :=
  State.repairCard_of_good (s.repairCard_good row)

theorem State.repairCard_mgmt (s : State) (row : Nat) : (s.repairCard row).mgmt = s.mgmt :=
  (congrArg State.mgmt (s.repairCard_restored row) :)

theorem adjustBalanceRequest_repaired {zero rh rl : Octet} (h : zero.toNat ≤ 1) (hle : u16 rh rl ≤ 8191)
    (ah al : Octet) (s : State) :
    adjustBalanceRequest [rh, rl, ah, al, zero] s =
      adjustBalanceRequest [rh, rl, ah, al, zero] (s.repairCard (u16 rh rl)) := by
  simp only [adjustBalanceRequest, parseYesNo_of_le h, if_pos hle, State.repairCard_repairCard]

/-! ### Station Entries -/

theorem loadStationRequest_read {addr count ih il dh dl : Octet} (h : LoadStationFits addr count ih il dh dl)
    (s : State) : loadStationRequest [addr, count, ih, il, dh, dl] s =
      loadStationRequest [addr, count, ih, il, dh, dl] (s.readStation addr.toNat) := by
  rw [loadStationRequest_eq, loadStationRequest_eq, if_pos h, if_pos h, State.readStation_readStation]

theorem removeStationRequest_read {addr : Octet} (h : 1 ≤ addr.toNat ∧ addr.toNat ≤ 64) (s : State) :
    removeStationRequest [addr] s = removeStationRequest [addr] (s.readStation addr.toNat) := by
  simp only [removeStationRequest, isStation_iff.2 h, if_true, State.readStation_readStation]

theorem readStationRequest_read {addr : Octet} (h : 1 ≤ addr.toNat ∧ addr.toNat ≤ 64) (s : State) :
    readStationRequest [addr] s = readStationRequest [addr] (s.readStation addr.toNat) := by
  simp only [readStationRequest, isStation_iff.2 h, if_true, State.readStation_readStation]

theorem clearStationErrorsRequest_read {addr counts : Octet} (h : 1 ≤ addr.toNat ∧ addr.toNat ≤ 64)
    (hcounts : counts.toNat ≤ 1) (named : Octet) (s : State) :
    clearStationErrorsRequest [addr, named, counts] s =
      clearStationErrorsRequest [addr, named, counts] (s.readStation addr.toNat) := by
  simp only [clearStationErrorsRequest, parseYesNo_of_le hcounts, isStation_iff.2 h, if_true,
    State.readStation_readStation]

theorem readContainerRequest_readStation (row : Octet) (s : State) :
    readContainerRequest [row] s = readContainerRequest [row] (s.readStation (rowStation row.toNat)) := by
  simp only [readContainerRequest, State.readStation_readStation]

/-- LOAD CONTAINER finds its stream good and loaded, and goes on to the Station Entry (R5). -/
theorem containerLoadRequest_of_stream {row : Octet} {fields : List Octet} {cfg : ContainerConfig} {grant : Octet}
    (hparse : parseConfig fields = some (cfg, grant)) (hgrant : grant.toNat ≤ 1) (hrange : cfg.inRange = true)
    {s : State} (hgood : (s.streamRow cfg.stream).bad = false) (hloaded : (s.streamRow cfg.stream).data.loaded = true) :
    containerLoadRequest (row :: 0 :: fields) s = s.loadUnderStation row.toNat cfg := by
  have hgrant' : (parseYesNo grant).isSome = true := by rw [parseYesNo_of_le hgrant]; rfl
  simp only [containerLoadRequest, hparse, hrange, hgrant', State.loadOfStream, State.readStream_of_good hgood, hgood,
    hloaded]
  rfl

theorem State.loadUnderStation_readStation (s : State) (row : Nat) (cfg : ContainerConfig) :
    s.loadUnderStation row cfg = (s.readStation (rowStation row)).loadUnderStation row cfg := by
  simp only [State.loadUnderStation, State.readStation_readStation]

/-- STOP AFTER CYCLE of a RUNNING segment begins with a read of its entries (R145). -/
theorem State.stopAfterCycle_read {s : State} {g : Seg} (h : (s.seg g).polling = .running) :
    s.stopAfterCycle g = (s.readSegment g).stopAfterCycle g := by
  have hpolling : ((s.readSegment g).seg g).polling = .running :=
    (Segment.Cleared.readStations (segAddrs g) s g).2.trans h
  unfold State.stopAfterCycle
  rw [if_pos h, if_pos hpolling, State.readSegment_readSegment]

/-! ### Container Entries -/

theorem readContainerRequest_read {row : Octet} {s : State}
    (h : (s.stationRow (rowStation row.toNat)).bad = false) :
    readContainerRequest [row] s = readContainerRequest [row] (s.readContainer row.toNat) := by
  have hread : ((s.readContainer row.toNat).stationRow (rowStation row.toNat)).bad = false := by
    rwa [State.readContainer_stationRow]
  simp only [readContainerRequest, State.readStation_of_good h, State.readStation_of_good hread,
    State.readContainer_readContainer]

/-- A faulty row read as loaded, without deposit, stop or place in the list: the entry alone is rewritten (R15). -/
theorem State.readContainer_of_idle {s : State} {row : Nat} (hbad : (s.containerRow row).bad = true)
    (hloaded : (s.container row).loaded = true) (hdeposit : s.depositAt row = none) (hlist : row ∉ s.dispatch.list)
    (hstops : ∀ n < 16, ∀ p ∈ (s.ticket n).stops, p.row ≠ row) :
    s.readContainer row =
      (s.tableFault .container row []).putContainer row (Row.good (s.container row).withdrawn) := by
  have hslot : s.plannedSlot row = none := by
    refine List.find?_eq_none.2 fun n hn hplans => ?_
    simp only [Bool.and_eq_true, List.any_eq_true, decide_eq_true_eq] at hplans
    obtain ⟨-, p, hp, hrow, -⟩ := hplans
    exact hstops n (List.mem_range.1 hn) p hp hrow
  have hassigned : (s.tableFault .container row []).assignedSlot row = none :=
    (if_pos (by exact hbad)).trans hslot
  have hfilter : s.dispatch.list.filter (· ≠ row) = s.dispatch.list :=
    List.filter_eq_self.2 fun r hr => decide_eq_true fun he => hlist (he ▸ hr)
  rw [State.readContainer_eq_discharge hbad, State.releaseAt_of_none (by exact hdeposit), State.discharge, hassigned,
    Container.readOut, if_pos hloaded]
  exact (congrArg (fun l => ({ (s.tableFault .container row []).putContainer row (Row.good (s.container row).withdrawn)
    with dispatch := { s.dispatch with list := l } } : State)) hfilter :)

/-- What READ CONTAINER carries of a row taken out of the system (R13, R15). -/
theorem State.reportContainer_withdrawn {u : State} {row : Octet} {c : Container}
    (hrow : u.container row.toNat = c.withdrawn) (hloaded : c.loaded = true) (hdeposit : u.depositAt row.toNat = none)
    (hlist : row.toNat ∉ u.dispatch.list) : u.reportContainer row.toNat =
      accepted u (let k := c.cfg
        [row, 0, if (u.station (rowStation row.toNat)).state = .inService then 0 else 1] ++
          ([octet k.stream] ++ be16 k.capacity ++ be16 k.depth ++ be16 k.deadZone ++
            [octet k.hatchVolume, octet k.unitCost, octet k.zone] ++ be16 k.warn ++ be16 k.full ++
            be16 k.hysteresis ++ [octet k.gain] ++ be16 k.spikeLimit ++ [octet k.qualityMin] ++
            be16 k.residue ++ [if k.grantUnknown then 0 else 1, k.reportMask]) ++
          [3, 0, 0, 0, 0xFF, 0xFF, 0, 0, 0] ++ [0, 0, 0, 0, 0, 0, 0, 0] ++ [255] ++
          [0, 0, 0, 0, 0] ++ [c.flags] ++ be16 c.deposits ++ [octet c.rejected]) := by
  have hloaded' : c.withdrawn.loaded = true := hloaded
  have htimer : be16 ((c.withdrawn.liftTimer.map u.remaining).getD 0) = [0, 0] := (by decide : be16 0 = [0, 0])
  have hestimate : be16 (c.withdrawn.estimate.getD 65535) = [0xFF, 0xFF] := (by decide : be16 65535 = [0xFF, 0xFF])
  rw [State.reportContainer, hrow, State.containerReport_eq, hrow, hdeposit]
  simp only [hlist, if_false, htimer, hestimate, hloaded', if_true, yesNo, State.reachable, decide_eq_true_eq, octet_toNat, List.append_assoc] <;>
  rfl

/-! ### GIVE TICKET -/

theorem State.giveOfStream_of_bad {s : State} {k : Ticket} (h : (s.streamRow k.stream).bad = true) :
    s.giveOfStream k = refused (s.tableFault .stream k.stream []) .state := by
  have hread : s.readStream k.stream = s.tableFault .stream k.stream [] := if_pos h
  have hbad : ((s.tableFault .stream k.stream []).streamRow k.stream).bad = true := h
  simp only [State.giveOfStream, hread, hbad, if_true]

/-! ### READ JOURNAL -/

/-- The faults of a run of records, each told under its place (R89). -/
theorem State.journalFaults_eq (j : Journal) (rs : List (Row JournalRecord)) (i : Nat) (s : State) :
    State.journalFaults j i rs s = (rs.zipIdx i).foldl (fun u p =>
      if p.1.bad then (u.captureFault .journal (j.slotAt p.2)).raise .tableFault (j.slotAt p.2) (6 :: be32 (j.seqAt p.2))
      else u) s := by
  induction rs generalizing i s with
  | nil => rfl
  | cons r rs ih => exact ih (i + 1) _

theorem recordOctets_eq (seq : Word32) (r : Row JournalRecord) : recordOctets seq r =
    be32 seq ++ [(if r.data.stamp.isSome then 1 else 0) ||| if r.bad then 2 else 0] ++
      cardOctets r.data.card ++ [octet r.data.row, octet r.data.units] ++ be16s r.data.balance ++
      (match r.data.stamp with
        | some m => be16 m.day ++ be16 m.minute
        | none => [0, 0, 0, 0]) := by
  unfold recordOctets
  cases hstamp : r.data.stamp with
  | none => simp [be16, octet, hstamp]
  | some m => simp [hstamp]

/-- The report of a run of records (R86, R89). -/
theorem Journal.report_eq (j : Journal) (rs : List (Row JournalRecord)) (i : Nat) :
    j.report i rs = (rs.zipIdx i).flatMap fun p => recordOctets (if p.1.bad then j.seqAt p.2 else p.1.data.seq) p.1 := by
  induction rs generalizing i with
  | nil => rfl
  | cons r rs ih => exact congrArg _ (ih (i + 1))

/-! ### The obligation -/

/-- Settles O21: a faulty entry is rebuilt or left by the first read, and the request goes on as on what it left. -/
theorem faultyReadsCapturedAndRepaired : Obligations.FaultyReadsCapturedAndRepaired := by
  unfold Obligations.FaultyReadsCapturedAndRepaired
  refine ⟨fun s tag rh rl h hle hbad => ⟨?readCard, availableOctets_of_le⟩,
    fun s tag rh rl ah al zero h hzero hle hbad => ?adjust,
    fun s a h1 h64 hbad => ⟨fun hloaded => ?rebuilt, fun hunloaded => ?unloads⟩,
    fun s tag addr count ih il dh dl named counts h1 h64 hbad => ⟨fun h hc1 hc4 hi hi' hd hd' => ?loadStation,
      fun h => ?removeStation, fun h => ?readStation, fun h hcounts => ?clearErrors⟩,
    fun s tag row fields hbad => ⟨fun h => ?readContainer, fun cfg grant h hparse hgrant hrange hgood hloaded =>
      ?loadContainer⟩,
    fun s tag seg h hseg hrun => ?stopAfterCycle, fun s tag x h hgood hbad => ?readFaulty,
    fun s tag x hs h hgood hbad hloaded hnone hlist hstops => ?reported,
    fun s tag nh nl stream ch cl stops vh vl hold h hstream hcap hcap' hstop hstop' hvol hbad => ?giveTicket,
    fun s tag n h h1 h8 hcount => ?journal⟩
  case readCard =>
    have hrequest : readCardRequest [rh, rl] s =
        accepted (s.tableFault .card (u16 rh rl) []) (s.cardReport (u16 rh rl)) := by
      refine (if_pos hle).trans ?_
      rw [if_pos hbad]
    refine (exec_readCard_of_carries h hrequest).trans ?_
    simp only [accepted, State.cardReport_eq, hbad]
    rfl
  case adjust =>
    rw [← State.repairCard_of_bad hbad]
    exact congrArg Host.Outcome.next (State.serve_congr h (s.repairCard_mgmt _) rfl
      (adjustBalanceRequest_repaired hzero hle ah al s))
  case rebuilt =>
    rw [State.readStation_of_bad hbad, if_pos hloaded]
    rfl
  case unloads =>
    rw [State.readStation_of_bad hbad, if_neg (by simp [hunloaded])]
    exact State.unloadStation_unloads h1
  case loadStation =>
    exact congrArg (fun t : State => Host.Outcome.next t.endEvent) (State.serve_congr h (s.readStation_mgmt _) rfl
      (loadStationRequest_read ⟨h1, h64, hc1, hc4, hi, hi', hd, hd'⟩ s))
  case removeStation =>
    exact congrArg (fun t : State => Host.Outcome.next t.endEvent) (State.serve_congr h (s.readStation_mgmt _) rfl
      (removeStationRequest_read ⟨h1, h64⟩ s))
  case readStation =>
    exact congrArg (fun t : State => Host.Outcome.next t.endEvent) (State.serve_congr h (s.readStation_mgmt _) rfl
      (readStationRequest_read ⟨h1, h64⟩ s))
  case clearErrors =>
    exact congrArg (fun t : State => Host.Outcome.next t.endEvent) (State.serve_congr h (s.readStation_mgmt _) rfl
      (clearStationErrorsRequest_read ⟨h1, h64⟩ hcounts named s))
  case readContainer =>
    exact congrArg Host.Outcome.next (State.serve_congr h (s.readStation_mgmt _) rfl
      (readContainerRequest_readStation row s))
  case loadContainer =>
    have hrow := s.readStation_streamRow (rowStation row.toNat) cfg.stream
    refine congrArg (fun t : State => Host.Outcome.next t.endEvent) (State.serve_congr h (s.readStation_mgmt _)
      (actionIs_self ..) ?_)
    rw [containerLoadRequest_of_stream hparse hgrant hrange hgood hloaded,
      containerLoadRequest_of_stream hparse hgrant hrange (hrow ▸ hgood) (hrow ▸ hloaded)]
    exact s.loadUnderStation_readStation row.toNat cfg
  case stopAfterCycle =>
    refine congrArg Host.Outcome.next (State.serve_congr h (State.foldl_readStation_mgmt _ s)
      (actionIs_self ..) ?_)
    have hread := State.stopAfterCycle_read hrun
    have hparse := parseSeg_of_le hseg
    generalize (if seg = 0 then Seg.a else Seg.b) = g at hread hparse ⊢
    simp only [pollControlRequest, hparse, hread] <;> rfl
  case readFaulty =>
    exact congrArg Host.Outcome.next (State.serve_congr h (s.readContainer_mgmt _) rfl (readContainerRequest_read hgood))
  case reported =>
    have hread := State.readContainer_of_idle hbad hloaded hnone hlist hstops
    have hrow (r : Nat) : (s.readContainer x.toNat).containerRow r =
        if r = x.toNat then Row.good (s.container x.toNat).withdrawn else s.containerRow r := by
      rw [hread, State.containerRow_putContainer]
      rfl
    have hrequest : readContainerRequest [x] s = (s.readContainer x.toNat).reportContainer x.toNat := by
      have hsettled : (s.readContainer x.toNat).Settled := (s.readContainer_passDue x.toNat).trans hs
      simp only [readContainerRequest, State.readStation_of_good hgood, State.endEvent_of_settled hsettled]
    refine ⟨_, congrArg Host.Outcome.next (State.serve_answers (f := readContainerRequest) h rfl hrequest), fun r => ?_, ?_⟩
    · rw [State.replied_containerRow]
      exact hrow r
    · have hdata := State.reportContainer_withdrawn (u := s.readContainer x.toNat) (row := x)
        (congrArg Row.data ((hrow x.toNat).trans (if_pos rfl))) hloaded (by rw [hread]; exact hnone)
        (by rw [hread]; exact hlist)
      rw [State.station, s.readContainer_stationRow] at hdata
      rw [hdata, hread]
      rfl
  case giveTicket =>
    have hrange : (Ticket.given (u16 nh nl) stream.toNat (u16 ch cl) stops.toNat (u16 vh vl) hold.toNat).inRange =
        true := Ticket.inRange_given_iff.2 ⟨hstream, hcap, hcap', hstop, hstop', hvol⟩
    exact exec_giveTicket_of_carries h ((if_pos hrange).trans (State.giveOfStream_of_bad hbad))
  case journal =>
    have hrequest : readJournalRequest [n] s = s.readJournal n.toNat := if_pos (by simp [h1, h8])
    refine (exec_readJournal_of_carries h hrequest).trans ?_
    simp only [State.readJournal, accepted, State.journalFaults_eq, Journal.report_eq, recordOctets_eq,
      List.length_zipIdx, List.length_take] <;>
    rfl

end Sys2Proof.Machine
end

section
/-! PROOF. A send turn reads its stations after it has sent its CONFIGURE (R136), so that it writes two entries in the
other order than a turn before which the second was read: of a table that is not in canonical form they leave two. -/

namespace Sys2Proof.Machine

/-- A segment with a send turn due, on whose configure list station 2 stands. Station 2 is not loaded, and its entry is
the cold one but for the CONFIGURE it awaits; station 1 is loaded and its entry reads faulty. The entries are listed out
of order. -/
def turningDisordered : State :=
  { State.reset with
    stations := [(2, Row.good { Station.cold with awaiting := true }),
      (1, { data := { Station.cold with loaded := true, count := 1, state := .inService }, bad := true })]
    segA := { Segment.cold with cfgList := [2], turnDue := true, polling := .running } }

/-- The turn itself: the CONFIGURE takes the cold entry of station 2 out of the table, and station 1 is then rebuilt in
its place. -/
theorem sendTurn_turningDisordered : exec (.sendTurn .a) turningDisordered =
    .next (turningDisordered.sendTurn .a).endEvent := rfl

/-- The turn after a read of station 1: its rebuilt entry stands in front of that of station 2, and the faulty one stays
behind. -/
theorem sendTurn_readStation_turningDisordered : exec (.sendTurn .a) (turningDisordered.readStation 1) =
    .next ((turningDisordered.readStation 1).sendTurn .a).endEvent := rfl

theorem sendTurn_turningDisordered_keys :
    (turningDisordered.sendTurn .a).endEvent.stations.map Prod.fst = [1] := by decide

theorem sendTurn_readStation_turningDisordered_keys :
    ((turningDisordered.readStation 1).sendTurn .a).endEvent.stations.map Prod.fst = [1, 1] := by decide

/-- Refutes O22: a turn whose search comes to a faulty entry is to go on as it does on the entry once it is rebuilt, but
its CONFIGURE has by then taken another entry out of the table, and the two tables differ where the keys do not rise. -/
theorem not_faultyReadsInEvents : ¬ Obligations.FaultyReadsInEvents := by
  unfold Obligations.FaultyReadsInEvents
  rintro ⟨-, -, -, -, -, -, -, -, -, hturn, -⟩
  obtain ⟨-, hsearch⟩ := hturn turningDisordered .a 1 rfl rfl rfl rfl rfl (by decide) rfl
  have hhead : ∀ b, [2].head? = some b → b ∈ segAddrs .a ∧ (turningDisordered.stationRow b).bad = false := by
    intro b hb
    obtain rfl : 2 = b := Option.some.inj hb
    exact ⟨by decide, rfl⟩
  have hnone : ∀ b ∈ segAddrs .a, 0 < b → b < 1 → (turningDisordered.stationRow b).bad = false ∧
      (turningDisordered.station b).state.polled 0 = false :=
    fun b _ hpos hlt => absurd hlt (Nat.not_lt.2 hpos)
  have hgoesOn : exec (.sendTurn .a) turningDisordered = exec (.sendTurn .a) (turningDisordered.readStation 1) :=
    (hsearch (by decide) hhead).1 (by decide) hnone
  rw [sendTurn_turningDisordered, sendTurn_readStation_turningDisordered] at hgoesOn
  have hkeys := congrArg (fun t : State => t.stations.map Prod.fst) (Host.Outcome.next.inj hgoesOn)
  simp only [sendTurn_turningDisordered_keys, sendTurn_readStation_turningDisordered_keys] at hkeys
  exact absurd hkeys (by decide)

end Sys2Proof.Machine
end
